-- ==== Sys2Proof/Word.lean ====
section
/-! DEFINITION. The words of the block: native words with their check bits, packets, and the plainest
arithmetic over them. -/

namespace Sys2Proof

/-- Payload of a native word, and the width of a register (R5). -/
abbrev Word := BitVec 64
/-- Line address L = PA[47:6] (R16), or a transformed line address L′ (R17). -/
abbrev Line := BitVec 42
/-- A 512-bit agent vector, bit a for agent a. -/
abbrev Vec := BitVec 512
/-- One 16-byte unit payload: W0 in [63:0], W1 in [127:64] (R518). -/
abbrev Unit128 := BitVec 128

/-- A native word: 64 payload bits and 8 check bits (R4, R381). -/
structure W72 where
  data : BitVec 64
  chk  : BitVec 8
  deriving DecidableEq, Repr

/-- A unit on the network: two native words W0 and W1 (R514). -/
structure RawUnit where
  w0 : W72
  w1 : W72
  deriving DecidableEq, Repr

/-- A packet as it arrives: unit 0 is the header (R514). -/
abbrev Pkt := List RawUnit

/-- One access at the register port: an access of up to 8 bytes, or both beats of a 16-byte one (R538). -/
structure RegAcc where
  wr   : Bool
  size : BitVec 3
  addr : BitVec 20
  tag  : BitVec 8
  lo   : BitVec 64
  hi   : BitVec 64
  deriving DecidableEq, Repr

/-- The form of a write to one named register: the whole 64 bits, or one 32-bit half (R554). -/
inductive WrForm where
  | whole (v : BitVec 64)
  | low   (v : BitVec 32)
  | high  (v : BitVec 32)
  deriving DecidableEq, Repr

/-- Count one more, saturating at `2^w - 1`. -/
def satInc {w : Nat} (x : BitVec w) : BitVec w :=
  if x = BitVec.allOnes w then x else x + 1

/-- Add `k`, saturating at `2^w - 1`. -/
def satAdd {w : Nat} (x : BitVec w) (k : Nat) : BitVec w :=
  if x.toNat + k < 2 ^ w then x + BitVec.ofNat w k else BitVec.allOnes w

/-- Add one to the element at position `i` of a list of counters (modulo 2^64). -/
def bump (i : Nat) (l : List Word) (k : Nat := 1) : List Word :=
  l.modify i (· + BitVec.ofNat 64 k)

/-- The `hi:lo` bits of `w`. -/
def bits {n : Nat} (w : BitVec n) (hi lo : Nat) : BitVec (hi - lo + 1) :=
  w.extractLsb hi lo

/-- The `hi:lo` bits of `w` as a number. -/
def fld {n : Nat} (w : BitVec n) (hi lo : Nat) : Nat :=
  (w.toNat >>> lo) % 2 ^ (hi - lo + 1)

/-- `v` placed at bit `lo` of a 64-bit word; the caller gives a value that fits its field. -/
def put (v lo : Nat) : Word := BitVec.ofNat 64 (v <<< lo)

/-- A Bool as a 64-bit word with the bit at `lo`. -/
def putB (b : Bool) (lo : Nat) : Word := if b then put 1 lo else 0

/-- The `hi:lo` bits of `w` replaced by `v` (taken modulo the field's width). -/
def setFld (w : Word) (hi lo v : Nat) : Word :=
  let m : Word := BitVec.ofNat 64 ((2 ^ (hi - lo + 1) - 1) <<< lo)
  (w &&& ~~~m) ||| (BitVec.ofNat 64 (v <<< lo) &&& m)

end Sys2Proof
end

