-- ==== Sys2Proof/Config.lean ====
section
/-! DEFINITION. What the specification leaves free: constants without a body, so that nothing can be proved
of a particular value. The plain counters they are applied to are fields of State (notes/assumptions). -/

namespace Sys2Proof.Config

/-- A choice the specification does not make (which free tracker, recall entry, leash entry, far register,
job slot or Kennel transaction a piece of work takes): a free value per choice, log entry 3. -/
opaque freeNat : Nat → Nat

/-- The present clock of an island in MHz, a reading of a physical quantity, log entry 4. -/
opaque freeMhz : Nat → BitVec 12

/-- The corrected temperature that a thermal conversion yields: the specification names the calibration
offset and gain without the arithmetic of the correction, log entry 5. Arguments: sensor, raw reading,
the sensor's calibration word. -/
opaque thermalCorrect : Nat → BitVec 16 → BitVec 64 → BitVec 16

/-- A result the specification does not state, one for each use, log entry 6. -/
opaque freeWord : Nat → BitVec 64

/-- The TYPE code of a Kennel record-log record of the Kennel's own: the specification names the records and gives no
codes (log entry 22). The argument is the model's number of the kind of record. -/
opaque kstType : Nat → BitVec 8

end Sys2Proof.Config
end

