-- ==== Sys2Proof/Machine/Code.lean ====
section
/-! DEFINITION. The word code of R381 to R383 and the hash arithmetic of R17, R18, R62 and R172. -/

namespace Sys2Proof.Machine

/-- Parity of a 64-bit word. -/
def parity64 (x : BitVec 64) : Bool :=
  let a := x ^^^ (x >>> 32)
  let a := a ^^^ (a >>> 16)
  let a := a ^^^ (a >>> 8)
  let a := a ^^^ (a >>> 4)
  let a := a ^^^ (a >>> 2)
  let a := a ^^^ (a >>> 1)
  a.getLsbD 0

/-- The 8-bit values of weight 3 in ascending order, then the eight columns R381 names: the columns of
payload bits 0 to 63. -/
def payloadCols : List (BitVec 8) :=
  [0x07, 0x0B, 0x0D, 0x0E, 0x13, 0x15, 0x16, 0x19, 0x1A, 0x1C, 0x23, 0x25, 0x26, 0x29, 0x2A, 0x2C,
   0x31, 0x32, 0x34, 0x38, 0x43, 0x45, 0x46, 0x49, 0x4A, 0x4C, 0x51, 0x52, 0x54, 0x58, 0x61, 0x62] ++
  [0x64, 0x68, 0x70, 0x83, 0x85, 0x86, 0x89, 0x8A, 0x8C, 0x91, 0x92, 0x94, 0x98, 0xA1, 0xA2, 0xA4,
   0xA8, 0xB0, 0xC1, 0xC2, 0xC4, 0xC8, 0xD0, 0xE0, 0x1F, 0x2F, 0x37, 0x3B, 0x3D, 0x3E, 0x4F, 0x57]

/-- The 8-bit values of weight 2 in ascending order, 0x03 to 0x50: the columns of WADDR bits 0 to 19 (R381). -/
def addrCols : List (BitVec 8) :=
  [0x03, 0x05, 0x06, 0x09, 0x0A, 0x0C, 0x11, 0x12, 0x14, 0x18,
   0x21, 0x22, 0x24, 0x28, 0x30, 0x41, 0x42, 0x44, 0x48, 0x50]

/-- XOR of the columns whose bit of `n` is set. -/
def xorCols : List (BitVec 8) → Nat → BitVec 8
  | [], _ => 0
  | c :: cs, n => (if n % 2 = 1 then c else 0) ^^^ xorCols cs (n / 2)

/-- The check bits of payload `d` at address `waddr` (R381). -/
def checkBits (d : BitVec 64) (waddr : Nat) : BitVec 8 :=
  xorCols payloadCols d.toNat ^^^ xorCols addrCols waddr

/-- A word with the check bits of its address. -/
def encode72 (d : BitVec 64) (waddr : Nat) : W72 := ⟨d, checkBits d waddr⟩

/-- A word stored poisoned (R385). -/
def poison72 (d : BitVec 64) (waddr : Nat) : W72 := ⟨d, checkBits d waddr ^^^ 0xFF⟩

/-- The syndrome of a read (R383). -/
def syndrome (w : W72) (waddr : Nat) : BitVec 8 := w.chk ^^^ checkBits w.data waddr

/-- The classes of a read word (Table 13-2). -/
inductive RdClass where
  | clean
  | corrected
  | poisoned
  | uncorrectable
  deriving DecidableEq, Repr

/-- The position of the first element equal to `c`. -/
def colIndex (c : BitVec 8) : List (BitVec 8) → Nat → Option Nat
  | [], _ => none
  | x :: xs, i => if x = c then some i else colIndex c xs (i + 1)

/-- What a read at `waddr` yields: its class and the payload used (R383, Table 13-2). -/
def classify (w : W72) (waddr : Nat) : RdClass × BitVec 64 :=
  let s := syndrome w waddr
  if s = 0 then (.clean, w.data)
  else if s = 0xFF then (.poisoned, w.data)
  else match colIndex s payloadCols 0 with
    | some i => (.corrected, w.data ^^^ (1#64 <<< i))
    | none =>
      if (List.range 8).any (fun k => s == (1#8 <<< k)) then (.corrected, w.data)
      else (.uncorrectable, w.data)

/-- `true` when the word can be used: clean or corrected. -/
def RdClass.usable : RdClass → Bool
  | .clean | .corrected => true
  | .poisoned | .uncorrectable => false

/-- Parity of a 42-bit row product. -/
def parity42 (x : Line) : Bool := parity64 (x.setWidth 64)

/-- The product of the bit matrix `rows` with `l` over GF(2): bit j is the parity of (row j AND l) (R17). -/
def mulGF2 (rows : List Line) (l : Line) : Line :=
  (rows.foldr (fun r (acc : Nat) => 2 * acc + (if parity42 (r &&& l) then 1 else 0)) 0 |> BitVec.ofNat 42)

/-- Logical slice of a transformed line: L′[5:0] (R17). -/
def lpSlice (lp : Line) : Nat := fld lp 5 0
/-- Directory set of a transformed line: L′[20:6] (R17). -/
def lpSet (lp : Line) : Nat := fld lp 20 6
/-- Tag of a transformed line: L′[41:21] (R17). -/
def lpTag (lp : Line) : Nat := fld lp 41 21
/-- The transformed line of a slice, set and tag (R18). -/
def lpOf (slice set tag : Nat) : Line := BitVec.ofNat 42 (tag <<< 21 ||| set <<< 6 ||| slice)

/-- Gaussian elimination step over rows paired with the identity: one column at a time (R18, Table 12-8). -/
def gaussGo : Nat → Nat → List (Line × Line) → List (Line × Line) → Option (List (Line × Line))
  | 0, _, done, _ => some done.reverse
  | k + 1, c, done, rest =>
    match rest.find? (fun r => r.1.getLsbD c) with
    | none => none
    | some p =>
      let rest' := rest.erase p
      let elim := fun (r : Line × Line) => if r.1.getLsbD c then (r.1 ^^^ p.1, r.2 ^^^ p.2) else r
      gaussGo k (c + 1) (p :: done.map elim) (rest'.map elim)

/-- The inverse of a 42×42 bit matrix given by rows, when it is invertible (R18). -/
def invGF2 (rows : List Line) : Option (List Line) :=
  (gaussGo 42 0 [] ((List.range 42).zip rows |>.map fun (i, r) => (r, 1#42 <<< i))).map (·.map Prod.snd)

/-- One bit step of CRC-32C, reflected form (R62). -/
def crcStep (c : BitVec 32) : BitVec 32 :=
  if c.getLsbD 0 then (c >>> 1) ^^^ 0x82F63B78 else c >>> 1

/-- One byte of CRC-32C. -/
def crcByte (c : BitVec 32) (b : BitVec 8) : BitVec 32 :=
  let c := c ^^^ b.setWidth 32
  crcStep (crcStep (crcStep (crcStep (crcStep (crcStep (crcStep (crcStep c)))))))

/-- CRC-32C of a byte string. -/
def crc32c (bs : List (BitVec 8)) : BitVec 32 := ~~~(bs.foldl crcByte 0xFFFFFFFF)

/-- The `n` bytes of a number, least significant first (R4). -/
def bytesOf : Nat → Nat → List (BitVec 8)
  | 0, _ => []
  | n + 1, x => BitVec.ofNat 8 x :: bytesOf n (x / 256)

/-- The number of a byte string, least significant first (R4). -/
def ofBytes : List (BitVec 8) → Nat
  | [] => 0
  | b :: bs => b.toNat + 256 * ofBytes bs

/-- Hash of a stencil vector: CRC-32C of its 64 bytes (R62). -/
def vecHash (v : Vec) : BitVec 32 := crc32c (bytesOf 64 v.toNat)

/-- The members of a vector, in ascending agent ID. -/
def vecMembers (v : Vec) : List Nat := (List.range 512).filter (fun a => v.getLsbD a)

/-- The number of bits set. -/
def vecCount (v : Vec) : Nat := (vecMembers v).length

/-- The vector of a list of agents. -/
def vecOf (l : List Nat) : Vec := l.foldl (fun v a => v ||| (1#512 <<< a)) 0

/-- `v` without agent `a`. -/
def vecDel (v : Vec) (a : Nat) : Vec := v &&& ~~~(1#512 <<< a)

/-- `v` with agent `a`. -/
def vecAdd (v : Vec) (a : Nat) : Vec := v ||| (1#512 <<< a)

/-- Index of a line in the contention predictor and the width hints (R172, R250). -/
def predIndex (lp : Line) : Nat := (fld lp 17 6) ^^^ (fld lp 29 18) ^^^ (fld lp 41 30)

/-- One step of the 31-bit LFSR (R237). -/
def lfsrStep (s : BitVec 31) : BitVec 31 :=
  (s <<< 1) ||| (if s.getLsbD 30 ^^ s.getLsbD 27 then 1#31 else 0#31)

/-- `k` steps of the LFSR. -/
def lfsrSteps : Nat → BitVec 31 → BitVec 31
  | 0, s => s
  | k + 1, s => lfsrSteps k (lfsrStep s)

/-- The seed of physical slice `n` (R237): GLB_ARB.SEED XOR n × 0x1F35A7, zero replaced by 1. -/
def lfsrSeed (seed : BitVec 31) (n : Nat) : BitVec 31 :=
  let s := seed ^^^ BitVec.ofNat 31 (n * 0x1F35A7)
  if s = 0 then 1 else s

end Sys2Proof.Machine
end

