-- ==== Sys2Proof/Machine/Mem.lean ====
section
/-! DEFINITION. Arrays of native words as sparse lists of (word address, word) pairs in one canonical form:
addresses strictly rising, and no entry equal to what an unlisted address reads as. An unlisted address
reads as zero payload with the check bits of its address, which is what the ENGRAVE fill writes into every
array word (R320, R91); log entry 7. -/

namespace Sys2Proof.Machine

/-- An array of native words. -/
abbrev Memory := List (Nat × W72)

/-- What an unlisted address reads as. -/
def Memory.blank (a : Nat) : W72 := encode72 0 a

/-- The word stored at address `a`. -/
def Memory.read : Memory → Nat → W72
  | [], a => Memory.blank a
  | (b, w) :: m, a => if a = b then w else Memory.read m a

/-- `w` put at address `a`, keeping the addresses rising. -/
def Memory.insert : Memory → Nat → W72 → Memory
  | [], a, w => [(a, w)]
  | (b, x) :: m, a, w =>
    if a < b then (a, w) :: (b, x) :: m
    else if a = b then (a, w) :: m
    else (b, x) :: Memory.insert m a w

/-- The entries of address `a` removed. -/
def Memory.erase : Memory → Nat → Memory
  | [], _ => []
  | (b, x) :: m, a => if a = b then Memory.erase m a else (b, x) :: Memory.erase m a

/-- The word at address `a` written, in canonical form. -/
def Memory.write (m : Memory) (a : Nat) (w : W72) : Memory :=
  if w = Memory.blank a then Memory.erase m a else Memory.insert m a w

/-- The addresses rise strictly above `lo`, and no entry is blank. -/
def Memory.wfFrom : Nat → Memory → Bool
  | _, [] => true
  | lo, (b, w) :: m => decide (lo ≤ b) && decide (w ≠ Memory.blank b) && Memory.wfFrom (b + 1) m

/-- The canonical form of an array. -/
def Memory.wf (m : Memory) : Bool := Memory.wfFrom 0 m

/-- Several consecutive words written. -/
def Memory.writeList : Memory → Nat → List W72 → Memory
  | m, _, [] => m
  | m, a, w :: ws => Memory.writeList (m.write a w) (a + 1) ws

/-- Several consecutive words read. -/
def Memory.readList (m : Memory) (a n : Nat) : List W72 := (List.range n).map (fun i => m.read (a + i))

/-! ### Sparse tables of plain values, used for per-port, per-pack and per-set control state -/

/-- The value at key `k` of a table, or `d`. -/
def tget {α : Type} (d : α) : List (Nat × α) → Nat → α
  | [], _ => d
  | (j, x) :: t, k => if k = j then x else tget d t k

/-- The entries at key `k` of a table removed. -/
def tdel {α : Type} : List (Nat × α) → Nat → List (Nat × α)
  | [], _ => []
  | (j, x) :: t, k => if k = j then tdel t k else (j, x) :: tdel t k

/-- The value at key `k` set, keeping keys rising. -/
def tins {α : Type} : List (Nat × α) → Nat → α → List (Nat × α)
  | [], k, v => [(k, v)]
  | (j, x) :: t, k, v =>
    if k < j then (k, v) :: (j, x) :: t
    else if k = j then (k, v) :: t
    else (j, x) :: tins t k v

/-- The value at key `k` set, a default value leaving no entry. -/
def tset {α : Type} [DecidableEq α] (d : α) (t : List (Nat × α)) (k : Nat) (v : α) : List (Nat × α) :=
  if v = d then tdel t k else tins t k v

/-- `x` put before the first element that it does not exceed under `le`. -/
def insSorted {α : Type} (le : α → α → Bool) (x : α) : List α → List α
  | [] => [x]
  | y :: l => if le x y then x :: y :: l else y :: insSorted le x l

/-- Insertion sort, structural so that it evaluates. -/
def sortBy {α : Type} (le : α → α → Bool) : List α → List α
  | [] => []
  | x :: l => insSorted le x (sortBy le l)

end Sys2Proof.Machine
end

