-- ==== Sys2Proof/Machine/SliceState.lean ====
section
/-! DEFINITION. The state of one slice (Table 1-2) and the messages it exchanges. -/

namespace Sys2Proof.Machine

/-- A message of the network: the fields of Table 4-2, the further-field area F and the units after the
header (R515, R516). `lineOk` is false on a received response whose W1 is ignored (Table 18-4). -/
structure Msg where
  cls   : BitVec 2
  cmd   : BitVec 5
  src   : BitVec 10
  dst   : BitVec 10
  txid  : BitVec 12
  pack  : BitVec 4
  line  : Line
  f     : BitVec 28 := 0
  units : List Unit128 := []
  route : BitVec 12 := 0
  lineOk : Bool := true
  deriving DecidableEq, Repr

/-- The request types of the REQ class that agents send (Table 4-3, CMD 0x01 to 0x0F). -/
inductive ReqKind where
  | rdShared | rdUnique | rdOnce | upgrade | wrBack | evictClean | wrFull | wrPartial
  | stash | atomic | leashTake | leashFree | resvWatch | barrier | cancel
  deriving DecidableEq, Repr

/-- A request as its home holds it: the requester and the message's fields, `be` the byte enables of a
WrPartial, `data` its data units. -/
structure Req where
  kind : ReqKind
  port : Nat
  txid : BitVec 12
  pack : BitVec 4
  line : Line
  f    : BitVec 28
  be   : BitVec 64 := 0
  data : List Unit128 := []
  deriving DecidableEq, Repr

/-- What has rewritten a word since it was found uncorrectable (R398, R400): nothing, a write, or census, whatever came later. -/
inductive Rewrite where
  | no | write | census
  deriving DecidableEq, Repr

/-- An admission entry (R229): one place per port. `complete`: header and all data units are present;
`age`: slice cycles in contest; `contest`: the contest length in force when it entered; `at_`: when its header came. -/
structure AdmEntry where
  port     : Nat
  req      : Req
  complete : Bool
  age      : Nat := 0
  contest  : Nat := 64
  est      : Int := 0
  admitted : Bool := false
  lastWhy  : Nat := 1
  at_      : Nat := 0
  deriving DecidableEq, Repr

/-- What a tracker, recall entry or leash waits for from one party (R115). -/
inductive ExpKind where
  | inval | fwd | recall | mem | stash | kill | data
  deriving DecidableEq, Repr

/-- One expected answer: the party's node ID, the snoop or request as sent, whether it is still held back
(R125, R113), when it was sent, and how often the timeout has passed. -/
structure Exp where
  kind   : ExpKind
  node   : Nat
  msg    : Msg
  held   : Bool := false
  sentAt : Nat := 0
  tries  : Nat := 0
  deriving DecidableEq, Repr

/-- Why an admitted request is not yet decided (R78, R81, R144, R153, R154, R193, R73, R179, R190, R194, R223). `order`: a busy line
or a live tracker (R153, R154); `line`: the order of the line otherwise (R112, R223, R461). -/
inductive WaitWhy where
  | chain | collapse | recall | order | line | leash | way | farReg | watchAge | leashTable | linkInstall
  deriving DecidableEq, Repr

/-- The phase of a tracker. -/
inductive TStat where
  | admitted
  | waiting (why : WaitWhy)
  | decided
  | compSent
  deriving DecidableEq, Repr

/-- Per-port admission state of a slice (R145, R241, R244). -/
structure PortAdm where
  loss  : Nat := 0
  exp   : Nat := 0
  quota : Nat := 0
  reqTok : BitVec 8 := 0
  ctlTok : BitVec 8 := 0
  deriving DecidableEq, Repr

/-- A transaction tracker in use. `seq` is its place in the order of admission. `exp`: answers still expected (R115). `jseq`: the SEQ of
its ADMIT record (R420). `counted`: the waits already counted (Table 3-13 i = 6, Table 6-3, Table 7-10 i = 7). `entry`: the request
still holds its port's admission entry (R229). `inWin`: its admission counts in the port's present quota window (R241). -/
structure Tracker where
  no     : Nat
  seq    : Nat
  req    : Req
  aged   : Bool := false
  est    : Int := 0
  cost   : Int := 0
  stat   : TStat := .admitted
  exp    : List Exp := []
  done   : List Exp := []
  far    : Option Nat := none
  status : BitVec 3 := 0
  grant  : BitVec 3 := 0
  poison : Bool := false
  unit   : Option Unit128 := none
  h1     : Bool := false
  ackAt  : Nat := 0
  ackTries : Nat := 0
  leash  : Option Nat := none
  offered : Bool := false
  was    : PortAdm := {}
  jseq   : BitVec 32 := 0
  counted : List WaitWhy := []
  entry  : Bool := false
  inWin  : Bool := false
  deriving DecidableEq, Repr

/-- The logical content of a directory entry (Table 3-1). -/
inductive DirSt where
  | i | s | x | o | l | p
  deriving DecidableEq, Repr

/-- What a recall buffer entry does when its answers are in (R119, R413, R448). -/
inductive RecallKind where
  | evict
  | conflict
  | deadOwner
  deriving DecidableEq, Repr

/-- A recall buffer entry in use (R79), or the background tracker of a line step (R460). `no`: its home TXID, 256 to 287
for the recall buffer and 240 to 255 for a background tracker (R96). `st`: the state the line had in the directory. `fence`: the job or
walk it works for. -/
structure Recall where
  no    : Nat
  seq   : Nat
  line  : Line
  kind  : RecallKind := .evict
  st    : DirSt := .i
  row   : Option Nat := none
  exp   : List Exp := []
  done  : List Exp := []
  dirty : Nat := 0
  data  : List Unit128 := []
  poison : Bool := false
  fence : Option Nat := none
  deriving DecidableEq, Repr

/-- A leash table entry in use (R191, R195). -/
structure Leash where
  no     : Nat
  agent  : Nat
  slot   : Bool
  line   : Line
  start  : Option Nat := none
  limit  : Nat := 0
  cut    : Option Exp := none
  deriving DecidableEq, Repr

/-- An arrival in the barrier table (R210), with the time it was recorded and the time its instance times out, fixed when the instance
begins (Table 8-9, TMO). `stage`: 0 waiting, 1 reported to the coordinator, 2 released and waiting for the completion barrier. -/
structure BarArr where
  port  : Nat
  txid  : BitVec 12
  scope : BitVec 2
  mem   : Bool
  gen   : BitVec 4
  at_   : Nat
  due   : Nat
  stage : Nat := 0
  deriving DecidableEq, Repr

/-- A granule watch (R186): agent, THREAD, the granule's first line, its size and the time of installation. -/
structure Watch where
  agent  : Nat
  thread : BitVec 2
  first  : Line
  gran   : Nat
  at_    : Nat
  deriving DecidableEq, Repr

/-- The control state of a far register in use (R176 to R181); its eight words lie in bank 28. `seq`: the place in the
order of admission of the decision that fills it (R180). -/
structure FarReg where
  no    : Nat
  line  : Line
  valid : Bool := false
  poison : Bool := false
  last  : Nat := 0
  idle  : Nat := 0
  queue : List Nat := []
  wb    : Option Exp := none
  wbWanted : Bool := false
  seq   : Nat := 0
  deriving DecidableEq, Repr

/-- A holder set with the state it is to be written in: what one directory update calls for (R65). -/
structure EntNew where
  st     : DirSt
  owner  : Nat := 0
  sharers : Vec := 0
  pred   : Bool := false
  leash  : Nat := 0
  deriving DecidableEq, Repr

/-- What a background step asks of the stencil unit: the repointing of a way's entry (R75), or the indexing of a row (R74). -/
inductive StnTask where
  | repoint
  | compact (row : Nat)
  deriving DecidableEq, Repr

/-- An operation of the stencil unit (R67): an update of a way's holder set (R65), the release of a row (R66), or a background
`task`. `htx`: the home TXID of what issues it; `seq`: its request's place in the order of admission; `keep`: the requester that
a collapse keeps (R72), none when the update has none; `reserved`: the row reclaimed for it (R71), once its recall runs. An
operation in the wait list without a reserved row waits for an earlier operation or collapse of its way (R68). `pack`: the PACK of
its transaction, 0 when it has none (R98; log entry 19). -/
structure StnOp where
  set    : Nat
  way    : Nat
  line   : Line
  new    : EntNew
  release : Option Nat := none
  task   : Option StnTask := none
  htx    : Option Nat := none
  seq    : Nat := 0
  keep   : Option Nat := none
  pack   : BitVec 4 := 0
  reserved : Option Nat := none
  deriving DecidableEq, Repr

/-- A line being collapsed (R72): the tracker or census job that collapses it with its place in the order of admission, the
holders still to answer, the old row, and the entry to be written; `taken`: a census has marked the way meanwhile (R411). -/
structure Collapse where
  line  : Line
  set   : Nat
  way   : Nat
  htx   : Nat
  seq   : Nat := 0
  exp   : List Exp
  done  : List Exp := []
  oldRow : Option Nat
  new   : EntNew
  taken : Bool := false
  deriving DecidableEq, Repr

/-- A parity error in control state that no use has met yet (Table 13-4). No command injects one: a state may hold any (log entry 75). -/
inductive ParErr where
  | nru (set : Nat)
  | hint (i : Nat)
  | pred (i : Nat)
  | freeMap
  | queue
  deriving DecidableEq, Repr

/-- The kinds of census (R406). -/
inductive CenKind where
  | line | set | slice
  deriving DecidableEq, Repr

/-- What one agent reported in a census: the reports' RSEQ values held and whether LAST has come (R410). -/
structure CenAgent where
  agent  : Nat
  rseqs  : List Nat := []
  lastAt : Option Nat := none
  sentAt : Nat := 0
  tries  : Nat := 0
  held   : Bool := false
  ignored : Bool := false
  deriving DecidableEq, Repr

/-- One reported line in a build slot: who reported it, and the state (Table 13-10 step 4). -/
structure CenRec where
  line  : Line
  agent : Nat
  st    : BitVec 3
  deriving DecidableEq, Repr

/-- A census job (Table 13-10, R417). `step` is the step it is in; `rebuilt`: the entries that step 5 wrote. -/
structure CenJob where
  slot  : Nat
  cjob  : BitVec 12
  kind  : CenKind
  set   : Nat
  way   : Nat
  line  : Line
  step  : Nat
  markSeq : Nat := 0
  agents : List CenAgent := []
  recs  : List CenRec := []
  ignored : Nat := 0
  rebuilt : Nat := 0
  deriving DecidableEq, Repr

/-- A queued census job (R407). -/
structure CenQueued where
  cjob  : BitVec 12
  kind  : CenKind
  set   : Nat
  way   : Nat
  line  : Line
  deriving DecidableEq, Repr

/-- The state of a transaction or table entry, as a journal record holds it (Table 14-2). -/
inductive Owner where
  | trk (t : Tracker)
  | rcl (r : Recall)
  | leash (l : Leash)
  | bar (b : BarArr)
  | job (j : CenJob)
  | far (f : FarReg)
  deriving DecidableEq, Repr

/-- A journal record (R421, R422): its header, `pos`, the entries written before it since reset, and its content. `own`: what it
describes, as it stands when the record's cycle ends, none once it is freed; `ops`: the directory updates of a DECIDE that the stencil
unit has still to write; `words`: the after-images of a DECIDE or IMAGE, by WADDR; `ans`: the answer consumed; `msgs`: the messages
that pass to the network interface with the record (R423). -/
structure JRec where
  seq  : BitVec 32
  kind : BitVec 4
  nent : Nat
  htx  : BitVec 12
  arg  : BitVec 12
  pos  : Nat := 0
  own  : Option Owner := none
  ops  : List StnOp := []
  words : List (Nat × W72) := []
  ans  : Option Msg := none
  msgs : List Msg := []
  deriving DecidableEq, Repr

/-- A predictor entry (R172). -/
structure PredEnt where
  ctr   : Nat := 0
  stamp : BitVec 12 := 0
  deriving DecidableEq, Repr

/-- One packet held in the receive queue during replay (R428), with the node that received it; `given`: what a give-up takes in the
place of a packet that did not come (Table 18-5). -/
structure Held where
  pkt  : Pkt
  node : Nat
  given : Option Msg := none
  deriving DecidableEq, Repr

/-- The watch table and the build table as arrays: whether one of their words has been written since the fill, and how often what they hold
has changed, for the free payloads of their words (log entry 6). -/
structure TabUse where
  ver : Nat := 0
  wat : Bool := false
  cen : Bool := false
  deriving DecidableEq, Repr

/-- A failed packet for which `sent` Resends were sent, the last at `at_` (R533, R535). `left`: none while an intact copy is awaited;
afterwards the later copies that may still come. `unit`, `word` and `syn`: the word of its last copy that did not decode (R551). -/
structure ResendWait where
  src  : BitVec 10
  cls  : BitVec 2
  cmd  : BitVec 5
  txid : BitVec 12
  line : Option Line
  pack : BitVec 4 := 0
  sent : Nat := 1
  at_  : Nat := 0
  unit : Nat := 0
  word : Nat := 0
  syn  : Nat := 0
  left : Option Nat := none
  deriving DecidableEq, Repr

/-- A walk of a slice's directory started by the control island, the Kennel or a retirement (R49, R450,
R451, R446): who asked, and the next set. -/
inductive WalkWhy where
  | fence (pack : Nat)
  | packReset (pack : Nat)
  | retire (agent : Nat)
  | job (slot : Nat)
  deriving DecidableEq, Repr

/-- A background walk in progress (R49, R457): the next set, and the end of the chunks issued so far (R458). `op`: the
kind of Table 15-1; `pack`: the pack whose holders it acts on; `range`: the pages it covers; `pace`: R459. -/
structure Walk where
  why   : WalkWhy
  next  : Nat := 0
  stop  : Nat := 32768
  op    : Nat := 1
  pack  : Option Nat := none
  range : Option (Nat × Nat) := none
  pace  : Nat := 0
  deriving DecidableEq, Repr

/-- What one step of a line walk, a FILL or a SCRUB covers (R458); `repair`: the repair of a row that a SCRUB has found weak (R464). -/
inductive BWork where
  | line (l : Line)
  | fill (l : Line) (pattern : Word)
  | row (k : Nat)
  | repair
  deriving DecidableEq, Repr

/-- A Burin step given to the slice and not yet done. `tag`: the job or walk; `op`, `pack`, `pace` as in `Walk`; `from_`: the one agent
that a retirement recalls; `begun`: its background step has been taken; `no`: the background tracker that it holds (R460), and `since`:
its place in the order of admission once it waits undecided (R461). -/
structure BStep where
  tag   : Nat
  op    : Nat
  pack  : Option Nat := none
  from_ : Option Nat := none
  pace  : Nat := 0
  work  : BWork
  begun : Bool := false
  no    : Option Nat := none
  since : Option Nat := none
  deriving DecidableEq, Repr

/-- What the steps of one job have done in this slice since its last chunk (Tables 15-11 to 15-13). -/
structure BSum where
  visited : Nat := 0
  wb      : Nat := 0
  drop    : Nat := 0
  deriving DecidableEq, Repr

/-- The first arrival of a system instance at one barrier home (R214): the home, the arrival's timestamp and the time at which it falls
due. -/
structure CoordFirst where
  home : Nat
  at_  : Nat
  due  : Nat
  deriving DecidableEq, Repr

/-- A group's report (R212). -/
structure CoordGrp where
  grp : Nat
  arr : Nat
  mem : Bool
  deriving DecidableEq, Repr

/-- A system barrier instance at its coordinator (R211, R212, R214): GEN, the first arrivals told, the groups that have reported, whether
it is released, the slices whose memory sync is awaited, whether it has timed out, and the replies of R214. -/
structure Coord where
  pack  : Nat
  gen   : Option (BitVec 4) := none
  firsts : List CoordFirst := []
  groups : List CoordGrp := []
  released : Bool := false
  syncs : List Nat := []
  timedOut : Bool := false
  replies : List (Nat × Nat × Nat) := []
  deriving DecidableEq, Repr

/-- MEM of the instance: that of any report (R211). -/
def Coord.mem (c : Coord) : Bool := c.groups.any (·.mem)
/-- The earliest first arrival that a home has told (R214). -/
def Coord.first (c : Coord) : Option CoordFirst :=
  c.firsts.foldl (fun (b : Option CoordFirst) x => match b with
    | none => some x
    | some y => if x.at_ < y.at_ then some x else some y) none
/-- A memory sync a slice has been asked for (R217): the coordinator, the instance (scope and number), and the home
TXIDs of the noted MemWr and recall entries, each with the place in the order of admission. -/
structure MSync where
  coord : Nat
  scope : Nat
  key   : Nat
  noted : List (Nat × Nat)
  deriving DecidableEq, Repr

/-- A released agent or cluster instance whose completion barrier runs (R217). -/
structure LocalSync where
  scope : Nat
  key   : Nat
  syncs : List Nat
  deriving DecidableEq, Repr

/-- The readings of a slice that SAMPLE returns for its last completed epoch (Table 10-7, classes 0x1 to 0x4): their
values and stamp at the last boundary at which they were VALID, and whether the last boundary was one. -/
structure EpRead where
  adm   : BitVec 32 := 0
  chg   : BitVec 32 := 0
  dfr   : BitVec 32 := 0
  rem   : BitVec 32 := 0
  stamp : BitVec 31 := 0
  ok    : Bool := false
  deriving DecidableEq, Repr

/-- What a slice in replay takes when its replay ends (R432, R560): the value of one of its registers, the levels of a pack's shaper
by the old and new value of PCK_SHAPE, the backoff exponent of a port under new limits, the watches of a pack whose PCK_RESV changes, and a
drain of a pack's barriers. -/
inductive LateOp where
  | stnCtl (v : Word)
  | atmCtl (v : Word)
  | arb (v : Word)
  | egrant (v : Word)
  | shape (pack : Nat) (old new : Word) (load : Bool)
  | backoff (port : Nat)
  | killWatches (pack : Nat)
  | drain (pack : Nat)
  deriving DecidableEq, Repr

/-- The power states of a slice (Table 11-4) and the transitions between them (Table 11-5). -/
inductive Pwr where
  | off | settling | retained | filling | toRet | toOff | fromRet | on
  deriving DecidableEq, Repr

/-- The state of one slice island. `used`: the rows that the stencil free map does not show as free (R61). `weak`: the weak-row candidates,
with whether the pass under way has found them (R398). `lostWords`: the words found uncorrectable, with whether each has been rewritten
since. `marks`: for each home TXID, the SEQ of the last record whose messages the network interface has fully accepted (R423). `rpt`: the
snoops repeated, with whether a response timeout did so (R439). `rseq`: the place in the order of admission from which requests were
admitted after the last fault (R440). `dslot`: slots taken by the debug path (R247). `arbP`: the P value of SLC_ARB; `filling`: an array
fill of start-up is under way in a slice that is on (Table 11-10 steps 9 and 10); `egrantAt`: when software last wrote SLC_EGRANT (R8);
`rplFail`: SLC_RPL.FAILED, which a warm reset clears (R337) while `failed` keeps the role; `late`: what it takes at the end of a replay
(R432, R560). -/
structure Slice where
  /- power and role -/
  pwr    : Pwr := .off
  active : Bool := false
  logical : Nat := 0
  failed : Bool := false
  sink   : Bool := false
  filling : Bool := false
  cyc    : Nat := 0
  fv     : Nat := 0
  seq    : Nat := 0
  /- arrays -/
  mem    : Memory := []
  stuck  : List (Nat × Nat × Bool) := []
  repair : List (Nat × Nat × Nat) := []
  weak   : List (Nat × Nat × Bool) := []
  repairDue : List (Nat × Nat) := []
  lostWords : List (Nat × Rewrite) := []
  /- directory hints -/
  nru    : List (Nat × BitVec 16) := []
  pred   : List (Nat × PredEnt) := []
  hint   : List (Nat × Nat) := []
  parErr : List ParErr := []
  /- stencil unit -/
  stq    : List StnOp := []
  stwait : List StnOp := []
  single : List Nat := []
  used   : List Nat := []
  freeWalk : Nat := 0
  compPos : Nat := 0
  deepPos : Option Nat := none
  collapses : List Collapse := []
  /- transactions -/
  trk    : List Tracker := []
  rcl    : List Recall := []
  lsh    : List Leash := []
  bar    : List BarArr := []
  coord  : List Coord := []
  msync  : List MSync := []
  lsync  : List LocalSync := []
  wat    : List Watch := []
  far    : List FarReg := []
  loose  : List Exp := []
  stashLast : List (Nat × Nat × Line × Nat) := []
  /- admission -/
  ent    : List AdmEntry := []
  agedq  : List (Req × Int) := []
  prt    : List (Nat × PortAdm) := []
  shape  : List (Nat × Int) := []
  lfsr   : BitVec 31 := 1
  remain : Int := 0
  grantE : Nat := 0
  grantW : Bool := false
  stale  : Nat := 0
  bgCount : Nat := 0
  bgTurn : Nat := 0
  qwin   : Nat := 0
  qpos   : Nat := 0
  emergency : Bool := false
  chgE   : Nat := 0
  defE   : Nat := 0
  admAt  : Word := 0
  epRead : EpRead := {}
  epOn   : Bool := false
  shTick : Nat := 0
  /- journal and replay -/
  jseq   : BitVec 32 := 0
  jpos   : Nat := 0
  jrn    : List JRec := []
  replay : Bool := false
  late   : List LateOp := []
  rcause : BitVec 8 := 0
  rstart : Nat := 0
  rend   : Option Nat := none
  owed   : List (Line × List Nat) := []
  rpt    : List (Nat × Nat × Bool) := []
  marks  : List (Nat × BitVec 32) := []
  unsent : List Nat := []
  rseq   : Nat := 0
  heldRx : List Held := []
  rlast  : BitVec 16 := 0
  rcount : BitVec 16 := 0
  rdup   : BitVec 16 := 0
  tabs   : TabUse := {}
  rsends : List ResendWait := []
  copies : List Msg := []
  /- census -/
  cjob   : BitVec 12 := 0
  jobs   : List CenJob := []
  jobq   : List CenQueued := []
  claim  : Nat := 0
  dslot  : Nat := 0
  slcp   : Bool := false
  sliceCensusAfter : Bool := false
  /- walks -/
  walks  : List Walk := []
  bq     : List BStep := []
  bsum   : List (Nat × BSum) := []
  bcens  : List (Nat × BitVec 12) := []
  bLast  : Nat := 0
  dead   : Bool := false
  /- scrub -/
  scPos  : Nat := 0
  scStart : Nat := 0
  scPer  : Nat := 0
  scDue  : Nat := 0
  scCE   : Nat := 0
  scRows : List Nat := []
  scPasses : BitVec 32 := 0
  scLate : Bool := false
  scLatep : BitVec 14 := 0
  /- counters and registers -/
  hwm    : Nat := 0
  qhwm   : Nat := 0
  psn    : Word := 0
  dcnt   : List Word := List.replicate 8 0
  race   : List Word := List.replicate 4 0
  busy   : Word := 0
  atmc   : List Word := List.replicate 8 0
  sync   : List Word := List.replicate 6 0
  adm    : List Word := List.replicate 8 0
  cenc   : List Word := List.replicate 6 0
  netc   : List Word := List.replicate 8 0
  ce     : BitVec 32 := 0
  ue     : BitVec 32 := 0
  par    : BitVec 16 := 0
  psnrd  : BitVec 16 := 0
  stuckc : BitVec 16 := 0
  exh    : BitVec 30 := 0
  stnCtl : Word := 0x10100
  atmCtl : Word := 0x1000240
  arb    : Word := 0
  arbP   : Word := 0
  egrant : Word := 0
  egrantAt : Option Nat := none
  rplFail : Bool := false
  deriving DecidableEq, Repr

end Sys2Proof.Machine
end

