-- ==== Sys2Proof/Machine/Shared.lean ====
section
/-! DEFINITION. What every unit of the block reads: the timestamp, the mode, the registers of ports and packs,
and the plate's tables in force. -/

namespace Sys2Proof.Machine

/-- The modes (Table 11-6). -/
inductive Mode where
  | dormant | engrave | run | drain | recover | freeze
  deriving DecidableEq, Repr

/-- A Ledger record's TYPE, SUB and data words (R474). -/
structure LRec where
  typ  : Nat
  sub  : Nat
  data : List Word
  deriving DecidableEq, Repr

/-- The registers of one port a, PRT[a] (Table 19-9). `barAt`: when software last wrote PRT_BAR (R8). -/
structure Port where
  cfg   : Word := 0
  keyr  : Word := 0
  leash : Word := 0
  bar   : Word := 0
  stash : Word := 0
  arb   : Word := 0
  life  : Word := 0
  barAt : Option Nat := none
  deriving DecidableEq, Repr

/-- A window of a pack: PCK_WIN_BASE and PCK_WIN_ATTR. -/
structure Win where
  base : Word := 0
  attr : Word := 0
  deriving DecidableEq, Repr

/-- The registers of one pack p, PCK[p] (Table 19-10). -/
structure Pack where
  gate  : Word := 0
  arb   : Word := 0
  heel  : Word := 0
  ord   : Word := 0
  resv  : Word := 0
  bar   : Word := 0
  shape : Word := 0
  wins  : List Win := List.replicate 8 {}
  fenceMask : BitVec 8 := 0
  fenceBusy : Bool := false
  fenceSnap : List (Nat × Nat) := []
  resetBusy : Bool := false
  resetStep : Nat := 0
  deny  : List Word := List.replicate 5 0
  deriving DecidableEq, Repr

/-- An interleave region (Table 2-4). -/
structure Region where
  en    : Bool
  base  : Nat
  limit : Nat
  ways  : Nat
  gran  : Nat
  list  : List Nat
  deriving DecidableEq, Repr

/-- What every unit reads. `settle`: step 4 of a DORMANT entry (R323). `deadWins`: the windows of a declared agent's pack as they stood
at its declaration, until its walk has ended (R53). -/
structure Shared where
  now    : Nat := 0
  mode   : Mode := .engrave
  prev   : Mode := .engrave
  stop   : Bool := false
  walk   : Option Nat := none
  settle : Bool := false
  ports  : Vector Port 512 := Vector.replicate 512 {}
  packs  : Vector Pack 16 := Vector.replicate 16 {}
  hash   : List Line := []
  hinv   : List Line := []
  lsmap  : List Nat := List.replicate 64 0
  dirw   : Nat := 16
  stnw   : Nat := 0
  scrw   : Nat := 0
  scrBase : Line := 0
  regions : List Region := []
  glbArb : Word := 6
  ecost0 : Word := 0
  ecost1 : Word := 0
  epoch  : Word := 0
  esafe  : Word := 0
  scrub  : Word := 0x40_0000_0E10
  tmo    : Word := 0
  deadWins : List (Nat × List Win) := []
  deriving DecidableEq, Repr

/-- The port registers of agent `a`. -/
def Shared.port (g : Shared) (a : Nat) : Port := if h : a < 512 then g.ports[a] else {}
/-- The pack registers of pack `p`. -/
def Shared.pack (g : Shared) (p : Nat) : Pack := if h : p < 16 then g.packs[p] else {}

/-- PRT_CFG.KIND (Table 2-1): 0 absent, 1 C, 2 I, 3 N. -/
def Port.kind (p : Port) : Nat := fld p.cfg 1 0
/-- PRT_CFG.PACK. -/
def Port.packNo (p : Port) : Nat := fld p.cfg 7 4
/-- PRT_CFG.GROUP. -/
def Port.group (p : Port) : Nat := fld p.cfg 13 8
/-- PRT_KEYR.RD[k] (Table 2-6a). -/
def Port.rd (p : Port) (k : Nat) : Bool := p.keyr.getLsbD k
/-- PRT_KEYR.WR[k] (Table 2-6a). -/
def Port.wr (p : Port) (k : Nat) : Bool := p.keyr.getLsbD (16 + k)
/-- PRT_LIFE.DEAD. -/
def Port.dead (p : Port) : Bool := p.life.getLsbD 0
/-- PRT_LIFE.RETIRED. -/
def Port.retired (p : Port) : Bool := p.life.getLsbD 1
/-- A C or I agent, neither dead nor retired: one that can hold a line (R26). -/
def Port.caching (p : Port) : Bool := p.kind == 1 || p.kind == 2
/-- Units from this port are handled as from an absent agent (R23, R447, R450). -/
def Port.absent (p : Port) : Bool := p.kind == 0 || p.dead || p.retired
/-- PRT_BAR.PART. -/
def Port.part (p : Port) : Bool := p.bar.getLsbD 0
/-- PRT_LEASH.LIMIT, in units of 250 ns (Table 7-11). -/
def Port.leashLimit (p : Port) : Nat := fld p.leash 8 0
/-- PRT_ARB.TICKETS. -/
def Port.tickets (p : Port) : Nat := fld p.arb 7 0
/-- PRT_ARB.HP. -/
def Port.hp (p : Port) : Bool := p.arb.getLsbD 8
/-- PRT_ARB.QUOTA. -/
def Port.quota (p : Port) : Nat := fld p.arb 25 16
/-- PRT_ARB.BKMIN. -/
def Port.bkmin (p : Port) : Nat := fld p.arb 35 32
/-- PRT_ARB.BKMAX. -/
def Port.bkmax (p : Port) : Nat := fld p.arb 39 36
/-- PCK_GATE.DRAIN. -/
def Pack.drain (p : Pack) : Bool := p.gate.getLsbD 0
/-- PCK_ORD.MODE: H1 ordering (R152). -/
def Pack.h1 (p : Pack) : Bool := p.ord.getLsbD 0
/-- PCK_HEEL.HEEL in ns (R134). -/
def Pack.heelNs (p : Pack) : Nat := fld p.heel 7 0 * 4
/-- PCK_RESV.GRAN (R183). -/
def Pack.gran (p : Pack) : Nat := fld p.resv 2 0
/-- PCK_SHAPE.EN. -/
def Pack.shEn (p : Pack) : Bool := p.shape.getLsbD 63
/-- PCK_SHAPE.BURST. -/
def Pack.burst (p : Pack) : Nat := fld p.shape 43 32
/-- PCK_SHAPE.RATE. -/
def Pack.rate (p : Pack) : Nat := fld p.shape 15 0
/-- GLB_ARB.DRBK. -/
def Shared.drbk (g : Shared) : Nat := fld g.glbArb 3 0
/-- The cost of an energy class (Table 9-4, Table 9-7). -/
def Shared.ecost (g : Shared) (k : Nat) : Int :=
  if k < 8 then fld g.ecost0 (8 * k + 7) (8 * k) else fld g.ecost1 (8 * (k - 8) + 7) (8 * (k - 8))
/-- GLB_EPOCH.DEBTMAX. -/
def Shared.debtmax (g : Shared) : Int := fld g.epoch 55 32

/-- L′ of a line under the plate's hash (R17). -/
def Shared.lp (g : Shared) (l : Line) : Line := mulGF2 g.hash l
/-- The line of a logical slice, set and tag (R18). -/
def Shared.lineOf (g : Shared) (slice set tag : Nat) : Line := mulGF2 g.hinv (lpOf slice set tag)
/-- The physical slice that serves a logical slice (R19). -/
def Shared.phys (g : Shared) (ls : Nat) : Nat := g.lsmap.getD ls 0
/-- The home of a line: its physical slice. -/
def Shared.home (g : Shared) (l : Line) : Nat := g.phys (lpSlice (g.lp l))

/-- Byte address PA[47:0] of a line. -/
def linePA (l : Line) : Nat := l.toNat * 64
/-- PA[47:12] of a line. -/
def linePage (l : Line) : Nat := l.toNat / 64

/-- k − 18 = b of the scratch range for SCRW ways (R86). -/
def scrB (scrw : Nat) : Nat := if scrw = 1 then 0 else if scrw = 2 then 1 else 2

/-- The line lies in the scratch range (R86). -/
def Shared.isScratch (g : Shared) (l : Line) : Bool :=
  g.scrw != 0 && l.toNat / 2 ^ (18 + scrB g.scrw) == g.scrBase.toNat / 2 ^ (18 + scrB g.scrw)

/-- Scratch way index w of a line of the scratch range (R86). -/
def Shared.scrWay (g : Shared) (l : Line) : Nat :=
  if scrB g.scrw = 0 then 0 else fld (g.lp l) (17 + scrB g.scrw) 18

/-- Slot s of a line of the scratch range (R86). -/
def Shared.scrSlot (g : Shared) (l : Line) : Nat := fld (g.lp l) 17 6

/-- The region that serves a line, if any (R28, R31). -/
def Shared.region (g : Shared) (l : Line) : Option Region :=
  g.regions.find? fun r => r.en && decide (r.base ≤ l.toNat / 2 ^ 24) && decide (l.toNat / 2 ^ 24 ≤ r.limit)

/-- The memory target of a line (R29). -/
def Shared.target (g : Shared) (l : Line) : Option Nat :=
  (g.region l).map fun r =>
    r.list.getD ((l.toNat - r.base * 2 ^ 24) / 2 ^ r.gran % 2 ^ r.ways) 0

/-- PCK_WIN_ATTR.EN. -/
def Win.en (w : Win) : Bool := w.attr.getLsbD 0
/-- PCK_WIN_ATTR.DISC. -/
def Win.disc (w : Win) : Bool := w.attr.getLsbD 2
/-- PCK_WIN_ATTR.KEY. -/
def Win.key (w : Win) : Nat := fld w.attr 7 4
/-- PCK_WIN_BASE.BASE. -/
def Win.lo (w : Win) : Nat := fld w.base 47 12
/-- PCK_WIN_ATTR.LIMIT. -/
def Win.hi (w : Win) : Nat := fld w.attr 47 12

/-- The deciding window of a line among a pack's windows: the lowest-numbered enabled one that contains it (R35). -/
def windowIn (wins : List Win) (l : Line) : Option (Nat × Win) :=
  ((List.range 8).zip wins).find? fun iw =>
    iw.2.en && decide (iw.2.lo ≤ linePage l) && decide (linePage l ≤ iw.2.hi)

/-- The deciding window of a line for a pack (R35). -/
def Shared.window (g : Shared) (p : Nat) (l : Line) : Option (Nat × Win) := windowIn (g.pack p).wins l

/-- The agents that hold lines: C and I agents neither dead nor retired, in ascending ID. -/
def Shared.cachers (g : Shared) : List Nat :=
  (List.range 512).filter fun a => (g.port a).caching && !(g.port a).absent

/-- The number of stencil rows of a slice (R59, Table 3-10). -/
def Shared.rows (g : Shared) : Nat := 8192 + 4096 * g.stnw

end Sys2Proof.Machine
end

