-- ==== Sys2Proof/Machine/SliceOps.lean ====
section
/-! DEFINITION. Named operations of a slice: effects on the rest of the block, messages, arrays, the directory
entry word, energy, credits. A slice operation maps a `Work` to a `Work`: it changes only its own slice and
names every effect elsewhere as an `Eff`. -/

namespace Sys2Proof.Machine

/-- Messages of the slice link that a command of the opcode table delivers (R207 to R217). `dst` and `src` are
physical slices. -/
inductive Link where
  | barReport (dst src pack grp : Nat) (gen : BitVec 4) (mem : Bool) (arr : Nat)
  | barFirst (dst src pack at_ due : Nat)
  | barRelease (dst pack : Nat)
  | barMismatch (dst pack : Nat)
  | barTimeout (dst pack : Nat)
  | barReply (dst src pack arr missing : Nat)
  | memSync (dst coord scope key : Nat)
  deriving DecidableEq, Repr

/-- The message tells a coordinator of arrivals of pack `p`'s system instance (R212, R214). -/
def Link.tells (p : Nat) : Link → Bool
  | .barReport _ _ q _ _ _ _ => q == p
  | .barFirst _ _ q _ _ => q == p
  | _ => false

/-- The slice that a message goes to. -/
def Link.to : Link → Nat
  | .barReport d _ _ _ _ _ _ => d
  | .barFirst d _ _ _ _ => d
  | .barRelease d _ => d
  | .barMismatch d _ => d
  | .barTimeout d _ => d
  | .barReply d _ _ _ _ => d
  | .memSync d _ _ _ => d

/-- The slice that sends a message, where the message names it. -/
def Link.from? : Link → Option Nat
  | .barReport _ s _ _ _ _ _ => some s
  | .barFirst _ s _ _ _ => some s
  | .barReply _ s _ _ _ => some s
  | .memSync _ c _ _ => some c
  | _ => none

/-- The path of what a barrier home tells a coordinator: messages of one path arrive in the order of their sending (DESIGN CHOICE, log entry
81). -/
def Link.path : Link → Option (Nat × Nat)
  | .barReport d s _ _ _ _ _ => some (s, d)
  | .barFirst d s _ _ _ => some (s, d)
  | .barReply d s _ _ _ => some (s, d)
  | _ => none

/-- Effects of a slice on the rest of the block. `again`: a copy retransmitted unchanged (R534). -/
inductive Eff where
  | send (m : Msg)
  | again (m : Msg)
  | withdraw (m : Msg)
  | token (ctl : Bool) (agent : Nat) (count : BitVec 8)
  | ledger (recs : List LRec)
  | bark (src : Nat)
  | kst (typ : Nat) (data : List Word)
  | deny (pack i : Nat)
  | addWatch (w : Watch)
  | delWatch (agent : Nat) (thread : BitVec 2)
  | link (m : Link)
  | declareDead (agent cmd : Nat)
  | failSlice
  | overlay (bank row spare : Nat)
  | fatal
  deriving DecidableEq, Repr

/-- A slice under an operation, its number, and the effects so far, oldest first. `jroom`: the ring entries that the slice cycle under way
can still take (R420); `carried`: the words that its DECIDE carries (R422). -/
structure Work where
  n   : Nat
  sl  : Slice
  eff : List Eff := []
  jroom : Nat := 0
  carried : List Nat := []
  deriving DecidableEq, Repr

/-- One more effect. -/
def Work.emit (w : Work) (e : Eff) : Work := { w with eff := w.eff ++ [e] }
/-- Several more effects. -/
def Work.emits (w : Work) (es : List Eff) : Work := { w with eff := w.eff ++ es }
/-- The slice changed. -/
def Work.upd (w : Work) (f : Slice → Slice) : Work := { w with sl := f w.sl }

/-- Node ID of physical slice n (Table 4-1). -/
def sliceNode (n : Nat) : Nat := 512 + n
/-- Node ID of memory target t (Table 4-1). -/
def memNode (t : Nat) : Nat := 640 + t
/-- Node ID of the Kennel. -/
def kennelNode : Nat := 1008
/-- Node ID of the control island. -/
def ctlNode : Nat := 1009

/-- Class codes (Table 4-2). -/
def clsReq : BitVec 2 := 0
/-- SNP. -/
def clsSnp : BitVec 2 := 1
/-- RSP. -/
def clsRsp : BitVec 2 := 2
/-- DAT. -/
def clsDat : BitVec 2 := 3

/-- Command code of a request type (Table 4-3). -/
def ReqKind.cmd : ReqKind → BitVec 5
  | .rdShared => 1 | .rdUnique => 2 | .rdOnce => 3 | .upgrade => 4 | .wrBack => 5 | .evictClean => 6
  | .wrFull => 7 | .wrPartial => 8 | .stash => 9 | .atomic => 10 | .leashTake => 11 | .leashFree => 12
  | .resvWatch => 13 | .barrier => 14 | .cancel => 15

/-- F with the value `v` at bit `lo`. -/
def fPut (v lo : Nat) : BitVec 28 := BitVec.ofNat 28 (v <<< lo)

/-- INTENT (Table 18-2), demand for every type but the four of R43. -/
def Req.intent (r : Req) : Nat :=
  match r.kind with
  | .rdShared | .rdUnique | .rdOnce | .upgrade => fld r.f 1 0
  | _ => 0
/-- CRIT: the field, or OFF[5:4] for an Atomic (R174); 0 for an Upgrade, which carries none and may be served as RdUnique (R102, Table
18-2; DESIGN CHOICE, log entry 74). -/
def Req.crit (r : Req) : Nat :=
  match r.kind with
  | .atomic => fld r.f 11 10
  | .upgrade => 0
  | _ => fld r.f 27 26
/-- POISON [17]. -/
def Req.poison (r : Req) : Bool := r.f.getLsbD 17
/-- TGT of a Stash. -/
def Req.tgt (r : Req) : Nat := fld r.f 8 0

/-- A response to a requester: Comp, Retry, Cancelled, Error carry the request's TXID, PACK and LINE (Table 4-2). -/
def rspTo (n : Nat) (r : Req) (cmd : BitVec 5) (f : BitVec 28) (units : List Unit128 := []) : Msg :=
  { cls := clsRsp, cmd := cmd, src := BitVec.ofNat 10 (sliceNode n), dst := BitVec.ofNat 10 r.port, txid := r.txid,
    pack := r.pack, line := r.line, f := f, units := units }

/-- Energy charged directly to REMAIN, never below −DEBTMAX; the part below is forgiven and counted (R255). -/
def Work.chargeRaw (w : Work) (g : Shared) (c : Int) : Work :=
  let x := w.sl.remain - c
  if x < -g.debtmax then
    w.upd fun s => { s with remain := -g.debtmax, adm := bump 6 s.adm (-g.debtmax - x).toNat }
  else w.upd fun s => { s with remain := x }

/-- The settlement of an estimate: what is left of it goes back, never above the GRANT of the epoch in progress, and what it falls short by
is charged (R252). -/
def Work.refund (w : Work) (g : Shared) (d : Int) : Work :=
  if d < 0 then w.chargeRaw g (-d)
  else w.upd fun s => { s with remain := max s.remain (min (s.grantE : Int) (s.remain + d)) }

/-- Energy charged directly to REMAIN and counted in the epoch's charges (R252, Table 10-7). -/
def Work.charge (w : Work) (g : Shared) (c : Int) : Work :=
  (w.chargeRaw g c).upd fun s => { s with chgE := s.chgE + c.toNat }

/-- The tracker numbered `t`. -/
def Slice.tracker (s : Slice) (t : Nat) : Option Tracker := s.trk.find? (·.no == t)

/-- A tracker changed in place. -/
def Slice.setTrk (s : Slice) (t : Nat) (f : Tracker → Tracker) : Slice :=
  { s with trk := s.trk.map fun x => if x.no == t then f x else x }

/-- Energy charged to the transaction of tracker `t` when it is live, else directly to REMAIN (R252). -/
def Work.chargeT (w : Work) (g : Shared) (t : Option Nat) (c : Int) : Work :=
  match t.bind w.sl.tracker with
  | some x => w.upd fun s => { s.setTrk x.no fun x => { x with cost := x.cost + c } with chgE := s.chgE + c.toNat }
  | none => w.charge g c

/-- A message put to the newest record of its home TXID, whose SEQ it takes to the network interface (R423). -/
def attachMsg (htx : BitVec 12) (m : Msg) : List JRec → Option (List JRec × BitVec 32)
  | [] => none
  | r :: l =>
    match attachMsg htx m l with
    | some (l', q) => some (r :: l', q)
    | none => if r.htx == htx && r.kind != 4 && r.kind != 8 then some ({ r with msgs := r.msgs ++ [m] } :: l, r.seq) else none

/-- The home TXID in whose records a message stands: that of the transaction that sends it, or its own TXID when the home names its
side with it (R96). The snoops of a census job stand in none, since the job starts again after a replay. -/
def Msg.htx (m : Msg) (t : Option Nat) : Option Nat :=
  t.or (if m.cls = clsSnp ∨ (m.cls = clsReq ∧ 0x10 ≤ m.cmd.toNat) then (if 320 ≤ m.txid.toNat ∧ m.txid.toNat < 328 then none else some m.txid.toNat) else none)

/-- A message passes to the network interface, which accepts it with the SEQ of its record (R423). -/
def Slice.accept (s : Slice) (t : Option Nat) (m : Msg) : Slice :=
  match (m.htx t).bind fun k => (attachMsg (BitVec.ofNat 12 k) m s.jrn).map fun x => (k, x) with
  | some (k, l, q) => { s with jrn := l, marks := tset 0 s.marks k q }
  | none => s

/-- A message sent, charged to its transaction by its energy class: SNOOP, MSG or DATA (Table 9-4). -/
def Work.send (w : Work) (g : Shared) (t : Option Nat) (m : Msg) : Work :=
  let k := if m.cls = clsSnp then 4 else if m.units.isEmpty then 5 else 6
  ((w.emit (.send m)).upd fun s => s.accept t m).chargeT g t (g.ecost k)

/-- A Ledger record of this slice (R476). -/
def Work.ledger (w : Work) (typ sub : Nat) (data : List Word) : Work := w.emit (.ledger [{ typ := typ, sub := sub, data := data }])

/-- The Bark source of kind `k` of this slice (Table 16-5). -/
def Work.barkK (w : Work) (k : Nat) : Work := w.emit (.bark (96 * k + w.n))

/-- The port's admission state in this slice. -/
def Slice.port (s : Slice) (a : Nat) : PortAdm := tget {} s.prt a
/-- The port's admission state changed. -/
def Slice.updPort (s : Slice) (a : Nat) (f : PortAdm → PortAdm) : Slice :=
  { s with prt := tset {} s.prt a (f (s.port a)) }

/-- A request credit returned: the count rises and a token is sent (R229, R523, R524). -/
def Work.credit (w : Work) (a : Nat) : Work :=
  let c := (w.sl.port a).reqTok + 1
  (w.upd fun s => s.updPort a fun p => { p with reqTok := c }).emit (.token false a c)

/-- A control credit returned (R230). -/
def Work.ctlCredit (w : Work) (a : Nat) : Work :=
  let c := (w.sl.port a).ctlTok + 1
  (w.upd fun s => s.updPort a fun p => { p with ctlTok := c }).emit (.token true a c)

/-- The admission entry of a port freed, with its credit returned (R229). -/
def Work.freeEntry (w : Work) (a : Nat) : Work :=
  if w.sl.ent.any (·.port == a) then
    (w.upd fun s => { s with ent := s.ent.filter (·.port != a) }).credit a
  else w

/-- The admission entry of tracker `no` freed, when its request still holds it (R229). -/
def Work.leaveEntry (w : Work) (no : Nat) : Work :=
  match w.sl.tracker no with
  | some t => if t.entry then (w.upd fun s => s.setTrk no fun x => { x with entry := false }).freeEntry t.req.port else w
  | none => w

/-- A Retry with its BACKOFF (R243). -/
def Work.retry (w : Work) (g : Shared) (t : Option Nat) (r : Req) (backoff : Nat) : Work :=
  w.send g t (rspTo w.n r 5 (fPut backoff 0))

/-- A counted Retry: BACKOFF E, then E rises; the loss count rises to at most 6 (R145, R244). -/
def Work.retryCounted (w : Work) (g : Shared) (t : Option Nat) (r : Req) : Work :=
  let p := w.sl.port r.port
  let w := w.retry g t r p.exp
  let w := w.upd fun s => s.updPort r.port fun p =>
    { p with exp := Nat.min (p.exp + 1) (g.port r.port).bkmax, loss := Nat.min (p.loss + 1) 6 }
  if p.loss = 5 then w.upd fun s => { s with race := bump 0 s.race } else w

/-- An uncounted Retry carrying GLB_ARB.DRBK, or BACKOFF 0 while a DORMANT entry settles, counted in
SLC_ADM_CNT[5] (R245, R267, R323). -/
def Work.retryDrbk (w : Work) (g : Shared) (r : Req) : Work :=
  (w.retry g none r (if g.settle then 0 else g.drbk)).upd fun s => { s with adm := bump 5 s.adm }

/-- An Error answer (R99, Table 18-2). -/
def Work.error (w : Work) (g : Shared) (t : Option Nat) (r : Req) (code : Nat) (quiet : Bool := false) : Work :=
  w.send g t (rspTo w.n r 7 (fPut code 0 ||| (if quiet then fPut 1 8 else 0)))

/-- A Comp (R116). -/
def Work.comp (w : Work) (g : Shared) (t : Option Nat) (r : Req) (status grant : BitVec 3) (poison : Bool)
    (units : List Unit128 := []) : Work :=
  w.send g t (rspTo w.n r 4 (fPut status.toNat 0 ||| fPut grant.toNat 3 ||| (if poison then fPut 1 17 else 0)) units)

/-! ### Arrays -/

/-- First word index of a bank in the address space: WADDR (R382). -/
def bankAddr (bank word : Nat) : Nat := bank * 32768 + word

/-- Rows of each bank (Table 13-1). -/
def bankRows (b : Nat) : Nat :=
  if b < 16 then 4096 else if b < 24 then 1024 else if b = 24 then 2048 else if b < 27 then 1024
  else if b = 27 then 128 else if b = 28 then 8 else 144

/-- Where a word is stored: its own place, or the spare last assigned to its row (R397); `repair` lists the latest first. -/
def Slice.place (s : Slice) (a : Nat) : Nat :=
  match s.repair.find? (fun r => r.1 == a / 32768 && r.2.1 == a % 32768 / 8) with
  | some r => 2 ^ 20 + ((a / 32768) * 20 + r.2.2) * 8 + a % 8
  | none => a

/-- Bank 26, 27 or 29: the journal, the granule watches and the census build slots, which State holds as structures; a word listed
there is one whose stored bits have gone wrong (log entries 9 and 45). -/
def heldBank (b : Nat) : Bool := b == 26 || b == 27 || b == 29

/-- The stored word at WADDR `a` as read: a word never written there reads blank under its own WADDR, and a
stuck bit keeps its value. -/
def Slice.fetch (s : Slice) (a : Nat) : W72 :=
  let p := s.place a
  let w := if p = a then s.mem.read a else
    match s.mem.find? (·.1 == p) with | some x => x.2 | none => encode72 0 a
  s.stuck.foldl (fun w b => if b.1 = p then
      { w with data := if b.2.2 then w.data ||| (1#64 <<< b.2.1) else w.data &&& ~~~(1#64 <<< b.2.1) } else w) w

/-- A word stored at WADDR `a`. -/
def Slice.store (s : Slice) (a : Nat) (w : W72) : Slice :=
  { s with mem := s.mem.write (s.place a) w
           lostWords := s.lostWords.map fun x => if x = (a, .no) then (a, .write) else x }

/-- Words that census has rewritten (R400). -/
def Slice.cenWrote (s : Slice) (as : List Nat) : Slice :=
  { s with lostWords := s.lostWords.map fun x => if as.contains x.1 then (x.1, .census) else x }

/-- Words written for home TXID `htx`: census has rewritten them when it is that of a census job. -/
def Slice.wroteBy (s : Slice) (htx : Option Nat) (as : List Nat) : Slice :=
  match htx with
  | some t => if 320 ≤ t ∧ t < 328 then s.cenWrote as else s
  | none => s

/-- A payload stored at WADDR `a` with its check bits. -/
def Slice.storeD (s : Slice) (a : Nat) (d : Word) : Slice := s.store a (encode72 d a)

/-- A word read at WADDR `a`: its class and payload (R383). -/
def Slice.readC (s : Slice) (a : Nat) : RdClass × Word := classify (s.fetch a) a

/-- The payload at WADDR `a`. -/
def Slice.readD (s : Slice) (a : Nat) : Word := (s.readC a).2

/-- A corrected payload written back at WADDR `a`; a word of a held bank then is again what State holds. -/
def Slice.putBack (s : Slice) (a : Nat) (d : Word) : Slice := s.storeD a (if heldBank (a / 32768) then 0 else d)

/-- A corrected word written back and counted (R386). -/
def Work.scrubFix (w : Work) (a : Nat) : Work :=
  match w.sl.readC a with
  | (.corrected, d) => w.upd fun s => { s.putBack a d with ce := satInc s.ce }
  | _ => w

/-- The WADDR whose word a listed address holds: its own, or that of the row repaired into the spare (R397). -/
def Slice.unplace (s : Slice) (p : Nat) : Option Nat :=
  if p < 2 ^ 20 then (if s.place p = p then some p else none)
  else ((s.repair.find? fun r => (r.1 * 20 + r.2.2) == (p - 2 ^ 20) / 8).map fun r => bankAddr r.1 (8 * r.2.1 + p % 8)).filter
    fun a => s.place a == p

/-- The entry addresses of a slice that hold a word, in set and way order. -/
def Slice.entAddrs (s : Slice) (g : Shared) : List Nat :=
  sortBy (fun a b => decide (a % 32768 < b % 32768 ∨ (a % 32768 = b % 32768 ∧ a / 32768 ≤ b / 32768)))
    ((s.mem.filterMap fun x => s.unplace x.1).filter fun a => decide (a / 32768 < g.dirw))

/-- The entry addresses that hold a word or are to be written by the stencil unit. -/
def Slice.liveAddrs (s : Slice) (g : Shared) : List Nat :=
  let a := s.entAddrs g
  a ++ (((s.stq ++ s.stwait).filter fun o => o.release == none && o.task == none).map fun o => bankAddr o.way o.set).eraseDups.filter (!a.contains ·)

/-- An uncorrectable word counted and recorded (R394). -/
def Work.ueRecord (w : Work) (a : Nat) (scrub : Bool) : Work :=
  let syn := syndrome (w.sl.fetch a) a
  (w.upd fun s => { s with ue := satInc s.ue }).ledger 5 2
    [put (a / 32768) 0 ||| put (a % 32768) 5 ||| put syn.toNat 20 ||| putB scrub 28]

/-! ### The directory entry word (Table 3-1) -/

/-- STATE of an entry word. -/
def eState (e : Word) : Nat := fld e 42 40
/-- TAG. -/
def eTag (e : Word) : Nat := fld e 63 43
/-- FORM. -/
def eForm (e : Word) : Bool := e.getLsbD 39
/-- CNT. -/
def eCnt (e : Word) : Nat := fld e 38 37
/-- PRED. -/
def ePred (e : Word) : Bool := e.getLsbD 36
/-- Inline slot k: PAYLOAD[35−9k:27−9k] (R55). -/
def eSlot (e : Word) (k : Nat) : Nat := fld e (35 - 9 * k) (27 - 9 * k)
/-- ROW of the stencil form (Table 3-4). -/
def eRow (e : Word) : Nat := fld e 26 13
/-- NSH of the stencil form. -/
def eNsh (e : Word) : Nat := fld e 12 3
/-- SETW of a P entry (Table 3-5). -/
def eSetw (e : Word) : Bool := e.getLsbD 35
/-- Leash table index of an L entry (Table 3-3). -/
def eLeash (e : Word) : Nat := fld e 26 22

/-- Word address of stencil row r, word j (R59, Table 13-1). -/
def stnAddr (g : Shared) (r j : Nat) : Nat :=
  if r < 8192 then bankAddr (16 + r / 1024) (r % 1024 * 8 + j)
  else bankAddr (g.dirw + (r - 8192) / 4096) (8 * (r % 4096) + j)

/-- Word address of the metadata of row r (R60). -/
def metaAddr (r : Nat) : Nat := bankAddr 24 r

/-- The vector of stencil row r. -/
def Slice.rowVec (s : Slice) (g : Shared) (r : Nat) : Vec :=
  (List.range 8).foldl (fun v j => v ||| ((s.readD (stnAddr g r j)).setWidth 512 <<< (64 * j))) 0

/-- The vector of row r written. -/
def Slice.setRowVec (s : Slice) (g : Shared) (r : Nat) (v : Vec) : Slice :=
  (List.range 8).foldl (fun s j => s.storeD (stnAddr g r j) ((v >>> (64 * j)).setWidth 64)) s

/-- The metadata word of row r (Table 3-7). -/
def Slice.rowMeta (s : Slice) (r : Nat) : Word := s.readD (metaAddr r)

/-- VALID. -/
def mValid (m : Word) : Bool := m.getLsbD 63

/-- The free map after a row becomes VALID or free (R61). -/
def Slice.mark (s : Slice) (r : Nat) (valid : Bool) : Slice :=
  { s with used := if valid then (if s.used.contains r then s.used else r :: s.used) else s.used.filter (· != r) }

/-- The metadata word of row r written, with the row's place in the free map. -/
def Slice.setMeta (s : Slice) (r : Nat) (m : Word) : Slice := (s.storeD (metaAddr r) m).mark r (mValid m)

/-- IDX. -/
def mIdx (m : Word) : Bool := m.getLsbD 62
/-- RET. -/
def mRet (m : Word) : Bool := m.getLsbD 61
/-- POP. -/
def mPop (m : Word) : Nat := fld m 60 51
/-- BSET. -/
def mBset (m : Word) : Nat := fld m 50 36
/-- BWAY. -/
def mBway (m : Word) : Nat := fld m 35 32
/-- REFS. -/
def mRefs (m : Word) : Nat := fld m 19 0

/-- The word of the hash index that holds entry i, and the entry: valid [30], signature [29:14], row [13:0].
The specification gives the entry's fields without their places; log entry 8. -/
def Slice.idxEnt (s : Slice) (i : Nat) : Nat := fld (s.readD (bankAddr 25 (i / 2))) (32 * (i % 2) + 31) (32 * (i % 2))

/-- Index entry i written. -/
def Slice.setIdx (s : Slice) (i v : Nat) : Slice :=
  let a := bankAddr 25 (i / 2)
  s.storeD a (setFld (s.readD a) (32 * (i % 2) + 31) (32 * (i % 2)) v)

/-- Index entry value of a signature and row. -/
def idxVal (sig row : Nat) : Nat := 2 ^ 30 + sig * 2 ^ 14 + row

/-- The four index entries of a vector's bucket, and its signature (R62). -/
def bucketOf (v : Vec) : List Nat × Nat :=
  let h := vecHash v
  ((List.range 4).map (fun j => fld h 11 0 * 4 + j), fld h 27 12)

/-- A stencil lookup: the first matching row that is VALID with RET 0 (R63). -/
def Slice.stnFind (s : Slice) (g : Shared) (v : Vec) : Option Nat :=
  let (b, sig) := bucketOf v
  b.findSome? fun i =>
    let e := s.idxEnt i
    let r := e % 2 ^ 14
    if e / 2 ^ 14 = 2 ^ 16 + sig ∧ mValid (s.rowMeta r) ∧ !mRet (s.rowMeta r) ∧ s.rowVec g r = v then some r else none

/-- An index entry inserted for a row when its bucket has a free entry; the flag is IDX (R64). -/
def Slice.idxInsert (s : Slice) (v : Vec) (r : Nat) : Slice × Bool :=
  let (b, sig) := bucketOf v
  match b.find? (fun i => s.idxEnt i / 2 ^ 30 % 2 == 0) with
  | some i => (s.setIdx i (idxVal sig r), true)
  | none => (s, false)

/-- The index entry of a row removed (R61, R65). -/
def Slice.idxRemove (s : Slice) (v : Vec) (r : Nat) : Slice :=
  let (b, sig) := bucketOf v
  match b.find? (fun i => s.idxEnt i == idxVal sig r) with
  | some i => s.setIdx i 0
  | none => s

/-- A row is free: the free map shows it so, and no reclaim has reserved it (R61, R71). -/
def Slice.rowFree (s : Slice) (r : Nat) : Bool :=
  !s.used.contains r && !(s.stwait.any fun o => o.reserved == some r)

/-- The free map can be used: no parity error in it, and no rebuilding walk under way (Table 13-4). -/
def Slice.mapOk (s : Slice) : Bool := s.freeWalk == 0 && !s.parErr.contains .freeMap

/-- The lowest-numbered free row (R61); none while the free map is rebuilt (Table 13-4). -/
def Slice.freeRow (s : Slice) (g : Shared) : Option Nat :=
  if s.mapOk then (List.range g.rows).find? fun r => s.rowFree r else none

/-- A parity error met at the use of a piece of control state, if there is one: a set or entry returns to its cold-reset value, the
single-reference queue is cleared, or the free map's walk of 8,192 metadata reads begins (Table 13-4). Each is counted in SLC_PROT.PAR
(Table 13-16). -/
def Slice.parity (s : Slice) (p : ParErr) : Slice :=
  if !s.parErr.contains p then s else
    let s := { s with parErr := s.parErr.filter (· != p), par := satInc s.par }
    match p with
    | .nru set => { s with nru := tset 0 s.nru set 0 }
    | .hint i => { s with hint := tset 0 s.hint i 0 }
    | .pred i => { s with pred := tset {} s.pred i {} }
    | .queue => { s with single := [] }
    | .freeMap => { s with freeWalk := 8192 }

/-- Deep compaction starts at an allocation that finds the free rows below LOWAT with DEEP at 1, and no deep compaction running: the
level counts and not its crossing (R75; DESIGN CHOICE, log entry 57). -/
def Slice.deepCheck (s : Slice) (g : Shared) : Slice :=
  if s.deepPos.isNone && s.stnCtl.getLsbD 16 &&
      decide (((List.range g.rows).filter s.rowFree).length < fld s.stnCtl 14 0) then { s with deepPos := some 0 } else s

/-- A row number offered to the single-reference queue (R70). -/
def Slice.offerSingle (s : Slice) (r : Nat) : Slice :=
  if s.single.contains r ∨ 16 ≤ s.single.length then s else { s with single := s.single ++ [r] }

/-- One reference to a row released (R61, R66). A row whose last reference goes is freed with its index
entry, unless a waiting update has reserved it (R71). -/
def Slice.release (s : Slice) (g : Shared) (r : Nat) : Slice :=
  let m := s.rowMeta r
  let refs := mRefs m - 1
  if refs = 0 then
    if s.stwait.any (fun o => o.reserved == some r) then s.setMeta r (setFld m 19 0 0)
    else (s.idxRemove (s.rowVec g r) r).setMeta r 0
  else
    let s := s.setMeta r (setFld m 19 0 refs)
    if refs = 1 then s.offerSingle r else s

/-! ### Entries as holder sets -/

/-- Address of the entry of a set and way. -/
def entAddr (set way : Nat) : Nat := bankAddr way set

/-- The holder set an entry word records. -/
def Slice.decodeEnt (s : Slice) (g : Shared) (e : Word) : EntNew :=
  let inl := fun (from_ : Nat) => vecOf ((List.range (eCnt e + 1)).filterMap fun k =>
    if k < from_ then none else some (eSlot e k))
  match eState e with
  | 1 => { st := .s, sharers := if eForm e then s.rowVec g (eRow e) else inl 0, pred := ePred e }
  | 2 => { st := .x, owner := eSlot e 0, pred := ePred e }
  | 3 => { st := .o, owner := eSlot e 0, sharers := if eForm e then s.rowVec g (eRow e) else inl 1, pred := ePred e }
  | 4 => { st := .l, owner := eSlot e 0, pred := ePred e, leash := eLeash e }
  | 5 => { st := .p }
  | _ => { st := .i }

/-- State code of Table 3-2. -/
def DirSt.code : DirSt → Nat
  | .i => 0 | .s => 1 | .x => 2 | .o => 3 | .l => 4 | .p => 5

/-- The holder set fits the inline form (Table 3-2, R57). -/
def EntNew.fits (n : EntNew) : Bool :=
  match n.st with
  | .s => decide (vecCount n.sharers ≤ 4)
  | .o => decide (vecCount n.sharers ≤ 3)
  | _ => true

/-- R57: an O line without sharers is X; an S line without holders is I. -/
def EntNew.canon (n : EntNew) : EntNew :=
  match n.st with
  | .o => if n.sharers = 0 then { n with st := .x } else n
  | .s => if n.sharers = 0 then { st := .i } else n
  | _ => n

/-- Inline slots at their places (R55). -/
def slotsWord (l : List Nat) : Word :=
  (((List.range 4).zip l).map fun (k, a) => put a (27 - 9 * k)).foldl (· ||| ·) 0

/-- The entry word of a holder set in inline form (R55, R57). -/
def EntNew.inlineWord (n : EntNew) (tag : Nat) : Word :=
  let base := put tag 43 ||| put n.st.code 40 ||| putB n.pred 36
  match n.st with
  | .i => 0
  | .s => base ||| put (vecCount n.sharers - 1) 37 ||| slotsWord (vecMembers n.sharers)
  | .x => base ||| slotsWord [n.owner]
  | .o => base ||| put (vecCount n.sharers) 37 ||| slotsWord (n.owner :: vecMembers n.sharers)
  | .l => base ||| slotsWord [n.owner] ||| put n.leash 22
  | .p => base

/-- The entry word of a holder set in stencil form (Table 3-4). -/
def EntNew.stnWord (n : EntNew) (tag row : Nat) : Word :=
  put tag 43 ||| put n.st.code 40 ||| put 1 39 ||| putB n.pred 36 |||
  put (if n.st = .o then n.owner else 0) 27 ||| put row 13 ||| put (vecCount n.sharers) 3

/-- A P entry (Table 3-5). -/
def pWord (tag : Nat) (setw : Bool) (cjob : Nat) : Word :=
  put tag 43 ||| put 5 40 ||| putB setw 35 ||| put cjob 0

/-- The line at a way, from its entry word (R18). -/
def Slice.entLine (s : Slice) (g : Shared) (set way : Nat) : Line :=
  g.lineOf s.logical set (eTag (s.readD (entAddr set way)))

/-- The operation updates a way's entry: it is no release and no background task. -/
def StnOp.updates (o : StnOp) : Bool := o.release == none && o.task == none

/-- The last update of a way that the stencil unit has not yet completed (R68). -/
def Slice.pendingOp (s : Slice) (set way : Nat) : Option StnOp :=
  (s.stwait ++ s.stq).findRev? fun o => o.set == set && o.way == way && o.updates

/-- The holder set of a way as the next update must see it (R68). -/
def Slice.effEnt (s : Slice) (g : Shared) (set way : Nat) : EntNew :=
  match s.pendingOp set way with
  | some o => o.new
  | none =>
    match s.collapses.findRev? (fun c => c.set == set && c.way == way && !c.taken) with
    | some c => c.new
    | none => s.decodeEnt g (s.readD (entAddr set way))

/-- The way of a set that holds a line: a way in P with SETW 0 counts by its TAG, and one that cannot be read holds none that is known. -/
def Slice.findWay (s : Slice) (g : Shared) (lp : Line) : Option Nat :=
  (List.range g.dirw).find? fun w =>
    match s.pendingOp (lpSet lp) w with
    | some o => o.new.st != .i && lpTag (g.lp o.line) == lpTag lp
    | none =>
      let (c, e) := s.readC (entAddr (lpSet lp) w)
      c.usable && eState e != 0 && !(eState e == 5 && eSetw e) && eTag e == lpTag lp

/-- Some directory way of the set is an uncorrectable word (R396): its address. -/
def Slice.badWay (s : Slice) (g : Shared) (set : Nat) : Option Nat :=
  ((List.range g.dirw).map (entAddr set)).find? fun a => !(s.readC a).1.usable

/-- Agents strictly ascending. -/
def ascending : List Nat → Bool
  | a :: b :: l => decide (a < b) && ascending (b :: l)
  | _ => true

/-- The consistency rules of Table 3-6; `true` when the entry breaks none. -/
def Slice.entOk (s : Slice) (g : Shared) (line : Line) (e : Word) : Bool :=
  let slots := (List.range 4).map (eSlot e)
  let used := slots.take (eCnt e + 1)
  let zeroAbove := (slots.drop (eCnt e + 1)).all (· == 0)
  let holderOk := fun a => (g.port a).caching
  match eState e with
  | 0 => e == 0
  | 1 =>
    if eForm e then
      eCnt e == 0 && fld e 2 0 == 0 && eSlot e 0 == 0 && decide (eRow e < g.rows) && decide (4 < eNsh e) &&
      mValid (s.rowMeta (eRow e)) && mPop (s.rowMeta (eRow e)) == eNsh e
    else zeroAbove && ascending used && used.all holderOk
  | 2 => !eForm e && eCnt e == 0 && (slots.drop 1).all (· == 0) && holderOk (eSlot e 0)
  | 3 =>
    holderOk (eSlot e 0) &&
    if eForm e then
      eCnt e == 0 && fld e 2 0 == 0 && decide (eRow e < g.rows) && decide (3 < eNsh e) &&
      mValid (s.rowMeta (eRow e)) && mPop (s.rowMeta (eRow e)) == eNsh e &&
      !(s.rowVec g (eRow e)).getLsbD (eSlot e 0)
    else decide (0 < eCnt e) && zeroAbove && ascending (used.drop 1) && used.all holderOk &&
      !(used.drop 1).contains (eSlot e 0)
  | 4 => !eForm e && eCnt e == 0 && (slots.drop 2).all (· == 0) && fld e 21 18 == 0 && holderOk (eSlot e 0) &&
      s.lsh.any (fun l => l.no == eLeash e && l.line == line)
  | 5 => !eForm e && fld e 34 12 == 0
  | _ => false

/-! ### Recency (R76, R77) -/

/-- A transaction is in flight for a line: a tracker, the background tracker of a line step (R460) or a collapse. -/
def Slice.inFlight (s : Slice) (l : Line) : Bool :=
  s.trk.any (fun t => t.req.line == l) || s.rcl.any (fun r => r.line == l && decide (r.no < 256)) || s.collapses.any (·.line == l)

/-- A way may be chosen as victim: S, X or O, nothing in flight for its line, no collapse, no update in the
stencil unit (R76). -/
def Slice.eligible (s : Slice) (g : Shared) (set way : Nat) : Bool :=
  let st := (s.effEnt g set way).st
  let l := s.entLine g set way
  (st == .s || st == .x || st == .o) && !s.inFlight l &&
  !s.collapses.any (fun c => c.set == set && c.way == way) && (s.pendingOp set way).isNone

/-- NRU bit of a way. -/
def Slice.nruBit (s : Slice) (set way : Nat) : Bool := (tget 0 s.nru set).getLsbD way

/-- The NRU bit of a way set, by R77. -/
def Slice.touch (s : Slice) (g : Shared) (set way : Nat) : Slice :=
  let v := tget 0 s.nru set ||| (1#16 <<< way)
  let el := (List.range g.dirw).filter (s.eligible g set)
  let v := if !el.isEmpty && el.all (fun w => v.getLsbD w) then 1#16 <<< way else v
  { s with nru := tset 0 s.nru set v }

/-- The victim of a set, and the NRU vector cleared when R76 class 4 applies. -/
def Slice.victim (s : Slice) (g : Shared) (set : Nat) : Option (Nat × Bool) :=
  let el := (List.range g.dirw).filter (s.eligible g set)
  let single := fun w => let e := s.effEnt g set w; e.st == .s && vecCount e.sharers == 1
  match el.find? (fun w => single w && !s.nruBit set w) with
  | some w => some (w, false)
  | none =>
    match el.find? single with
    | some w => some (w, false)
    | none =>
      match el.find? (fun w => !s.nruBit set w) with
      | some w => some (w, false)
      | none => (el.head?).map fun w => (w, true)

/-- One of a list of candidates: the specification names none, so the choice is free (log entry 3). With one
candidate there is no choice. -/
def pick (fv : Nat) : List Nat → Option Nat
  | [] => none
  | [x] => some x
  | l => l[Config.freeNat fv % l.length]?

/-- The numbers below `k` from `lo` that are not in `used`. -/
def freeNos (lo k : Nat) (used : List Nat) : List Nat :=
  ((List.range k).map (lo + ·)).filter fun i => !used.contains i

/-- Background trackers in use: by line steps, decided or not yet (R460), and by census steps that have claimed a slot (R260). -/
def Slice.bgNos (s : Slice) : List Nat := ((s.rcl.map (·.no)).filter fun k => decide (k < 256)) ++ s.bq.filterMap (·.no)
/-- A background tracker is free. -/
def Slice.bgFree (s : Slice) : Bool := decide (s.bgNos.length + s.claim < 16)

/-- A background tracker is free for a census step: line steps that wait undecided do not hold it up, since they may wait for that very
census (DESIGN CHOICE, log entry 82). -/
def Slice.cenFree (s : Slice) : Bool := decide ((s.rcl.filter fun r => decide (r.no < 256)).length + s.claim < 16)

/-- A free recall buffer entry. -/
def Slice.freeRecall (s : Slice) : Option Nat := pick s.fv (freeNos 256 32 (s.rcl.map (·.no)))

/-- The line is in the recall buffer, or waits for an entry of it (R81, R448). -/
def Slice.recalling (s : Slice) (line : Line) : Bool :=
  s.rcl.any (fun x => x.line == line && decide (256 ≤ x.no)) || s.owed.any (·.1 == line)

/-- Record `a` is older than `b` by their SEQ values, modulo 2^32 (R425). -/
def seqOlder (a b : BitVec 32) : Bool := decide (1 ≤ (b - a).toNat ∧ (b - a).toNat ≤ 2 ^ 31 - 1)

/-- What a home TXID, or for barriers a port, stands for in the slice now (Table 14-2). -/
def Slice.ownerOf (s : Slice) (t arg : Nat) : Option Owner :=
  if t < 240 then (s.tracker t).map .trk
  else if t < 288 then (s.rcl.find? (·.no == t)).map .rcl
  else if t < 320 then (s.lsh.find? (·.no == t - 288)).map .leash
  else if t < 328 then (s.jobs.find? (·.slot == t - 320)).map .job
  else if t < 336 then (s.far.find? (·.no == t - 328)).map .far
  else if t = 0xFFF then (s.bar.find? (·.port == arg)).map .bar
  else none

/-- Two records describe one transaction or table entry. -/
def JRec.same (r x : JRec) : Bool := x.htx == r.htx && (r.htx != 0xFFF || x.arg == r.arg) && x.kind != 4 && x.kind != 8

/-- The record ends what the earlier records of its owner describe: a DONE, or a TABLE of an entry freed; a CHECKPT stands in their
place (R423, R424). -/
def JRec.ends (x : JRec) : Bool := x.kind == 7 || x.kind == 5 || (x.kind == 6 && x.own.isNone)

/-- A journal record is live, `later` being the records after it (R423): nothing later ends what it describes. What an IMAGE names is
written in its cycle; a DECIDE also lives while the stencil unit or a collapse has still to write a word that it names (log entry 58). -/
def Slice.recLive (s : Slice) (r : JRec) (later : List JRec) : Bool :=
  let t := r.htx.toNat
  let open_ := (s.stq ++ s.stwait).any (·.htx == some t) || s.collapses.any (·.htx == t)
  let mine := later.filter r.same
  if r.kind == 2 && open_ then !mine.any (·.kind == 7) && !mine.any (·.kind == 1)
  else (r.kind == 1 || r.kind == 2 || r.kind == 3 || r.kind == 7 || (r.kind == 6 && r.own.isSome)) && !mine.any JRec.ends

/-- The oldest live record by SEQ (R425), each with the ring entries from its first to the head. -/
def Slice.oldestLive (s : Slice) : Option (JRec × Nat) := (go s.jrn).1
where
  /-- The oldest live record of a list, and the entries of the list. -/
  go : List JRec → Option (JRec × Nat) × Nat
    | [] => (none, 0)
    | r :: l =>
      let (b, n) := go l
      let n := n + r.nent
      let b := if s.recLive r l && b.all (fun x => seqOlder r.seq x.1.seq || r.seq == x.1.seq) then some (r, n) else b
      (b, n)

/-- The newest records that fit the ring of 4,096 entries (R420). -/
def ringKeep : List JRec → List JRec × Nat
  | [] => ([], 0)
  | r :: l =>
    let (k, n) := ringKeep l
    if k.length = l.length ∧ n + r.nent ≤ 4096 then (r :: k, n + r.nent) else (k, n)

/-- One record put at the head of the ring: with the next SEQ when it is the first of its slice cycle, `fresh`, and otherwise with that of
its cycle (R420, R421). -/
def Slice.jput (s : Slice) (fresh : Bool) (kind nent htx arg : Nat) (words : List (Nat × W72) := []) (ans : Option Msg := none) : Slice :=
  let q := if fresh then s.jseq + 1 else s.jseq
  let r : JRec := { seq := q, kind := BitVec.ofNat 4 kind, nent := nent, htx := BitVec.ofNat 12 htx, arg := BitVec.ofNat 12 arg,
                    pos := s.jpos, words := words, ans := ans }
  { s with jseq := q, jpos := s.jpos + nent, jrn := (ringKeep (s.jrn ++ [r])).1 }

/-- While the oldest live record lies 3,584 or more entries behind the head, a CHECKPT of its owner is written in the next slice cycle
(R424): 10 entries for a transaction or recall entry, 1 header and 1 further entry for a table entry (log entry 58). -/
def Slice.checkpt : Nat → Slice → Slice
  | 0, s => s
  | k + 1, s =>
    match s.oldestLive with
    | some (r, n) => if n < 3584 then s else
        let s := s.jput true 7 (if r.htx.toNat < 288 then 10 else 2) r.htx.toNat r.arg.toNat
        Slice.checkpt k { s with jrn := s.jrn.map fun x : JRec =>
          if x.pos = s.jpos - (if r.htx.toNat < 288 then 10 else 2) then { x with own := s.ownerOf r.htx.toNat r.arg.toNat } else x }
    | none => s

/-- A word of a held bank of slice `n` as a reader of the array finds it: a listed word, or a word with its own check bits, whose payload for
the journal is the header of Table 14-1 at a record's first word. A word never written since the fill holds zero (R312); any other payload
is free, the same for every read until what the bank holds changes (log entry 6). -/
def Slice.heldWord (s : Slice) (n a : Nat) : W72 :=
  let free := Config.freeWord ((s.tabs.ver + s.jpos) * 2 ^ 34 + 2 ^ 32 + n * 2 ^ 20 + a)
  match s.mem.find? (·.1 == a) with
  | some x => x.2
  | none =>
    let e := a % 32768 / 2
    if a / 32768 = 27 then encode72 (if s.tabs.wat then free else 0) a
    else if a / 32768 = 29 then encode72 (if s.tabs.cen then free else 0) a
    else match s.jrn.find? (fun r => decide ((e + 4096 - r.pos % 4096) % 4096 < r.nent)) with
      | some r =>
        if a % 2 = 0 && e == r.pos % 4096 then
          encode72 (r.seq.setWidth 64 <<< 32 ||| put r.kind.toNat 28 ||| put r.nent 24 ||| put r.htx.toNat 12 ||| put r.arg.toNat 0) a
        else encode72 free a
      | none => encode72 (if s.jpos ≤ 4096 then 0 else free) a

/-- A journal record written (R420 to R423). A slice cycle takes up to 8 entries, and a longer record its own cycles. -/
def Work.journal (w : Work) (kind nent : Nat) (htx arg : Nat) (words : List (Nat × W72) := []) (ans : Option Msg := none) : Work :=
  let fresh := decide (w.jroom < nent)
  { w with sl := w.sl.jput fresh kind nent htx arg words ans, jroom := if fresh then 8 - nent else w.jroom - nent }

/-- Two memories without the words that they begin with in common. -/
def memTails : Memory → Memory → Memory × Memory
  | x :: l, y :: m => if x = y then memTails l m else (x :: l, y :: m)
  | l, m => (l, m)

/-- The places whose words differ. -/
def memDiff (old new : Memory) : List Nat :=
  let (l, m) := memTails old new
  let (l, m) := memTails l.reverse m.reverse
  ((m.filter (!l.contains ·)).map (·.1) ++ (l.map (·.1)).filter fun a => !m.any (·.1 == a)).eraseDups

/-- The IMAGE records of a slice cycle: the words that changed and that no DECIDE carries, a row to a record (R422). The array's words of
the journal, the watch table and the build table are structures of State. -/
def Work.images (w : Work) (old : Slice) : Work :=
  let as_ := ((memDiff old.mem w.sl.mem).filterMap w.sl.unplace).filter fun a => !heldBank (a / 32768) && !w.carried.contains a
  (as_.map (· / 8)).eraseDups.foldl (fun w r =>
    let k := (as_.filter (· / 8 == r)).map (· % 8)
    let lo := k.foldl Nat.min 7
    let n := k.foldl Nat.max 0 + 1 - lo
    w.journal 4 (1 + (n + 1) / 2) 0xFFF n ((List.range n).map fun i => (8 * r + lo + i, w.sl.fetch (8 * r + lo + i)))) w

/-- The end of a slice cycle: the records it wrote hold what they describe as it then stands (Table 14-2), and the CHECKPTs that R424 then
asks for follow. -/
def Work.close (w : Work) (old : Slice) : Work :=
  let w := if w.sl.mem = old.mem then w else w.images old
  let w := if w.sl.jobs = old.jobs ∧ w.sl.wat = old.wat then w else w.upd fun s =>
    { s with tabs := { s.tabs with ver := s.tabs.ver + 1, cen := s.tabs.cen || s.jobs.any fun j => !j.recs.isEmpty } }
  if w.sl.jpos = old.jpos then w
  else w.upd fun s =>
    let s := { s with jrn := s.jrn.map fun r : JRec =>
      if r.pos < old.jpos || r.kind == 4 || r.kind == 8 then r else
        { r with own := s.ownerOf r.htx.toNat r.arg.toNat
                 ops := if r.kind = 2 then (s.stq ++ s.stwait).filter (·.htx == some r.htx.toNat) else []
                 words := if r.kind = 2 then w.carried.map fun a => (a, s.fetch a) else [] } }
    if (s.jrn.map (·.nent)).sum < 3584 then s else s.checkpt 16

end Sys2Proof.Machine
end

