-- ==== Sys2Proof/Machine/NetIn.lean ====
section
/-! DEFINITION. Receiving a packet: the checks of Table 18-4 and the counts, records and answers they call for
(R531 to R536, R551). -/

namespace Sys2Proof.Machine

/-- Which kind of interface receives. -/
inductive Ifc where
  | slice | kennel | ctl
  deriving DecidableEq, Repr

/-- A node ID of Table 4-1 that is not reserved. -/
def nodeOk (n : Nat) : Bool := n < 578 || (640 ≤ n && n < 672) || n == 1008 || n == 1009

/-- The mask of F bits a message may use and the NDAT values its row of Table 18-2 allows, for the messages
that an interface of Xejan receives. -/
def msgShape (cls cmd : Nat) : Option (Nat × List Nat) :=
  match cls, cmd with
  | 0, 1 => some (0xC000003, [0]) | 0, 2 => some (0xC000003, [0]) | 0, 3 => some (0xC000003, [0])
  | 0, 4 => some (0x3, [0]) | 0, 5 => some (0x20000, [4]) | 0, 6 => some (0, [0]) | 0, 7 => some (0x20000, [4])
  | 0, 8 => some (0x20000, [5]) | 0, 9 => some (0x201FF, [4]) | 0, 10 => some (0x3FFF, [1, 2])
  | 0, 11 => some (0xC000001, [0]) | 0, 12 => some (1, [0]) | 0, 13 => some (7, [0])
  | 0, 14 => some (0xF7, [0]) | 0, 15 => some (0, [0])
  | 2, 1 => some (1, [0]) | 2, 2 => some (0x20001, [0]) | 2, 3 => some (0, [1, 2, 3, 4, 5])
  | 2, 8 => some (0xFF, [0]) | 2, 9 => some (0x20000, [0])
  | 3, 2 => some (0xC020038, [4]) | 3, 3 => some (0x20000, [4])
  | _, _ => none

/-- The messages an interface receives (R532). -/
def ifcTakes (i : Ifc) (cls cmd : Nat) : Bool :=
  match i, cls, cmd with
  | .slice, 0, c => decide (1 ≤ c ∧ c ≤ 15)
  | .slice, 2, c => c == 1 || c == 2 || c == 3 || c == 8 || c == 9
  | .slice, 3, c => c == 2 || c == 3
  | .kennel, 0, c => decide (1 ≤ c ∧ c ≤ 15)
  | .kennel, 2, c => c == 8 || c == 9
  | .kennel, 3, c => c == 2
  | .ctl, 2, c => c == 8 || c == 9
  | .ctl, 3, c => c == 2
  | _, _, _ => false

/-- GRANT holds a value of Table 4-4. -/
def grantOk (x : Nat) : Bool := x == 0 || x == 1 || x == 2 || x == 4

/-- The further fields hold legal values (Table 4-4, Table 7-1, Table 8-1, Table 13-8); `p` is the parameter
unit's words where they decoded. -/
def fieldsOk (cls cmd f line ndat : Nat) (w1ok : Bool) (p : Option (Nat × Nat)) : Bool :=
  match cls, cmd with
  | 0, 1 => f % 4 != 3 | 0, 2 => f % 4 != 3 | 0, 3 => f % 4 != 3 | 0, 4 => f % 4 != 3
  | 0, 8 => match p with | some (w0, w1) => w0 != 0 && w1 == 0 | none => true
  | 0, 10 =>
    let op := f % 16; let sz := f / 16 % 4
    decide (op < 10) && sz != 3 && f / 2 ^ 12 % 4 != 3 && (if op == 1 && sz == 2 then ndat == 2 else ndat == 1)
  | 0, 14 => f % 4 != 3 && (!w1ok || line == 0)
  | 2, 3 => match p with
    | some (w0, w1) =>
      let nrec := w0 / 2 ^ 36 % 16
      w0 / 2 ^ 40 == 0 && w0 / 2 ^ 33 % 8 == 0 && w0 / 2 ^ 12 % 16 == 0 && w1 == 0 &&
      decide (nrec ≤ 8) && (nrec != 0 || w0 / 2 ^ 32 % 2 == 1) && ndat == 1 + (nrec + 1) / 2
    | none => true
  | 3, 2 => grantOk (f / 8 % 8)
  | _, _ => true

/-- A word of a packet: its class and payload, unit u, word j (R514). -/
def unitWord (p : Pkt) (u j : Nat) : RdClass × Word :=
  match p[u]? with
  | some x => classify (if j = 0 then x.w0 else x.w1) (u + 8 * j)
  | none => (.uncorrectable, 0)

/-- Its syndrome. -/
def unitSyn (p : Pkt) (u j : Nat) : Nat :=
  match p[u]? with
  | some x => (syndrome (if j = 0 then x.w0 else x.w1) (u + 8 * j)).toNat
  | none => 0

/-- What the checks of Table 18-4 find, in their order. -/
inductive NetRes where
  | badHeader (w0 : Word) (syn : Nat)
  | misdelivered (w0 : Word)
  | malformed (m : Msg) (w0 w1 : Word)
  | absent (m : Msg)
  | unitFail (m : Msg) (unit word syn : Nat)
  | incomplete (m : Msg)
  | ok (m : Msg)
  deriving DecidableEq, Repr

/-- Words that the message needs beyond W0 of the header: W1 of a response whose fields lie wholly in W0 is
not needed (Table 18-4). -/
def w1Needed (cls cmd : Nat) : Bool := !(cls == 2 && (cmd == 1 || cmd == 2 || cmd == 9))

/-- The corrected words of a packet (SLC_NET_CNT[0], R550). -/
def netCorrected (p : Pkt) : Nat :=
  (((List.range p.length).map fun u => [(unitWord p u 0).1, (unitWord p u 1).1]).flatten.filter (· == .corrected)).length

/-- The checks 1 to 4 and 6 of Table 18-4 at node `node`. -/
def netCheck (g : Shared) (i : Ifc) (node : Nat) (p : Pkt) : NetRes :=
  let (c0, w0) := unitWord p 0 0
  let (c1, w1) := unitWord p 0 1
  if !c0.usable then .badHeader (match p[0]? with | some x => x.w0.data | none => 0) (unitSyn p 0 0)
  else
    let cls := fld w0 1 0
    let cmd := fld w0 6 2
    let ndat := fld w0 45 43
    let w1v := if c1.usable then w1 else 0
    let units := ((p.drop 1).take ndat).zipIdx.map fun (_, k) =>
      ((unitWord p (k + 1) 1).2.setWidth 128 <<< 64) ||| (unitWord p (k + 1) 0).2.setWidth 128
    let m : Msg := {
      lineOk := c1.usable
      cls := bits w0 1 0, cmd := bits w0 6 2, src := bits w0 16 7, dst := bits w0 26 17, txid := bits w0 38 27,
      pack := bits w0 42 39, line := bits w1v 41 0,
      f := BitVec.ofNat 28 (fld w0 63 46 + fld w1v 63 54 * 2 ^ 18), units := units }
    let raw0 := match p[0]? with | some x => x.w0.data | none => 0
    let raw1 := match p[0]? with | some x => x.w1.data | none => 0
    if m.dst.toNat ≠ node then .misdelivered raw0
    else
      let param := match unitWord p 1 0, unitWord p 1 1 with
        | (a, x), (b, y) => if a.usable && b.usable && 1 < p.length then some (x.toNat, y.toNat) else none
      let isReq := cls == 0
      let bad := match msgShape cls cmd with
        | none => true
        | some (mask, nd) =>
          !ifcTakes i cls cmd || !nd.contains ndat || (m.f.toNat &&& (2 ^ 28 - 1 - mask)) != 0 ||
          !fieldsOk cls cmd m.f.toNat m.line.toNat ndat c1.usable param ||
          (isReq && decide (511 < m.src.toNat)) || !nodeOk m.src.toNat ||
          (isReq && decide (m.src.toNat < 512) && m.pack.toNat != (g.port m.src.toNat).packNo)
      if bad then .malformed m raw0 raw1
      else if decide (m.src.toNat < 512) && (g.port m.src.toNat).absent then .absent m
      else
        let need := (if w1Needed cls cmd then [(0, 1)] else []) ++
          ((List.range (min ndat (p.length - 1))).map fun k => [(k + 1, 0), (k + 1, 1)]).flatten
        match need.find? (fun uj => !(unitWord p uj.1 uj.2).1.usable) with
        | some (u, j) => .unitFail m u j (unitSyn p u j)
        | none => if p.length - 1 < ndat then .incomplete m else .ok m

/-- The request a REQ message carries. -/
def reqOf (m : Msg) : Option Req :=
  let k : Option ReqKind := match m.cmd.toNat with
    | 1 => some .rdShared | 2 => some .rdUnique | 3 => some .rdOnce | 4 => some .upgrade | 5 => some .wrBack
    | 6 => some .evictClean | 7 => some .wrFull | 8 => some .wrPartial | 9 => some .stash | 10 => some .atomic
    | 11 => some .leashTake | 12 => some .leashFree | 13 => some .resvWatch | 14 => some .barrier | 15 => some .cancel
    | _ => none
  k.map fun k =>
    let be := if k = .wrPartial then ((m.units.headD 0).setWidth 64) else 0
    { kind := k, port := m.src.toNat, txid := m.txid, pack := m.pack, line := m.line, f := m.f, be := be,
      data := if k = .wrPartial then m.units.drop 1 else m.units }

/-- Counter i of SLC_NET_CNT. -/
def Work.netCnt (w : Work) (i : Nat) (k : Nat := 1) : Work := w.upd fun s => { s with netc := bump i s.netc k }

/-- A network input record: TYPE 0x02, which raises Bark source 859 (R551). -/
def Work.netRec (w : Work) (sub : Nat) (data : List Word) : Work := (w.ledger 2 sub data).emit (.bark 859)

/-- W2 of SUB 0x03 and 0x04 (Table 18-16). -/
def recMsgWord (m : Msg) (unit word syn act : Nat) : Word :=
  put m.src.toNat 0 ||| put m.cls.toNat 10 ||| put m.cmd.toNat 12 ||| put m.txid.toNat 17 ||| put unit 29 ||| put word 32 |||
  put syn 33 ||| put act 41

/-! ### Packets awaited under a Resend (R533, R535) -/

/-- The packet that an entry stands for is message m. -/
def ResendWait.fits (x : ResendWait) (m : Msg) : Bool :=
  x.src == m.src && x.cls == m.cls && x.cmd == m.cmd && x.txid == m.txid && (!m.lineOk || x.line.isNone || x.line == some m.line)

/-- An intact copy of m is taken: what was awaited under a Resend may still bring later copies, one fewer than the Resends sent. -/
def rsTaken (l : List ResendWait) (m : Msg) : List ResendWait :=
  (l.map fun x => if x.fits m && x.left.isNone then { x with left := some (x.sent - 1) } else x).filter fun x => x.left != some 0

/-- A later copy of m is due, and the list without it (R535). -/
def rsLater (l : List ResendWait) (m : Msg) : Option (List ResendWait) :=
  (l.find? fun x => x.fits m && x.left.isSome).map fun x =>
    (l.map fun y => if y == x then { y with left := y.left.map (· - 1) } else y).filter fun y => y.left != some 0

/-- A packet failed check 6 at time `now` in word `word` of unit `unit`: whether a Resend is sent for it, and the list. A failed copy of an
awaited packet calls for the second Resend, and no third is sent (DEDUCED, log entry 41). -/
def rsFail (l : List ResendWait) (m : Msg) (now unit word syn : Nat) : Bool × List ResendWait :=
  match l.find? fun x => x.fits m && x.left.isNone with
  | some x => (x.sent == 1, l.map fun y => if y == x then
      { y with sent := 2, at_ := if y.sent = 1 then now else y.at_, unit := unit, word := word, syn := syn } else y)
  | none => (true, (l.filter fun x => !x.fits m) ++
      [{ src := m.src, cls := m.cls, cmd := m.cmd, txid := m.txid, line := if m.lineOk then some m.line else none, pack := m.pack
         at_ := now, unit := unit, word := word, syn := syn }])

/-- An awaited packet whose Resend is 1 µs old without an intact copy (R535). -/
def ResendWait.due (x : ResendWait) (now : Nat) : Bool := x.left.isNone && decide (x.at_ + 1000 ≤ now)

/-- The record of a give-up (Table 18-16, SUB 0x04). -/
def ResendWait.gaveUp (x : ResendWait) (m : Msg) : List Word := [recMsgWord m x.unit x.word x.syn 0, put m.line.toNat 0]

/-- The Resend for a failed packet, sent by the node that it was for. -/
def resendFor (m : Msg) : Msg :=
  { cls := clsRsp, cmd := 8, src := m.dst, dst := m.src, txid := m.txid, pack := m.pack
    line := if m.lineOk then m.line else 0
    f := fPut m.cls.toNat 0 ||| fPut m.cmd.toNat 2 ||| (if m.lineOk then fPut 1 7 else 0) }

/-- The failed packet of an entry as a message to node `dst`, with no data unit: POISON 1 (Table 18-5). -/
def ResendWait.msg (x : ResendWait) (dst : Nat) : Msg :=
  { cls := x.cls, cmd := x.cmd, src := x.src, dst := BitVec.ofNat 10 dst, txid := x.txid, pack := x.pack
    line := x.line.getD 0, lineOk := x.line.isSome, f := fPut 1 17, units := [0, 0, 0, 0] }

/-- A copy that a Resend asks for: the most recent matching one (R534). -/
def resendCopy (copies : List Msg) (m : Msg) : Option Msg :=
  copies.reverse.find? fun c => c.dst == m.src && c.cls.toNat == fld m.f 1 0 && c.cmd.toNat == fld m.f 6 2 &&
    c.txid == m.txid && (!m.f.getLsbD 7 || c.line == m.line)

/-- W1 of the header fails and is ignored: counted, not recorded (Table 18-4, R551). -/
def w1Ignored (p : Pkt) : NetRes → Bool
  | .ok _ => !(unitWord p 0 1).1.usable
  | _ => false

/-- An unexpected response discarded (Table 18-4 check 7, R159); a later copy under R535 leaves no record. -/
def Work.unexpected (w : Work) (m : Msg) : Work :=
  match rsLater w.sl.rsends m with
  | some l => (w.netCnt 6).upd fun s => { s with rsends := l }
  | none => (w.netCnt 6).netRec 7 [recMsgWord m 0 0 0 0, put m.line.toNat 0]

/-- A REQ's credit returned by kind: the control credit for Barrier and Cancel (R229, R230). -/
def Work.reqCredit (w : Work) (m : Msg) : Work :=
  if m.cmd = 14 ∨ m.cmd = 15 then w.ctlCredit m.src.toNat else w.credit m.src.toNat

/-- The request of a message whatever its kind, for an Error answer. -/
def reqOfAny (m : Msg) : Req := (reqOf m).getD { kind := .cancel, port := m.src.toNat, txid := m.txid, pack := m.pack, line := m.line, f := 0 }

/-- The words of a packet's header as received. -/
def rawHeader (p : Pkt) : List Word := match p[0]? with | some x => [x.w0.data, x.w1.data] | none => [0, 0]

/-- A REQ other than Barrier and Cancel whose port's admission entry is taken (Table 18-4 check 5). -/
def Slice.noCredit (s : Slice) (m : Msg) : Bool := m.cls == clsReq && m.cmd != 14 && m.cmd != 15 && s.ent.any (·.port == m.src.toNat)

/-- A packet at a slice that fails a check of Table 18-4, or that passes them all. `k` is what is done with a
message that passes. -/
def Work.netIn (w : Work) (g : Shared) (p : Pkt) (k : Work → Msg → Bool → Work) : Work :=
  let corr := netCorrected p
  let w := if corr = 0 then w else w.netCnt 0 corr
  let res := netCheck g .slice (sliceNode w.n) p
  let w := if w1Ignored p res then w.netCnt 2 else w
  match res with
  | .badHeader w0 syn => (w.netCnt 1).netRec 2 [w0, put syn 0]
  | .misdelivered w0 => (w.netCnt 5).netRec 6 [w0]
  | .malformed m w0 w1 =>
    let w := (w.netCnt 4).netRec 5 [w0, w1]
    if m.cls = clsReq ∧ m.src.toNat < 512 ∧ !(g.port m.src.toNat).absent then
      (w.error g none (reqOfAny m) 0x1E).reqCredit m
    else w
  | .absent m =>
    (w.netCnt 4).ledger 1 1 [put m.line.toNat 0 ||| put m.src.toNat 42 ||| put m.cmd.toNat 51]
  | .unitFail m u j syn =>
    if w.sl.noCredit m then (w.netCnt 4).netRec 5 (rawHeader p)
    else if m.cls = clsReq then
      let w := (w.netCnt 2).netRec 3 [recMsgWord m u j syn 1]
      let w := if m.cmd = 15 then w else w.error g none (reqOfAny m) 0x1D
      w.reqCredit m
    else if m.cls = clsRsp ∧ m.cmd = 8 then (w.netCnt 2).netRec 3 [recMsgWord m u j syn 0]
    else
      let w := (w.netCnt 2).netRec 3 [recMsgWord m u j syn 0]
      let (go, l) := rsFail w.sl.rsends m g.now u j syn
      (if go then w.send g none (resendFor m) else w).upd fun s => { s with rsends := l }
  | .incomplete m => if w.sl.noCredit m then (w.netCnt 4).netRec 5 (rawHeader p) else k w m false
  | .ok m => if w.sl.noCredit m then (w.netCnt 4).netRec 5 (rawHeader p) else k w m true

end Sys2Proof.Machine
end

