-- ==== Sys2Proof/Machine/Admission.lean ====
section
/-! DEFINITION. Admission of requests to a slice: entries, contest, lottery, ageing, quotas, shapers, energy and
the gate (R229 to R265). -/

namespace Sys2Proof.Machine

/-- The slice's interface is up: the island is on. -/
def Slice.up (s : Slice) : Bool := s.pwr == .on

/-- The slice serves requests: on, active, and in a mode in which slices run (Table 11-6). -/
def Slice.serving (s : Slice) (g : Shared) : Bool :=
  s.up && s.active && (g.mode == .run || g.mode == .drain || g.mode == .recover || g.mode == .dormant)

/-- Every REQ is answered with an uncounted Retry carrying DRBK: replay (R428), slice census (R417), sink mode
of a failed slice (Table 14-6), the dead-agent walk (R446). -/
def Slice.retrying (s : Slice) (g : Shared) : Bool := s.replay || s.slcp || s.sink || g.walk.isSome

/-- The pack is gated in this slice: PCK_GATE.DRAIN, or the whole block in DRAIN (R263, R319). -/
def Shared.gated (g : Shared) (p : Nat) : Bool := (g.pack p).drain || g.mode == .drain || g.mode == .dormant

/-- The admission estimate of a request (R251, Table 9-5). -/
def Slice.estimate (s : Slice) (g : Shared) (r : Req) : Int :=
  let w : Int := match tget 0 s.hint (predIndex (g.lp r.line)) with | 0 => 0 | 1 => 4 | 2 => 64 | _ => 512
  let c := g.ecost
  match r.kind with
  | .rdShared | .rdOnce | .evictClean | .leashFree | .resvWatch | .barrier | .cancel => c 0 + c 1 + 2 * c 5
  | .rdUnique | .upgrade | .leashTake => c 0 + c 1 + 2 * c 5 + w * c 4
  | .wrBack | .wrFull | .stash => c 0 + c 1 + c 5 + c 6 + w * c 4
  | .wrPartial => c 0 + c 1 + c 5 + c 6 + c 7 + w * c 4
  | .atomic => c 0 + c 1 + c 5 + c 6 + c 8 + w * c 4

/-- A request at a slice that holds its port's credit, with its data or, `full` false, without all of it: it is answered at once where no
request is served, and otherwise takes its port's admission entry (R229, R231, R428, R449, R444). -/
def Work.arrive (w : Work) (g : Shared) (r : Req) (full : Bool) : Work :=
  if g.stop then (w.error g none r 0x1C).credit r.port
  else if w.sl.dead then (w.error g none r 0x1B).credit r.port
  else if w.sl.retrying g then (w.retryDrbk g r).credit r.port
  else w.upd fun s =>
    let s := s.parity (.hint (predIndex (g.lp r.line)))
    { s with ent := s.ent ++
      [{ port := r.port, req := r, complete := full, contest := fld s.arb 10 0, est := s.estimate g r, at_ := g.now }] }

/-- A Ledger ACCESS record of a request without window (Table 16-3). -/
def reqWord (r : Req) : Word := put r.line.toNat 0 ||| put r.port 42 ||| put r.kind.cmd.toNat 51

/-- The port is muzzled: high priority with its quota used (R241). -/
def Slice.muzzled (s : Slice) (g : Shared) (a : Nat) : Bool :=
  (g.port a).hp && decide ((g.port a).quota ≤ (s.port a).quota)

/-- The port is aged in this slice (R147). -/
def Slice.aged (s : Slice) (a : Nat) : Bool := (s.port a).loss == 6

/-- The shaper level of pack p, in sixteenths of a token (R257). -/
def Slice.level (s : Slice) (p : Nat) : Int := tget 0 s.shape p

/-- The shaper lets a non-aged request of the pack in. -/
def Slice.shaperOk (s : Slice) (g : Shared) (p : Nat) : Bool := !(g.pack p).shEn || decide (16 ≤ s.level p)

/-- An entry is eligible for a draw (R234). -/
def Slice.eligibleEnt (s : Slice) (g : Shared) (e : AdmEntry) : Bool :=
  e.complete && !e.admitted && !s.aged e.port && !s.muzzled g e.port && s.shaperOk g e.req.pack.toNat &&
  decide (e.est ≤ s.remain) && !g.gated e.req.pack.toNat

/-- Why an entry was not eligible in this slice cycle, as the counter of SLC_ADM_CNT (R235). -/
def Slice.whyNot (s : Slice) (g : Shared) (e : AdmEntry) : Nat :=
  if !s.shaperOk g e.req.pack.toNat then 4 else if s.remain < e.est then 3 else if s.muzzled g e.port then 2 else 1

/-- A weighted choice: the first element whose tickets exceed what is left of x (R236). -/
def drawGo : List (Nat × Nat) → Nat → Option Nat
  | [], _ => none
  | (a, t) :: l, x => if x < t then some a else drawGo l (x - t)

/-- The ports' draw on q[15:0] (R236, R240). -/
def drawPort (l : List (Nat × Nat)) (q : BitVec 31) : Option Nat :=
  drawGo l (fld q 15 0 * (l.map Prod.snd).sum / 2 ^ 16)

/-- Ascending insertion of ports, for the draw's order. -/
def sortNat (l : List Nat) : List Nat := sortBy (fun a b => decide (a ≤ b)) l

/-- The lottery draw among eligible entries: a pack, then a port of it (R236). -/
def Slice.lottery (g : Shared) (el : List AdmEntry) (q : BitVec 31) : Option Nat :=
  let packs := (List.range 16).filter fun p => el.any (·.req.pack.toNat == p)
  let pt := packs.map fun p => (p, fld (g.pack p).arb 7 0)
  match drawGo pt (fld q 30 16 * (pt.map Prod.snd).sum / 2 ^ 15) with
  | none => none
  | some p =>
    let ports := sortNat ((el.filter (·.req.pack.toNat == p)).map (·.port))
    drawPort (ports.map fun a => (a, (g.port a).tickets)) q

/-- Tracker numbers: 0 to 223 general, 224 to 239 aged, 240 to 255 background (log entry 10). A number that an operation of the
stencil unit or a collapse still carries is not used again before its end (DEDUCED, log entry 16). A Stash does not
take a tracker that sent a SnpStash to the same target for the same line less than 2 µs earlier (R437). -/
def Slice.freeTrackers (s : Slice) (g : Shared) (lo k : Nat) (r : Option Req) : List Nat :=
  (freeNos lo k (s.trk.map (·.no))).filter fun t =>
    !(s.stq ++ s.stwait).any (·.htx == some t) && !s.collapses.any (·.htx == t) &&
    match r with
    | some r => r.kind != .stash ||
        !s.stashLast.any (fun (u, tgt, l, at_) => u == t && tgt == r.tgt && l == r.line && decide (g.now < at_ + 2000))
    | none => true

/-- The tracker number that an admission takes: a free general one, and for an aged request otherwise a free
aged one (R148). -/
def Slice.takeNo (s : Slice) (g : Shared) (r : Req) (aged : Bool) : Option Nat :=
  match pick s.fv (s.freeTrackers g 0 224 (some r)) with
  | some t => some t
  | none => if aged then pick s.fv (s.freeTrackers g 224 16 (some r)) else none

/-- A shaper token taken by an admission, with the debt floor of R257. -/
def Work.takeToken (w : Work) (g : Shared) (p : Nat) : Work :=
  if !(g.pack p).shEn then w else
    let floor : Int := -(4 * (g.pack p).burst * 16 : Nat)
    let x := w.sl.level p - 16
    if x < floor then
      w.upd fun s => { s with shape := tset 0 s.shape p floor, adm := bump 7 s.adm (floor - x).toNat }
    else w.upd fun s => { s with shape := tset 0 s.shape p x }

/-- A request admitted to tracker `t` (R233, R244, R252, R257): loss count and quota, energy, shaper, journal. `entry`: it holds its port's
admission entry, which a request of the aged queue has left (R229). -/
def Work.intake (w : Work) (g : Shared) (r : Req) (t : Nat) (aged : Bool) (est : Int) (entry : Bool) : Work :=
  let p := w.sl.port r.port
  let w := w.upd fun s => s.updPort r.port fun p =>
    { p with loss := 0, exp := if p.loss = 0 then (g.port r.port).bkmin else p.exp,
             quota := if (g.port r.port).hp then p.quota + 1 else p.quota }
  let w := w.takeToken g r.pack.toNat
  let w := w.chargeRaw g est
  let w := w.upd fun s =>
    let s := { s with chgE := s.chgE + (g.ecost 0).toNat }
    let x : Tracker := { no := t, seq := s.seq, req := r, aged := aged, est := est, cost := g.ecost 0, was := p,
                         h1 := (g.pack r.pack.toNat).h1, entry := entry, inWin := (g.port r.port).hp }
    let s := { s with trk := s.trk ++ [x],
                      seq := s.seq + 1, fv := s.fv + 1, adm := bump 0 s.adm,
                      ent := s.ent.map fun e : AdmEntry => if entry && e.port == r.port then { e with admitted := true } else e }
    { s with hwm := Nat.max s.hwm (Nat.min s.trk.length 256) }
  (w.journal 1 (if r.data.isEmpty then 1 else 5) t 0).upd fun s => s.setTrk t fun x => { x with jseq := s.jseq }

/-- A complete entry of an aged port enters the aged queue, which frees the entry and has one place for each port (R148, R229). -/
def Work.agedArrive (w : Work) (e : AdmEntry) : Work :=
  if w.sl.agedq.any (·.1.port == e.port) then w else
  (w.upd fun s => { s with agedq := s.agedq ++ [(e.req, e.est)], qhwm := Nat.max s.qhwm (s.agedq.length + 1) }).freeEntry e.port

/-- Entries of gated packs answered at the first admission phase after they are complete (R263). -/
def Work.gateEntries (w : Work) (g : Shared) : Work :=
  (w.sl.ent.filter fun e => e.complete && !e.admitted && g.gated e.req.pack.toNat).foldl
    (fun w e => (w.retryDrbk g e.req).freeEntry e.port) w

/-- Shaper refill: RATE/16 tokens per µs of timestamp time, in steps of 1/16 token, up to BURST (R257). -/
def Slice.refill (s : Slice) (g : Shared) : Slice :=
  let shape := (List.range 16).foldl (fun sh p =>
    let pk := g.pack p
    if pk.shEn then
      let add : Int := ((pk.rate * g.now / 1000 - pk.rate * s.shTick / 1000 : Nat) : Int)
      tset 0 sh p (min ((pk.burst * 16 : Nat) : Int) (tget 0 sh p + add))
    else sh) s.shape
  { s with shape := shape, shTick := g.now }

/-- What a slice cycle counts, before its admission phase: the LFSR (R237), contest times, the floor (R261),
far registers' idle cycles (R179), the length of the quota window (R241; QUOTA_WINDOW_START ends it) and the shapers (R258). -/
def Slice.cycle (s : Slice) (g : Shared) : Slice :=
  let s : Slice := s.refill g
  let s : Slice := { s with
    cyc := s.cyc + 1, lfsr := lfsrSteps 31 s.lfsr, bgCount := s.bgCount + 1,
    far := s.far.map fun f : FarReg => { f with idle := f.idle + 1 },
    qpos := s.qpos + 1 }
  { s with ent := s.ent.map fun e : AdmEntry => if e.complete && !e.admitted then { e with age := e.age + 1, lastWhy := s.whyNot g e } else e }

end Sys2Proof.Machine
end

