-- ==== Sys2Proof/Machine/Plan.lean ====
section
/-! DEFINITION. The decisions of the home as tables: Table 4-9, Table 7-4 and Table 7-6 as pure functions of the
entry's holder set and the requester. -/

namespace Sys2Proof.Machine

/-- The memory request a decision calls for. -/
inductive MemPlan where
  | none
  | read (grant : BitVec 3)
  | write
  | afterOwner
  | farRead
  deriving DecidableEq, Repr

/-- What a decision calls for: the forward (owner, unique, ONCE), the agents that get SnpInval, the owner that
gets SnpRecall, the memory request, the new holder set, and the GRANT and STATUS of the Comp. -/
structure Plan where
  fwd    : Option (Nat × Bool × Bool) := none
  invals : List Nat := []
  recl   : Option Nat := none
  mem    : MemPlan := .none
  new    : EntNew
  grant  : BitVec 3 := 0
  status : BitVec 3 := 0
  deriving DecidableEq, Repr

/-- Agent `a` is recorded as a holder. -/
def EntNew.holds (e : EntNew) (a : Nat) : Bool :=
  match e.st with
  | .s => e.sharers.getLsbD a
  | .x | .l => e.owner == a
  | .o => e.owner == a || e.sharers.getLsbD a
  | _ => false

/-- Agent `a` is recorded as the owner. -/
def EntNew.owns (e : EntNew) (a : Nat) : Bool :=
  match e.st with
  | .x | .o | .l => e.owner == a
  | _ => false

/-- Every recorded holder, ascending, the owner in its place. -/
def EntNew.holders (e : EntNew) : List Nat :=
  match e.st with
  | .s => vecMembers e.sharers
  | .x | .l => [e.owner]
  | .o => vecMembers (vecAdd e.sharers e.owner)
  | _ => []

/-- The holder set without agent `a` (R582, Table 14-7): canonical. -/
def EntNew.without (e : EntNew) (a : Nat) : EntNew :=
  match e.st with
  | .s => { e with sharers := vecDel e.sharers a : EntNew }.canon
  | .x | .l => if e.owner = a then { st := .i } else e
  | .o => if e.owner = a then ({ st := .s, sharers := e.sharers, pred := e.pred } : EntNew).canon
          else ({ e with sharers := vecDel e.sharers a } : EntNew).canon
  | _ => e

/-- X with owner `a`. -/
def EntNew.x (a : Nat) (pred : Bool) : EntNew := { st := .x, owner := a, pred := pred }

/-- RdShared (Table 4-9) for a requester that is not a holder. -/
def planRdShared (e : EntNew) (a : Nat) : Plan :=
  match e.st with
  | .s => { mem := .read 1, new := { e with sharers := vecAdd e.sharers a } }
  | .x => { fwd := some (e.owner, false, false), new := { st := .o, owner := e.owner, sharers := vecAdd 0 a, pred := e.pred } }
  | .o => { fwd := some (e.owner, false, false), new := { e with sharers := vecAdd e.sharers a } }
  | _ => { mem := .read 2, new := EntNew.x a false }

/-- RdUnique (Table 4-9); `pred` is the entry's PRED after the ownership event. -/
def planRdUnique (e : EntNew) (a : Nat) (pred : Bool) : Plan :=
  match e.st with
  | .s => { invals := (vecMembers e.sharers).filter (· != a), mem := .read 2, new := EntNew.x a pred }
  | .x => { fwd := some (e.owner, true, false), new := EntNew.x a pred }
  | .o => { fwd := some (e.owner, true, false), invals := (vecMembers e.sharers).filter (· != a), new := EntNew.x a pred }
  | _ => { mem := .read 2, new := EntNew.x a false }

/-- Upgrade (Table 4-9). -/
def planUpgrade (e : EntNew) (a : Nat) (pred : Bool) : Plan :=
  if e.holds a then
    match e.st with
    | .s => { invals := (vecMembers e.sharers).filter (· != a), new := EntNew.x a pred, grant := 2 }
    | .o => { invals := e.holders.filter (· != a), new := EntNew.x a pred, grant := 4 }
    | _ => { new := EntNew.x a pred, grant := 4 }
  else planRdUnique e a pred

/-- RdOnce (Table 4-9). -/
def planRdOnce (e : EntNew) : Plan :=
  match e.st with
  | .x | .o => { fwd := some (e.owner, false, true), new := e }
  | _ => { mem := .read 0, new := e }

/-- WrBack (Table 4-9). -/
def planWrBack (e : EntNew) (a : Nat) : Plan :=
  if e.owns a && e.st != .l then
    match e.st with
    | .o => { mem := .write, new := ({ st := .s, sharers := e.sharers, pred := e.pred } : EntNew).canon }
    | _ => { mem := .write, new := { st := .i } }
  else { new := e, status := 3 }

/-- EvictClean (Table 4-9, R130). -/
def planEvictClean (e : EntNew) (a : Nat) : Plan :=
  if e.holds a && e.st != .l then { new := e.without a } else { new := e, status := 3 }

/-- WrFull (Table 4-9). -/
def planWrFull (e : EntNew) : Plan := { invals := e.holders, mem := .write, new := { st := .i } }

/-- WrPartial (Table 4-9). -/
def planWrPartial (e : EntNew) : Plan :=
  match e.st with
  | .x => { recl := some e.owner, mem := .afterOwner, new := { st := .i } }
  | .o => { recl := some e.owner, invals := vecMembers e.sharers, mem := .afterOwner, new := { st := .i } }
  | _ => { invals := e.holders, mem := .write, new := { st := .i } }

/-- A far Atomic (Table 7-4); `reg` when a far register holds the line. -/
def planFar (e : EntNew) (a : Nat) (reg : Bool) : Plan :=
  match e.st with
  | .s => { invals := (vecMembers e.sharers).filter (· != a), mem := .farRead, new := { st := .i } }
  | .x => { recl := some e.owner, mem := .afterOwner, new := { st := .i } }
  | .o => { recl := some e.owner, invals := (vecMembers e.sharers).filter (· != a), mem := .afterOwner, new := { st := .i } }
  | _ => { mem := if reg then .none else .farRead, new := { st := .i } }

/-- A near Atomic (R174). -/
def planNear (e : EntNew) (a : Nat) (pred : Bool) : Plan :=
  if e.holds a then planUpgrade e a pred else planRdUnique e a pred

/-- LeashTake (Table 7-6): as RdUnique or Upgrade, leaving L with leash entry `i`. -/
def planLeashTake (e : EntNew) (a : Nat) (pred : Bool) (i : Nat) : Plan :=
  let p := planUpgrade e a pred
  { p with new := { p.new with st := .l, leash := i } }

/-- An offered Stash (R223). -/
def planStash (e : EntNew) (a tgt : Nat) : Plan :=
  { invals := e.holders.filter (fun h => h != a && h != tgt), new := EntNew.x tgt e.pred }

/-- The pairing of request, entry and requester is in no decision table although the requester is a recorded
holder (R582). -/
def unlisted (k : ReqKind) (far : Bool) (e : EntNew) (a : Nat) : Bool :=
  e.holds a && e.st != .l &&
  match k with
  | .rdShared => true
  | .rdUnique => e.owns a
  | .rdOnce => e.st != .s
  | .wrFull | .wrPartial => true
  | .stash => true
  | .atomic => e.owns a || (far && false)
  | _ => false

/-- The snoops and forwards a plan sends (R250). -/
def Plan.snoops (p : Plan) : Nat :=
  p.invals.length + (if p.fwd.isSome then 1 else 0) + (if p.recl.isSome then 1 else 0)

/-- Agents that the plan snoops for the line (R188). -/
def Plan.snooped (p : Plan) : List Nat :=
  p.invals ++ (match p.fwd with | some f => [f.1] | none => []) ++ (match p.recl with | some r => [r] | none => [])

end Sys2Proof.Machine
end

