-- ==== Sys2Proof/Machine/Flow.lean ====
section
/-! DEFINITION. What a decision does: entries and stencils written, victims recalled, messages sent, completions
(R76 to R81, R111 to R116, R125, R250, R252). -/

namespace Sys2Proof.Machine

/-- SnpInval, SnpRecall, SnpFwdShared, SnpFwdUnique and SnpStash codes (Table 4-3). -/
def snp (n : Nat) (cmd : BitVec 5) (a htx : Nat) (pack : BitVec 4) (line : Line) (f : BitVec 28 := 0)
    (units : List Unit128 := []) : Msg :=
  { cls := clsSnp, cmd := cmd, src := BitVec.ofNat 10 (sliceNode n), dst := BitVec.ofNat 10 a,
    txid := BitVec.ofNat 12 htx, pack := pack, line := line, f := f, units := units }

/-- MemRd (Table 18-2). -/
def memRd (n t htx : Nat) (pack : BitVec 4) (line : Line) (dtr : Bool) (reqr : Nat) (rtxid : BitVec 12)
    (grant : BitVec 3) (crit : Nat) : Msg :=
  { cls := clsReq, cmd := 0x10, src := BitVec.ofNat 10 (sliceNode n), dst := BitVec.ofNat 10 (memNode t),
    txid := BitVec.ofNat 12 htx, pack := pack, line := line,
    f := (if dtr then fPut 1 0 else 0) ||| fPut reqr 1 ||| fPut rtxid.toNat 11 ||| fPut grant.toNat 23 ||| fPut crit 26 }

/-- MemWr (Table 18-2): its byte enables in a parameter unit, then four data units. -/
def memWr (n t htx : Nat) (pack : BitVec 4) (line : Line) (be : BitVec 64) (data : List Unit128) (poison : Bool) : Msg :=
  { cls := clsReq, cmd := 0x11, src := BitVec.ofNat 10 (sliceNode n), dst := BitVec.ofNat 10 (memNode t),
    txid := BitVec.ofNat 12 htx, pack := pack, line := line, f := if poison then fPut 1 17 else 0,
    units := be.setWidth 128 :: data }

/-- Forward fields: ONCE, REQR, RTXID, CRIT (Table 18-2). -/
def fwdF (once : Bool) (reqr : Nat) (rtxid : BitVec 12) (crit : Nat) : BitVec 28 :=
  (if once then fPut 1 0 else 0) ||| fPut reqr 1 ||| fPut rtxid.toNat 11 ||| fPut crit 26

/-- All byte enables. -/
def beAll : BitVec 64 := BitVec.allOnes 64

/-- An expected answer is one that R113 waits for. -/
def Exp.blocks (e : Exp) : Bool := e.kind != .data

/-- R113: no earlier transaction on the line still waits for an answer. `seq` is the asker's place; a far register
counts from the decision that fills it (R180) unless `far`. -/
def Slice.memFree (s : Slice) (line : Line) (seq : Nat) (far : Bool) : Bool :=
  !s.trk.any (fun t => t.req.line == line && decide (t.seq < seq) && t.stat == .decided && t.exp.any Exp.blocks) &&
  !s.rcl.any (fun r => r.line == line && decide (r.seq < seq) && !r.exp.isEmpty) &&
  !s.collapses.any (fun c => c.line == line && !c.exp.isEmpty && decide (c.seq < seq)) &&
  (far || !s.far.any (fun f => f.line == line && decide (f.seq < seq)))

/-- R125: a decided transaction of agent `a` on the line has not sent its Comp. -/
def Slice.holdSnoop (s : Slice) (line : Line) (a htx : Nat) : Bool :=
  s.trk.any fun t => t.req.line == line && t.req.port == a && t.stat == .decided && t.no != htx

/-- The memory request of tracker `t`: sent when R113 allows it, and otherwise held in its tracker. -/
def Work.memReq (w : Work) (g : Shared) (t : Tracker) (m : Msg) : Work :=
  let held := !w.sl.memFree m.line t.seq t.far.isSome
  let w := w.upd fun s => s.setTrk t.no fun x => { x with exp := x.exp ++
    [{ kind := .mem, node := m.dst.toNat, msg := m, held := held, sentAt := 0 }] }
  if held then w else
    (w.send g (some t.no) m).upd fun s => s.setTrk t.no fun x => { x with exp := x.exp.map fun e : Exp =>
      if e.kind == .mem then { e with sentAt := g.now } else e }

/-- A snoop of tracker `t`, held back under R125 where that rule applies. -/
def Work.snoop (w : Work) (g : Shared) (t : Tracker) (kind : ExpKind) (m : Msg) (holdable : Bool) : Work :=
  let held := holdable && w.sl.holdSnoop m.line m.dst.toNat t.no
  let w := w.upd fun s => s.setTrk t.no fun x => { x with exp := x.exp ++
    [{ kind := kind, node := m.dst.toNat, msg := m, held := held, sentAt := g.now }] }
  if held then w else w.send g (some t.no) m

/-- Ways written: an entry word stored, charged UPDATE. -/
def Work.putWord (w : Work) (g : Shared) (htx : Option Nat) (set way : Nat) (e : Word) : Work :=
  (w.chargeT g htx (g.ecost 1)).upd fun s => (s.storeD (entAddr set way) e).wroteBy htx [entAddr set way]

/-- A directory update of one way to a new holder set (R57, R65, R68): written at once when it is inline and nothing of the way is
pending, or when the row stays the same and does not retire (R137); otherwise given to the stencil unit. `htx`, `seq` and `keep` are
those of the operation (`StnOp`). -/
def Work.putEnt (w : Work) (g : Shared) (htx : Option Nat) (seq : Nat) (keep : Option Nat) (line : Line) (set way : Nat)
    (new : EntNew) : Work :=
  let new := new.canon
  let tag := lpTag (g.lp line)
  let e := w.sl.readD (entAddr set way)
  let pack : BitVec 4 := match htx.bind w.sl.tracker with | some t => t.req.pack | none => 0
  let op : StnOp := { set := set, way := way, line := line, new := new, htx := htx, seq := seq, keep := keep, pack := pack }
  if (w.sl.pendingOp set way).isSome ∨ w.sl.collapses.any (fun c => c.set == set && c.way == way && !c.taken) then
    w.upd fun s => { s with stq := s.stq ++ [op] }
  else if new.fits then
    let w := w.putWord g htx set way (new.inlineWord tag)
    if eForm e ∧ (eState e = 1 ∨ eState e = 3) then
      w.upd fun s => { s with stq := s.stq ++ [{ op with release := some (eRow e) }] }
    else w
  else if eForm e ∧ (eState e = 1 ∨ eState e = 3) ∧ !mRet (w.sl.rowMeta (eRow e)) ∧ w.sl.rowVec g (eRow e) = new.sharers then
    w.putWord g htx set way (new.stnWord tag (eRow e))
  else w.upd fun s => { s with stq := s.stq ++ [op] }

/-- The same for an update that a DECIDE of this slice cycle carries (R422). -/
def Work.decideEnt (w : Work) (g : Shared) (htx : Nat) (seq : Nat) (keep : Option Nat) (line : Line) (set way : Nat) (new : EntNew) : Work :=
  ({ w with carried := entAddr set way :: w.carried }).putEnt g (some htx) seq keep line set way new

/-- SnpRecall to every holder of a line in recall entry `no`, in ascending agent ID (R80, R114). -/
def Work.recallSnoops (w : Work) (g : Shared) (no : Nat) (line : Line) (agents : List Nat) (cmd : Nat → BitVec 5) : Work :=
  agents.foldl (fun w a =>
    let m := snp w.n (cmd a) a no (BitVec.ofNat 4 (g.port a).packNo) line
    let held := w.sl.holdSnoop line a 4096
    let w := w.upd fun s => { s with rcl := s.rcl.map fun r : Recall => if r.no == no then
      { r with exp := r.exp ++ [{ kind := .recall, node := a, msg := m, held := held, sentAt := g.now }] } else r }
    if held then w else w.send g none m) w

/-- A line moved into recall entry `no` with its state and holders (R79, R80). RECALL and its SNOOPs are charged to REMAIN, to no
transaction (DESIGN CHOICE, log entry 104). -/
def Work.startRecall (w : Work) (g : Shared) (no : Nat) (line : Line) (st : DirSt) (row : Option Nat) (agents : List Nat)
    (kind : RecallKind) (fence : Option Nat) : Work :=
  let w := w.upd fun s => { s with
    rcl := s.rcl ++ [{ no := no, seq := s.seq, line := line, kind := kind, st := st, row := row, fence := fence }], seq := s.seq + 1, fv := s.fv + 1 }
  let w := w.journal 2 (if agents.length ≤ 3 then 2 else 6) no 0
  (w.charge g (g.ecost 15)).recallSnoops g no line agents (fun _ => if kind = .deadOwner then 3 else 4)

/-- A way is free: readable and in I, with nothing of the stencil unit or a collapse on it. -/
def Slice.freeWay (s : Slice) (g : Shared) (set v : Nat) : Bool :=
  (s.readC (entAddr set v)).1.usable &&
  (s.effEnt g set v).st == .i && (s.pendingOp set v).isNone && !s.collapses.any (fun c => c.set == set && c.way == v && !c.taken)

/-- A way for a new entry: a free way, lowest first, or a victim with a free recall entry (R76, R79); its NRU bit is set (R77).
`none` when the request must wait (R78). The victim's SnpRecalls go out here, before the messages of the decision that takes its way
(DESIGN CHOICE, log entry 78). -/
def Work.allocWay (w : Work) (g : Shared) (set : Nat) : Option (Work × Nat) :=
  match (List.range g.dirw).find? (w.sl.freeWay g set) with
  | some v => some (w.upd fun s => s.touch g set v, v)
  | none =>
    match w.sl.victim g set, w.sl.freeRecall with
    | some (v, clear), some no =>
      let w := if clear then w.upd fun s => { s with nru := tset 0 s.nru set 0 } else w
      let e := w.sl.readD (entAddr set v)
      let old := w.sl.effEnt g set v
      let line := w.sl.entLine g set v
      let row := if eForm e then some (eRow e) else none
      let w := (w.upd fun s => { s.storeD (entAddr set v) 0 with dcnt := bump 5 s.dcnt }).startRecall g no line
        old.st row old.holders .evict none
      some (w.upd fun s => s.touch g set v, v)
    | _, _ => none

/-- The line that a line step or a FILL step names. -/
def BWork.line? : BWork → Option Line
  | .line l => some l
  | .fill l _ => some l
  | .row _ | .repair => none

/-- A Burin step on the line began to wait undecided before the place `seq` in the order of admission (R461; for a FILL, R465, R90). -/
def Slice.stepAhead (s : Slice) (line : Line) (seq : Nat) : Bool :=
  s.bq.any fun b => b.work.line? == some line && (match b.since with | some k => decide (k ≤ seq) | none => false)

/-- A request waits under H1 ordering: for a busy line, behind a request that waits so (R153), or, in H1 mode itself, for any other live
tracker that is not behind it (R154). A far Atomic's queue aside, `rcl` holds the background trackers of decided line steps, and `bq` those
of steps that wait. -/
def Slice.orderWait (s : Slice) (t : Tracker) : Bool :=
  let others := s.trk.filter fun x => x.no != t.no && x.req.line == t.req.line
  others.any (fun x => x.h1 && (x.stat == .decided || x.stat == .compSent)) ||
  others.any (fun x => decide (x.seq < t.seq) && x.stat == .waiting .order) ||
  (t.h1 && (others.any (fun x => x.stat == .decided || x.stat == .compSent ||
      (decide (x.seq < t.seq) && (match x.stat with | .waiting _ => true | _ => false))) ||
    s.rcl.any (fun x => x.line == t.req.line && decide (x.no < 256)) || s.stepAhead t.req.line t.seq))

/-- Requests of a line that wait undecided for a busy line or a live tracker, counted once each (Table 6-3), whatever else they wait for. -/
def Work.countOrder (w : Work) (line : Line) : Work :=
  w.sl.trk.foldl (fun w t =>
    if t.req.line == line && (match t.stat with | .waiting _ => true | _ => false) && !t.counted.contains .order && w.sl.orderWait t then
      w.upd fun s => { s.setTrk t.no (fun x => { x with counted := .order :: x.counted }) with busy := s.busy + 1 }
    else w) w

/-- A request waits undecided: its entry frees (R229), and the wait is counted once by its kind (Tables 7-15 and 3-13; for Table 6-3,
`Work.countOrder`). -/
def Work.wait (w : Work) (t : Tracker) (why : WaitWhy) : Work :=
  let again := match w.sl.tracker t.no with | some x => x.counted.contains why | none => true
  let w := w.upd fun s => s.setTrk t.no fun x => { x with
    stat := .waiting why, counted := if again || why == .order then x.counted else why :: x.counted }
  let w := w.leaveEntry t.no
  if again then w else
    match why with
    | .way => w.upd fun s => { s with dcnt := bump 6 s.dcnt }
    | _ => w

/-- A tracker freed: its estimate is settled, never above the epoch's grant (R252). DONE has been journaled with the Comp. -/
def Work.finish (w : Work) (g : Shared) (no : Nat) : Work :=
  match w.sl.tracker no with
  | none => w
  | some t => (w.upd fun s => { s with trk := s.trk.filter (·.no != no) }).refund g (t.est - t.cost)

/-- A request answered and its tracker freed without a decision: Retry, Error or Cancelled. Its records die with a DONE (log entry 58). -/
def Work.drop (w : Work) (g : Shared) (t : Tracker) : Work := ((w.leaveEntry t.no).journal 5 1 t.no 0).finish g t.no

/-- The loss count of an admitted request that is answered with Retry goes on from the one before the admission: a port that was aged
stays aged (R139, R149), and no request loses more than six times (R150; DEDUCED, log entry 59). -/
def Work.keepLoss (w : Work) (t : Tracker) : Work :=
  w.upd fun s => s.updPort t.req.port fun p => { p with loss := if t.aged then 6 else Nat.max p.loss t.was.loss }

/-- An admitted request sent away with a Retry that is not counted. -/
def Work.sendAway (w : Work) (g : Shared) (t : Tracker) (backoff : Nat := 0) : Work :=
  ((w.retry g (some t.no) t.req backoff).keepLoss t).drop g t

/-- An admitted request sent away with a counted Retry (R144). -/
def Work.sendLoss (w : Work) (g : Shared) (t : Tracker) : Work := ((w.keepLoss t).retryCounted g (some t.no) t.req).drop g t

/-- The tracker can be freed at its Comp or acknowledgement (R116, R157), unless it holds the references of a collapse (R72). -/
def Slice.canFree (s : Slice) (t : Tracker) : Bool := !s.collapses.any (fun c => c.htx == t.no)

/-- Snoops to agent `a` for a line that R125 held back are sent. -/
def Work.releaseSnoops (w : Work) (g : Shared) (line : Line) (a : Nat) : Work :=
  if w.sl.holdSnoop line a 4096 then w else
  let go := fun (w : Work) (htx : Option Nat) (e : Exp) =>
    if e.held && e.kind != .mem && e.node == a && e.msg.line == line then w.send g htx e.msg else w
  let fix := fun (e : Exp) => if e.held && e.kind != .mem && e.node == a && e.msg.line == line then
      { e with held := false, sentAt := g.now } else e
  let w := w.sl.trk.foldl (fun w t => t.exp.foldl (fun w e => go w (some t.no) e) w) w
  let w := w.sl.rcl.foldl (fun w r => r.exp.foldl (fun w e => go w none e) w) w
  let w := w.sl.collapses.foldl (fun w c => c.exp.foldl (fun w e => go w (some c.htx) e) w) w
  w.upd fun s => { s with
    trk := s.trk.map fun t : Tracker => { t with exp := t.exp.map fix },
    rcl := s.rcl.map fun r : Recall => { r with exp := r.exp.map fix },
    collapses := s.collapses.map fun c : Collapse => { c with exp := c.exp.map fix } }

/-- A request whose Comp in H1 mode is acknowledged: a read or near Atomic with STATUS OK (R156). -/
def Tracker.wantsAck (t : Tracker) : Bool :=
  t.h1 && t.status == 0 &&
  match t.req.kind with
  | .rdShared | .rdUnique | .upgrade => true
  | .atomic => t.far.isNone
  | _ => false

/-- The one Comp of a transaction (R115, R116, R157, R195). -/
def Work.complete (w : Work) (g : Shared) (no : Nat) : Work :=
  match w.sl.tracker no with
  | none => w
  | some t =>
    if t.stat ≠ .decided ∨ !t.exp.isEmpty then w else
      let w := (w.journal 5 1 no 0).comp g (some no) t.req t.status t.grant t.poison (match t.unit with | some u => [u] | none => [])
      let w := w.upd fun s => s.setTrk no (fun x => { x with stat := .compSent, ackAt := g.now })
      let w := match t.leash with
        | some k => (w.journal 6 1 (288 + k) 0).upd fun s =>
            { s with lsh := s.lsh.map fun l : Leash => if l.no == k then { l with start := some g.now } else l }
        | none => w
      let w := w.releaseSnoops g t.req.line t.req.port
      if t.wantsAck && !(g.port t.req.port).dead then w
      else match w.sl.tracker no with
        | some x => if w.sl.canFree x then w.finish g no else w
        | none => w

/-- Watches of other agents whose granule contains the line (R187). -/
def Slice.watchers (s : Slice) (a : Nat) (line : Line) : List Watch :=
  s.wat.filter fun x => x.agent != a && x.first.toNat / 2 ^ x.gran == line.toNat / 2 ^ x.gran

/-- Watches killed by a decision: SnpResvKill to each watcher that the decision does not snoop otherwise, and
the watch removed in every slice by a message of the slice link (R187, R188). An agent with two such watches gets one SnpResvKill for
each (log entry 60). The kills go out after the messages that R114 orders (DESIGN CHOICE, log entry 78). -/
def Work.killWatches (w : Work) (g : Shared) (t : Tracker) (snooped : List Nat) : Work :=
  (w.sl.watchers t.req.port t.req.line).foldl (fun w x =>
    let w := if snooped.contains x.agent then w else
      let m := snp w.n 7 x.agent t.no t.req.pack x.first (fPut x.thread.toNat 0)
      (w.snoop g t .kill m false).upd fun s => { s with atmc := bump 4 s.atmc }
    (w.chargeT g (some t.no) (g.ecost 9)).emit (.delWatch x.agent x.thread)) w

/-- The predictor's ownership event (R173): the counter read, and whether the event is contended. -/
def Slice.ownEvent (s : Slice) (g : Shared) (r : Req) : Slice × Nat × Bool :=
  let i := predIndex (g.lp r.line)
  let p := tget {} s.pred i
  let now := BitVec.ofNat 12 (g.now / 4)
  let d := (now - p.stamp).toNat * 4
  let hot := decide (d < 2 * (g.pack r.pack.toNat).heelNs)
  let ctr := if hot then Nat.min (p.ctr + 1) 7 else p.ctr - 1
  ({ s with pred := tset {} s.pred i { ctr := ctr, stamp := now } }, p.ctr, hot)

/-- Before a forward to agent `a` for the line of `t`, each later request of that agent for the line that is admitted and undecided is
answered as R128 states: R160 lets no forward reach an agent whose admitted request in H1 mode is unanswered, and R128 keeps a request from
waiting on a forward that its agent defers (DEDUCED, log entry 48). -/
def Work.yieldWaiting (w : Work) (g : Shared) (t : Tracker) (a : Nat) : Work :=
  (w.sl.trk.filter fun x => x.no != t.no && x.req.line == t.req.line && decide (t.seq < x.seq) && x.req.port == a &&
      (match x.stat with | .waiting _ => true | .admitted => x.h1 | _ => false) &&
      (x.h1 || x.req.kind == .rdShared || x.req.kind == .rdUnique || x.req.kind == .upgrade)).foldl
    (fun w x => (w.upd fun s => { s with race := bump 2 s.race }).sendAway g x) w

/-- The width hint of a decision that sends `n` snoops and forwards (R250). -/
def Work.hintFor (w : Work) (g : Shared) (line : Line) (n : Nat) : Work :=
  let i := predIndex (g.lp line)
  let cl := if n = 0 then 0 else if n ≤ 4 then 1 else if n ≤ 64 then 2 else 3
  w.upd fun s => { s with hint := tset 0 s.hint i cl, parErr := s.parErr.filter (· != .hint i) }

/-- The SnpResvKill that a decision's transaction has sent. -/
def Slice.killsOf (s : Slice) (t : Tracker) : Nat :=
  match s.tracker t.no with | some x => (x.exp.filter (·.kind == .kill)).length | none => 0

/-- A decision carried out (R112 to R115): the entry written, the messages sent in the order of R114, the hint kept, and the Comp sent
when no answer is expected. `extra`: snoops of the decision that the caller sends. `way`: the way of the entry, none when no entry is
written. `memMsg`: the memory request, when the decision sends one. -/
def Work.carry (w : Work) (g : Shared) (t : Tracker) (set : Nat) (way : Option Nat) (p : Plan) (write : Bool)
    (memMsg : Option Msg) (kills : Bool) (extra : Nat := 0) : Work :=
  let r := t.req
  let w := w.journal 2 (if p.snoops ≤ 3 then 2 else 6) t.no 0
  let w := w.upd fun s => s.setTrk t.no fun x => { x with stat := .decided, status := p.status, grant := p.grant }
  let w := w.leaveEntry t.no
  let w := match way with
    | some v => if write then w.decideEnt g t.no t.seq (some r.port) r.line set v p.new else w
    | none => w
  let w := match p.fwd with
    | some (o, uniq, once) =>
      (w.yieldWaiting g t o).snoop g t .fwd (snp w.n (if uniq then 2 else 1) o t.no r.pack r.line (fwdF once r.port r.txid r.crit)) false
    | none => w
  let w := match memMsg with | some m => w.memReq g t m | none => w
  let targets := sortNat (p.invals ++ p.recl.toList)
  let w := targets.foldl (fun w a =>
    if p.recl = some a then w.snoop g t .recall (snp w.n 4 a t.no r.pack r.line) true
    else w.snoop g t .inval (snp w.n 3 a t.no r.pack r.line) true) w
  let w := if kills then w.killWatches g t p.snooped else w
  w.hintFor g r.line (p.snoops + extra + if kills then w.sl.killsOf t else 0)

end Sys2Proof.Machine
end

