-- ==== Sys2Proof/Machine/CensusCause.lean ====
section
/-! DEFINITION. Causes of census, marking and the job queue (R396, R406, R407, R411, R417). -/

namespace Sys2Proof.Machine

/-- Build slots a job reserves (R407). -/
def CenKind.slots (g : Shared) : CenKind → Nat
  | .line => 1
  | .set => g.dirw
  | .slice => 0

/-- KIND code of the census records (Table 16-3). -/
def CenKind.code : CenKind → Nat
  | .line => 0 | .set => 1 | .slice => 2

/-- Build slots in use. -/
def Slice.buildUsed (s : Slice) (g : Shared) : Nat := (s.jobs.map fun j => j.kind.slots g).sum

/-- A way marked P by job `slot`: a readable stencil form releases its reference to a VALID row, in the order of the stencil unit (R67),
and what the unit still had to write there is dropped (R411). A way being collapsed leaves the reference to its collapse (R72), which
then writes no entry there. A corrected way is counted (R386), and the entry written is charged UPDATE (R249). -/
def Work.markWay (w : Work) (g : Shared) (slot set way : Nat) (setw : Bool) (cjob : Nat) : Work :=
  let (c, e) := w.sl.readC (entAddr set way)
  let w := if c = .corrected then (w.charge g (g.ecost 12)).scrubFix (entAddr set way) else w
  let here := fun (c : Collapse) => c.set == set && c.way == way && !c.taken
  let w := if w.sl.collapses.any here then w.upd fun s => { s with
      collapses := s.collapses.map fun c : Collapse => if here c then { c with taken := true } else c }
    else w
  let frees := c.usable && eForm e && (eState e == 1 || eState e == 3) && decide (eRow e < g.rows) && !w.sl.collapses.any (fun c =>
    c.set == set && c.way == way && c.taken && c.oldRow == some (eRow e))
  let rel : List StnOp := if frees then [{ set := 0, way := 0, line := 0, new := { st := .i }, release := some (eRow e), htx := some (320 + slot) }] else []
  let gone := fun (o : StnOp) => o.set == set && o.way == way && o.updates
  let w := w.upd fun s => { s with stq := s.stq.filter (!gone ·) ++ rel, stwait := s.stwait.filter (!gone ·) }
  (w.charge g (g.ecost 1)).upd fun s => (s.storeD (entAddr set way) (pWord (if setw then 0 else eTag e) setw cjob)).cenWrote [entAddr set way]

/-- Leashes on entries of the set are cut (Table 13-10 step 2, R199). -/
def Work.cutLeash (w : Work) (g : Shared) (no : Nat) : Work :=
  match w.sl.lsh.find? (·.no == no) with
  | none => w
  | some l =>
    if l.cut.isSome then w else
      let m := snp w.n 8 l.agent (288 + no) (BitVec.ofNat 4 (g.port l.agent).packNo) l.line (if l.slot then 1 else 0)
      ((w.journal 6 1 (288 + no) 0).send g none m).upd fun s => { s with lsh := s.lsh.map fun x : Leash =>
        if x.no == no then { x with cut := some { kind := .inval, node := l.agent, msg := m, sentAt := g.now } } else x }

/-- A job takes a slot and marks its ways (Table 13-10 step 1): record, Bark source, and every leash on an entry of the set cut. The marking
claims one slot of the emergency requester (R411, R247). -/
def Work.startJob (w : Work) (g : Shared) (q : CenQueued) : Work :=
  match pick w.sl.fv (freeNos 0 8 (w.sl.jobs.map (·.slot))) with
  | none => w
  | some slot =>
    let w := (w.ledger 6 1 [put q.cjob.toNat 0 ||| put q.kind.code 12 ||| put q.set 16 ||| put q.way 32]).barkK 4
    let w := match q.kind with
      | .line => w.markWay g slot q.set q.way false q.cjob.toNat
      | .set => (List.range g.dirw).foldl (fun w v => w.markWay g slot q.set v true q.cjob.toNat) w
      | .slice => w
    let w := w.upd fun s => { s with
      fv := s.fv + 1, claim := s.claim + 1,
      jobs := s.jobs ++ [{ slot := slot, cjob := q.cjob, kind := q.kind, set := q.set, way := q.way, line := q.line,
                           step := 2, markSeq := s.seq }] }
    let w := w.journal 6 1 (320 + slot) 0
    (w.sl.lsh.filter fun l => lpSet (g.lp l.line) == q.set && q.kind != .slice).foldl (fun w l => w.cutLeash g l.no) w

/-- A slice census is caused (R407, R417 steps 1 and 2): every job and queued job is cancelled. -/
def Work.startSlice (w : Work) (g : Shared) : Work :=
  let c := w.sl.cjob
  let w := w.upd fun s => { s with
    cjob := s.cjob + 1, jobq := [], slcp := true, emergency := true,
    jobs := [{ slot := 0, cjob := c, kind := .slice, set := 0, way := 0, line := 0, step := 2, markSeq := s.seq }] }
  let w := ((w.ledger 6 1 [put c.toNat 0 ||| put 2 12]).barkK 4).journal 6 1 320 0
  w.sl.lsh.foldl (fun w l => w.cutLeash g l.no) w

/-- A census is caused (R407). Causes before step 6 of a slice census are dropped. A job starts at once only with a free background tracker,
one of which each of its steps holds (R260). -/
def Work.census (w : Work) (g : Shared) (kind : CenKind) (set way : Nat) (line : Line) : Work :=
  if w.sl.slcp && w.sl.jobs.any (fun j => j.kind == .slice && decide (j.step < 6)) then w
  else if kind = .slice then w.startSlice g
  else
    let q : CenQueued := { cjob := w.sl.cjob, kind := kind, set := set, way := way, line := line }
    if w.sl.jobs.length < 8 ∧ w.sl.jobq.isEmpty ∧ !w.sl.slcp ∧ w.sl.cenFree ∧ w.sl.buildUsed g + kind.slots g ≤ 128 then
      (w.upd fun s => { s with cjob := s.cjob + 1 }).startJob g q
    else if w.sl.jobq.length < 56 then
      w.upd fun s => { s with cjob := s.cjob + 1, jobq := s.jobq ++ [q] }
    else w.startSlice g

/-- A word found uncorrectable: counted, recorded, and noted as lost (R394). One that was lost before and has been rewritten since makes its
row weak (R398); when its bank has no spare left and census has rewritten it, the slice fails (R400), which the flag says. -/
def Work.lose (w : Work) (a : Nat) (scrub : Bool) : Work × Bool :=
  let w := w.ueRecord a scrub
  let bank := a / 32768
  let row := a % 32768 / 8
  let was := w.sl.lostWords.find? (·.1 == a)
  let again := was.any (·.2 != .no)
  let w := w.upd fun s => { s with lostWords := (a, .no) :: s.lostWords.filter (·.1 != a) }
  if again ∧ w.sl.exh.getLsbD bank then
    if was.any (·.2 == .census) then (w.emit .failSlice, true) else (w, false)
  else (w.upd fun s => if again && !s.repairDue.contains (bank, row) then { s with repairDue := s.repairDue ++ [(bank, row)] } else s, false)

/-- A word of a directory way that cannot be read: a set census (R394, Table 13-5). -/
def Work.lostDirWord (w : Work) (g : Shared) (a : Nat) (scrub : Bool) : Work :=
  match w.lose a scrub with
  | (w, true) => w
  | (w, false) => w.census g .set (a % 32768) 0 0

/-- The journal record whose entries include ring entry `e`, and whether it is live (R421, R423). -/
def Slice.recAt (s : Slice) (e : Nat) : Option (JRec × Bool) := go s.jrn
where
  /-- The record of a list that covers the entry. -/
  go : List JRec → Option (JRec × Bool)
    | [] => none
    | r :: l => if (e + 4096 - r.pos % 4096) % 4096 < r.nent then some (r, s.recLive r l) else go l

/-- A lost word of a held bank (Table 13-5): the owner of a live journal record is written again as a CHECKPT and the word is zeroed
(R426), a watch entry is that of every other slice, and a build slot's job restarts. -/
def Work.lostHeld (w : Work) (g : Shared) (a : Nat) : Work :=
  let w := w.upd fun s => s.putBack a 0
  let k := a % 32768
  if a / 32768 = 26 then
    match w.sl.recAt (k / 2) with
    | some (r, true) => w.journal 7 (if r.htx.toNat < 288 then 10 else 2) r.htx.toNat r.arg.toNat
    | _ => w
  else if a / 32768 = 29 then
    let owner := (w.sl.jobs.foldl (fun (x : Nat × Option Nat) j =>
      let n := x.1 + j.kind.slots g
      (n, x.2.or (if k / 9 < n then some j.slot else none))) (0, none)).2
    match owner with
    | some o => w.upd fun s => { s with jobs := s.jobs.map fun j : CenJob =>
        if j.slot == o && j.step == 4 then { j with step := 2, agents := [], recs := [] } else j }
    | none => w
  else w

/-- The free map shows row `r` as VALID, or cannot be used and then shows no row as free (R61, Table 13-4). -/
def Slice.rowInUse (s : Slice) (r : Nat) : Bool := s.used.contains r || !s.mapOk

/-- An uncorrectable or poisoned word found at WADDR `a`, by its bank (Table 13-5). Whether a row whose metadata cannot be read is VALID is
told by the free map (DEDUCED, log entry 79). -/
def Work.lostWord (w : Work) (g : Shared) (a : Nat) (scrub : Bool) : Work :=
  let bank := a / 32768
  let word := a % 32768
  let poisoned := (w.sl.readC a).1 == .poisoned
  let scr := decide (g.dirw + g.stnw ≤ bank) && decide (bank < 16)
  if poisoned && (scr || bank == 28) then w.upd fun s => { s with psnrd := satInc s.psnrd }
  else if bank < g.dirw then w.lostDirWord g a scrub
  else
    match w.lose a scrub with
    | (w, true) => w
    | (w, false) =>
    if scr || bank == 28 then
      (w.upd fun s => s.store a (poison72 (w.sl.fetch a).data a)).upd fun s =>
        { s with far := s.far.map fun f : FarReg => if bank == 28 && f.no == word / 8 then { f with poison := true } else f }
    else if bank < 16 ∨ (16 ≤ bank ∧ bank < 24) then
      let r := if bank < 16 then 8192 + (bank - g.dirw) * 4096 + word / 8 else (bank - 16) * 1024 + word / 8
      let (mc, m) := w.sl.readC (metaAddr r)
      let zero := fun (w : Work) => (List.range 8).foldl (fun w j => w.upd fun s => s.storeD (stnAddr g r j) 0) w
      if !mc.usable then (if w.sl.rowInUse r then w.census g .slice 0 0 0 else w.upd fun s => s.storeD a 0)
      else if !mValid m then w.upd fun s => s.storeD a 0
      else
        let (ec, e) := w.sl.readC (entAddr (mBset m) (mBway m))
        if mRefs m = 1 ∧ ec.usable ∧ eForm e ∧ (eState e = 1 ∨ eState e = 3) ∧ eRow e = r then
          let line := w.sl.entLine g (mBset m) (mBway m)
          let w := (zero w).upd fun s => s.setMeta r 0
          w.census g .line (mBset m) (mBway m) line
        else w.census g .slice 0 0 0
    else if bank = 24 then
      if w.sl.rowInUse word then w.census g .slice 0 0 0 else w.upd fun s => s.storeD a 0
    else if heldBank bank then w.lostHeld g a
    else w.upd fun s => s.storeD a 0

/-- Words read at use: a corrected one is written back and counted (R386), one that cannot be read is handled by its bank (R385, R394). -/
def Work.touchWords (w : Work) (g : Shared) (as : List Nat) : Work :=
  as.foldl (fun w a => match (w.sl.readC a).1 with
    | .clean => w
    | .corrected => w.scrubFix a
    | _ => w.lostWord g a false) w

/-- The same for words that background work reads: it also pays FIX for each corrected word (R386). -/
def Work.bgWords (w : Work) (g : Shared) (as : List Nat) (scrub : Bool := false) : Work :=
  as.foldl (fun w a => match (w.sl.readC a).1 with
    | .clean => w
    | .corrected => (w.charge g (g.ecost 12)).scrubFix a
    | _ => w.lostWord g a scrub) w

/-- The words that a transaction's or a task's operation reads, by the home TXID that issues it: those of background trackers and census
jobs, and 0xFFF of tasks without a transaction, are background work, and all others foreground (R260, R386). -/
def Work.opWords (w : Work) (g : Shared) (htx : Option Nat) (as : List Nat) : Work :=
  match htx with
  | some t => if (240 ≤ t ∧ t < 256) ∨ 320 ≤ t then w.bgWords g as else w.touchWords g as
  | none => w.touchWords g as

/-- Corrected words written back, and nothing else done (R386). -/
def Work.fixWords (w : Work) (as : List Nat) : Work := as.foldl Work.scrubFix w

/-- The metadata and row words that an entry's stencil form reads. -/
def stnWords (g : Shared) (e : Word) : List Nat :=
  if eForm e && (eState e == 1 || eState e == 3) && decide (eRow e < g.rows) then
    metaAddr (eRow e) :: (List.range 8).map (stnAddr g (eRow e))
  else []

/-- A stencil word of an entry that cannot be read. -/
def Slice.badStn (s : Slice) (g : Shared) (e : Word) : Option Nat := (stnWords g e).find? fun a => !(s.readC a).1.usable

end Sys2Proof.Machine
end

