-- ==== Sys2Proof/Machine/Decide.lean ====
section
/-! DEFINITION. From an admitted request to its decision: the checks in the order of R47, the Retries, the waits,
and the decision of each request type. -/

namespace Sys2Proof.Machine

/-- Table 2-2: the agent kinds from which each request is accepted. -/
def kindAllows (kind : Nat) : ReqKind → Bool
  | .rdShared | .rdUnique | .upgrade | .wrBack | .evictClean | .leashTake | .leashFree => kind == 1 || kind == 2
  | .resvWatch => kind == 1
  | .rdOnce | .wrFull | .wrPartial | .atomic | .stash | .barrier | .cancel => kind == 1 || kind == 2 || kind == 3

/-- Table 2-5: the read and write rights a request needs on its key. -/
def needs : ReqKind → Bool × Bool
  | .rdShared | .rdOnce | .resvWatch => (true, false)
  | .rdUnique | .upgrade | .atomic | .leashTake => (true, true)
  | .wrFull | .wrPartial | .stash => (false, true)
  | .wrBack | .evictClean | .leashFree | .barrier | .cancel => (false, false)

/-- Operand bytes of an Atomic. -/
def Req.opSize (r : Req) : Nat := 2 ^ (fld r.f 5 4 + 2)

/-- R169: OFF is a multiple of the size and Table 7-2 allows the operation at that size. -/
def Req.atomicOk (r : Req) : Bool :=
  fld r.f 11 6 % r.opSize == 0 && (decide (fld r.f 3 0 ≤ 1) || r.opSize != 16)

/-- Requests that may need memory whatever the entry holds (R31). -/
def needsMem : ReqKind → Bool
  | .evictClean | .leashFree | .resvWatch | .barrier | .cancel => false
  | _ => true

/-- What the checks of R47 find first. -/
inductive Chk where
  | pass
  | err (code : Nat)
  | window (code key win : Nat) (nowin : Bool)
  deriving DecidableEq, Repr

/-- A LeashTake of an agent that LEASH_STATE keeps from it (R194). -/
def Slice.leashBars (s : Slice) (g : Shared) (r : Req) : Bool :=
  (g.port r.port).leashLimit == 0 || s.lsh.any fun l => l.agent == r.port && (l.slot == r.f.getLsbD 0 || l.line == r.line)

/-- The checks of R47 in order, with ATOMIC_FORM, SCRATCH_OP and LEASH_STATE at their places (R169, R89, R194). -/
def Slice.check (s : Slice) (g : Shared) (r : Req) : Chk :=
  let p := g.port r.port
  if lpSlice (g.lp r.line) ≠ s.logical then .err 0x10
  else if !kindAllows p.kind r.kind then .err 0x11
  else if r.kind = .atomic ∧ !r.atomicOk then .err 0x16
  else
    let (nr, nw) := needs r.kind
    let win : Chk :=
      if nr || nw then
        match g.window r.pack.toNat r.line with
        | none => .window 0x12 0 0 true
        | some (i, x) => if (!nr || p.rd x.key) && (!nw || p.wr x.key) then .pass else .window 0x13 x.key i false
      else .pass
    match win with
    | .pass =>
      if g.isScratch r.line then
        if r.kind ≠ .rdOnce ∧ r.kind ≠ .wrFull ∧ r.kind ≠ .wrPartial ∧ r.kind ≠ .atomic then .err 0x15
        else if g.scrw ≤ g.scrWay r.line then .err 0x14 else .pass
      else if r.kind = .leashTake ∧ s.leashBars g r then .err 0x17
      else if needsMem r.kind && (g.target r.line).isNone then .err 0x14
      else .pass
    | c => c

/-- A request that a check refuses: its answer, record, Bark source and count (Table 2-9, R21, R25, R31). -/
def Work.refuse (w : Work) (g : Shared) (t : Tracker) (c : Chk) : Work :=
  let r := t.req
  match c with
  | .pass => w
  | .err code =>
    let w := if code = 0x10 ∨ code = 0x14 then w.ledger 1 code [reqWord r] else w
    (w.error g (some t.no) r code).drop g t
  | .window code key win nowin =>
    match r.intent with
    | 0 =>
      let w := (w.ledger 1 code [reqWord r ||| put key 56 ||| put win 60 ||| putB nowin 63]).emit (.bark (768 + r.pack.toNat))
      ((w.error g (some t.no) r code).emit (.deny r.pack.toNat 0)).drop g t
    | 1 => ((w.error g (some t.no) r code true).emit (.deny r.pack.toNat 1)).drop g t
    | _ => ((w.comp g (some t.no) r 1 0 false).emit (.deny r.pack.toNat 2)).drop g t

/-- What stands between an admitted request and its decision: a Retry (`drbk` to `loss`), or what is done with a request that is
accepted. -/
inductive Gate where
  | drbk
  | census (cause : Option (CenKind × Nat × Option Nat))
  | lost (a : Nat)
  | r128
  | chain
  | collapse
  | loss
  | recall
  | stale
  | wait (why : WaitWhy)
  | go
  deriving DecidableEq, Repr

/-- The request is answered with Retry, so that R47 does not check it (R36). -/
def Gate.retries : Gate → Bool
  | .drbk | .census _ | .lost _ | .r128 | .chain | .collapse | .loss => true
  | .recall | .stale | .wait _ | .go => false

/-- Trackers of the line that count in R144 before this one, and the waiting Burin steps (R461). A line step's tracker, once the step is
decided, is not counted: it sends no Comp (DESIGN CHOICE, log entry 100). -/
def Slice.liveCount (s : Slice) (t : Tracker) : Nat :=
  (if s.stepAhead t.req.line t.seq then 1 else 0) +
  (s.trk.filter fun x => x.no != t.no && x.req.line == t.req.line && decide (x.seq < t.seq) &&
    (match x.stat with | .waiting _ => true | .decided => true | _ => false)).length

/-- The offer conditions of a Stash (R222). -/
def Slice.offers (_s : Slice) (g : Shared) (r : Req) : Bool :=
  let p := g.port r.tgt
  p.caching && !p.absent && p.stash.getLsbD 0 && g.mode == .run &&
  (match g.window p.packNo r.line with | some (_, x) => p.rd x.key | none => false)

/-- Near or far (R171). -/
def Slice.goesFar (s : Slice) (g : Shared) (r : Req) (ctr : Nat) (pred : Bool) : Bool :=
  let hint := fld r.f 13 12
  let mode := fld s.atmCtl 1 0
  (g.port r.port).kind == 3 || g.isScratch r.line || hint == 2 || mode == 2 || s.far.any (·.line == r.line) ||
  (hint == 0 && mode == 0 && decide (fld s.atmCtl 6 4 ≤ ctr + fld s.atmCtl 9 8 * (if pred then 1 else 0)))

/-- The request needs a new entry: what its decision then leaves is not in I (Table 4-9). -/
def Slice.allocates (s : Slice) (g : Shared) (r : Req) : Bool :=
  (s.findWay g (g.lp r.line)).isNone &&
  match r.kind with
  | .rdShared | .rdUnique | .upgrade | .leashTake => true
  | .stash => s.offers g r
  | .atomic => !s.goesFar g r (s.ownEvent g r).2.1 false
  | _ => false

/-- The way that victim choice under R76 is about to evict for a request. -/
def Slice.evicts (s : Slice) (g : Shared) (r : Req) : Option Nat :=
  let set := lpSet (g.lp r.line)
  if !g.isScratch r.line && lpSlice (g.lp r.line) == s.logical && s.allocates g r && !(List.range g.dirw).any (s.freeWay g set) &&
    s.freeRecall.isSome then (s.victim g set).map (·.1) else none

/-- That way when its entry breaks Table 3-6 or its row cannot be read (R58, R396): the set, the way and the word lost. -/
def Slice.badVictim (s : Slice) (g : Shared) (r : Req) : Option (Nat × Nat × Option Nat) :=
  let set := lpSet (g.lp r.line)
  (s.evicts g r).bind fun v =>
    let e := s.readD (entAddr set v)
    match s.badStn g e with
    | some a => some (set, v, some a)
    | none => if s.entOk g (s.entLine g set v) e then none else some (set, v, none)

/-- The granule watch table is full for a ResvWatch that would install an entry of its own (R190). -/
def Slice.watchFull (s : Slice) (g : Shared) (r : Req) : Bool :=
  (g.pack r.pack.toNat).gran != 0 && !r.f.getLsbD 2 && decide (1024 ≤ s.wat.length) &&
  !s.wat.any fun x => x.agent == r.port && x.thread == BitVec.ofNat 2 (fld r.f 1 0)

/-- The watch installed earliest (R190). -/
def Slice.oldestWatch (s : Slice) : Option Watch :=
  s.wat.foldl (fun (b : Option Watch) x => match b with
    | none => some x
    | some y => if x.at_ < y.at_ then some x else some y) none

/-- The earliest watch may be evicted: it is older than 1 µs, or has reached that age while the ResvWatch waited for it (R190). -/
def Slice.watchOld (s : Slice) (g : Shared) (t : Tracker) : Bool :=
  match s.oldestWatch with
  | some x => decide (x.at_ + 1000 < g.now) || (t.stat != .admitted && decide (x.at_ + 1000 ≤ g.now))
  | none => true

/-- A table that the request needs is full: a Retry that counts, or a wait of an aged request (R190, R194). -/
def Slice.tableGate (s : Slice) (g : Shared) (t : Tracker) : Gate :=
  let full := fun (why : WaitWhy) => if t.aged then Gate.wait why else .loss
  match t.req.kind with
  | .leashTake => if (freeNos 0 32 (s.lsh.map (·.no))).isEmpty then full .leashTable else .go
  | .resvWatch => if s.watchFull g t.req && !s.watchOld g t then full .watchAge else .go
  | _ => .go

/-- What the lookup of a directory line finds wrong in its set, its entry or its row: a set or entry under census or lost (R58,
R139, R394, R396), or `go`. -/
def Slice.wordGate (s : Slice) (g : Shared) (line : Line) : Gate :=
  let lp := g.lp line
  let set := lpSet lp
  match s.badWay g set with
  | some a => .census (some (.set, a, none))
  | none =>
    if (List.range g.dirw).any (fun v => let e := s.readD (entAddr set v); eState e == 5 && eSetw e) then .census none
    else if lpSlice lp ≠ s.logical then .go
    else
      match s.findWay g lp with
      | none =>
        match (List.range g.dirw).find? fun v =>
            let e := s.readD (entAddr set v); (s.pendingOp set v).isNone && eState e == 0 && e != 0 && eTag e == lpTag lp with
        | some v => .census (some (.line, set, some v))
        | none => .go
      | some v =>
        let e := s.readD (entAddr set v)
        if (s.pendingOp set v).isSome then .go
        else match s.badStn g e with
          | some a => .lost a
          | none =>
            if !s.entOk g line e then .census (some (.line, set, some v))
            else if eState e == 5 then .census none else .go

/-- The line's holder set as the request's lookup finds it; none of a scratch line, or of a line of another slice. -/
def Slice.cur (s : Slice) (g : Shared) (r : Req) : EntNew :=
  if g.isScratch r.line || lpSlice (g.lp r.line) != s.logical then { st := .i } else
    match s.findWay g (g.lp r.line) with | some v => s.effEnt g (lpSet (g.lp r.line)) v | none => { st := .i }

/-- The request is for a line in L and is not its holder's LeashFree (R193). -/
def Slice.leashed (s : Slice) (g : Shared) (r : Req) : Bool :=
  (s.cur g r).st == .l && !(r.kind == .leashFree && (s.cur g r).owner == r.port)

/-- The waits of a request by the state of its line: a leash (R193), the order of the line (R112, R153, R154, R461) and an
outstanding SnpStash (R223). The holder's LeashFree waits for no leash. -/
def Slice.lineGate (s : Slice) (g : Shared) (t : Tracker) : Gate :=
  let r := t.req
  let others := s.trk.filter fun x => x.no != t.no && x.req.line == r.line
  let cur := s.cur g r
  let live := others.any (fun x => x.stat == .decided || x.stat == .compSent) ||
    s.rcl.any (fun x => x.line == r.line && decide (x.no < 256))
  let frees := cur.st == .l && r.kind == .leashFree && cur.owner == r.port
  let earlier := others.filter fun x => decide (x.seq < t.seq) && (match x.stat with | .waiting _ => true | _ => false)
  if s.leashed g r then .wait .leash
  else if others.any (fun x => x.h1 && (x.stat == .decided || x.stat == .compSent)) || (t.h1 && live) then .wait .order
  else if !frees && s.orderWait t then .wait .order
  else if !frees && (!earlier.isEmpty || s.stepAhead r.line t.seq) then .wait .line
  else if others.any (fun x => x.offered && x.exp.any (·.kind == .stash)) then .wait .line
  else if r.kind == .stash && s.offers g r && live then .wait .line
  else .go

/-- What the lookup of an admitted request meets before a victim is looked at, first of: a slice census (R417), a set, entry or row under
census or lost, R128, the chain cap (R144), a collapse (R73), the recall buffer (R81, R131), the waits of its line, and a full table (R190,
R194). -/
def Slice.gateLine (s : Slice) (g : Shared) (t : Tracker) : Gate :=
  let r := t.req
  let first := t.stat == .admitted
  let scr := g.isScratch r.line
  if s.slcp then .drbk
  else
    match (if scr then .go else s.wordGate g r.line) with
    | .go =>
      if first && (r.kind == .rdShared || r.kind == .rdUnique || r.kind == .upgrade) &&
          s.trk.any (fun x => x.no != t.no && x.req.line == r.line && decide (x.seq < t.seq) &&
            x.exp.any fun e => e.kind == .fwd && e.node == r.port) then .r128
      else if 8 ≤ s.liveCount t then (if t.aged || !first then .wait .chain else .chain)
      else if !scr && s.collapses.any (·.line == r.line) then (if t.aged then .wait .collapse else .collapse)
      else if !scr && s.recalling r.line then
        if r.kind = .wrBack ∨ r.kind = .evictClean then .stale else .recall
      else
        match s.lineGate g t with
        | .go => s.tableGate g t
        | x => x
    | x => x

/-- What the lookup of an admitted request meets, a victim that cannot be evicted last (R58, R396). -/
def Slice.gate (s : Slice) (g : Shared) (t : Tracker) : Gate :=
  match s.gateLine g t with
  | .go =>
    match s.badVictim g t.req with
    | none => .go
    | some (_, _, some a) => .lost a
    | some (set, v, none) => .census (some (.line, set, some v))
  | x => x

/-- POISON received with data (R121, R123): counted, recorded, Bark source raised. The answer to a recall has no requester and no
request type: AGENT and CMD of its record are 0 (DESIGN CHOICE, log entry 61). -/
def Work.poisoned (w : Work) (t : Option Req) (line : Line) (path from_ : Nat) : Work :=
  let (a, c) := match t with | some r => (r.port, r.kind.cmd.toNat) | none => (0, 0)
  (((w.upd fun s => { s with psn := s.psn + 1 }).ledger 3 1
    [put line.toNat 0 ||| put a 42 ||| put c 51 ||| put path 56, put from_ 0]).barkK 0)

/-- Word address of word k of the 64 bytes of a scratch line (R86). -/
def scrAddr (g : Shared) (line : Line) (k : Nat) : Nat :=
  bankAddr (g.dirw + g.stnw + g.scrWay line) (8 * g.scrSlot line + k)

/-- The 64 bytes of eight consecutive words, and whether any is poisoned. -/
def Slice.readLine (s : Slice) (a : Nat) : BitVec 512 × Bool :=
  (List.range 8).foldl (fun (v, p) k =>
    let (c, d) := s.readC (a + k)
    (v ||| (d.setWidth 512 <<< (64 * k)), p || c == .poisoned)) (0, false)

/-- The 64 bytes of a line written to eight consecutive words. -/
def Slice.writeLine (s : Slice) (a : Nat) (v : BitVec 512) (poison : Bool) : Slice :=
  (List.range 8).foldl (fun s k =>
    let d := (v >>> (64 * k)).setWidth 64
    s.store (a + k) (if poison then poison72 d (a + k) else encode72 d (a + k))) s

/-- The line that four data units carry, chunks in the order from `crit` (R101). -/
def lineOfUnits (u : List Unit128) (crit : Nat) : BitVec 512 :=
  (u.zipIdx.map fun (x, i) => (x.setWidth 512) <<< (128 * ((crit + i) % 4))).foldl (· ||| ·) 0

/-- The four data units of a line, chunks in the order from `crit` (R101). -/
def unitsOfLine (v : BitVec 512) (crit : Nat) : List Unit128 :=
  (List.range 4).map fun i => (v >>> (128 * ((crit + i) % 4))).setWidth 128

/-- A byte-enable mask as a mask of the line's bits (R118). -/
def beMask (be : BitVec 64) : BitVec 512 :=
  (List.range 64).foldl (fun m b => if be.getLsbD b then m ||| (0xFF#512 <<< (8 * b)) else m) 0

/-- `old` with the enabled bytes of `new` (R118). -/
def mergeLine (old new : BitVec 512) (be : BitVec 64) : BitVec 512 :=
  (old &&& ~~~(beMask be)) ||| (new &&& beMask be)

/-- The operands A and C of an Atomic (R168, Table 7-3). -/
def Req.operands (r : Req) : Nat × Nat :=
  let u0 := (r.data.headD 0).toNat
  let u1 := (r.data.getD 1 0).toNat
  let n := r.opSize
  if fld r.f 3 0 = 1 then
    if n = 16 then (u1, u0) else (u0 / 2 ^ 64 % 2 ^ (8 * n), u0 % 2 ^ (8 * n))
  else (u0 % 2 ^ (8 * n), 0)

/-- A value of `k` bits as a signed number. -/
def signed (k v : Nat) : Int := if v < 2 ^ (k - 1) then v else (v : Int) - 2 ^ k

/-- The new value of an atomic operation of `k` bits (R167, Table 7-2). -/
def atomicOp (op k v a c : Nat) : Nat :=
  match op with
  | 0 => a
  | 1 => if v = c then a else v
  | 2 => (v + a) % 2 ^ k
  | 3 => v &&& (2 ^ k - 1 - a)
  | 4 => v ||| a
  | 5 => v ^^^ a
  | 6 => if signed k a < signed k v then v else a
  | 7 => if signed k v < signed k a then v else a
  | 8 => Nat.max v a
  | _ => Nat.min v a

/-- An atomic performed on a line: the new line and V (R167). -/
def Req.performAtomic (r : Req) (line : BitVec 512) : BitVec 512 × Unit128 :=
  let n := r.opSize
  let off := fld r.f 11 6
  let v := line.toNat / 2 ^ (8 * off) % 2 ^ (8 * n)
  let (a, c) := r.operands
  let x := atomicOp (fld r.f 3 0) (8 * n) v a c
  let m : BitVec 512 := BitVec.ofNat 512 ((2 ^ (8 * n) - 1) * 2 ^ (8 * off))
  ((line &&& ~~~m) ||| (BitVec.ofNat 512 (x * 2 ^ (8 * off)) &&& m), BitVec.ofNat 128 v)

/-- The entry of a line as the decision sees it: its way and holder set. -/
def Slice.entryOf (s : Slice) (g : Shared) (line : Line) : Option Nat × EntNew :=
  match s.findWay g (g.lp line) with
  | some v => (some v, s.effEnt g (lpSet (g.lp line)) v)
  | none => (none, { st := .i })

/-- A change of a far register journaled, as a table entry with its home TXID (DESIGN CHOICE, log entry 58). -/
def Work.farLog (w : Work) (f : Nat) : Work := w.journal 6 1 (328 + f) 0

/-- A far register's write-back begun, when its queue is empty (R179): MemWr with the home TXID 328 + f, PACK 0, held while R113
keeps it back. -/
def Work.farWriteBack (w : Work) (g : Shared) (f : Nat) : Work :=
  match w.sl.far.find? (·.no == f) with
  | none => w
  | some x =>
    if x.wb.isSome then w
    else if !x.valid ∨ !x.queue.isEmpty then
      w.upd fun s => { s with far := s.far.map fun y : FarReg => if y.no == f then { y with wbWanted := true } else y }
    else
      let w := w.touchWords g ((List.range 8).map fun j => bankAddr 28 (8 * f + j))
      let (v, p) := w.sl.readLine (bankAddr 28 (8 * f))
      match g.target x.line with
      | none => (w.farLog f).upd fun s => { s with far := s.far.filter (·.no != f) }
      | some t =>
        let m := memWr w.n t (328 + f) 0 x.line beAll (unitsOfLine v 0) (p || x.poison)
        let held := !w.sl.memFree x.line x.seq true
        let w := w.farLog f
        (if held then w else w.send g none m).upd fun s => { s with
          atmc := bump 3 s.atmc,
          far := s.far.map fun y : FarReg => if y.no == f then
            { y with wb := some { kind := .mem, node := m.dst.toNat, msg := m, held := held, sentAt := g.now } } else y }

/-- A decision other than a far Atomic on a line in a far register starts its write-back (R179). -/
def Work.flushFar (w : Work) (g : Shared) (line : Line) : Work :=
  match w.sl.far.find? (·.line == line) with
  | some f => w.farWriteBack g f.no
  | none => w

/-- The memory request of a plan (R113). -/
def memMsgOf (n : Nat) (g : Shared) (t : Tracker) (p : Plan) : Option Msg :=
  let r := t.req
  match p.mem, g.target r.line with
  | .read gr, some m => some (memRd n m t.no r.pack r.line true r.port r.txid gr r.crit)
  | .farRead, some m => some (memRd n m t.no r.pack r.line false (sliceNode n) r.txid 0 r.crit)
  | .write, some m => some (memWr n m t.no r.pack r.line (if r.kind = .wrPartial then r.be else beAll) r.data r.poison)
  | _, _ => none

/-- A decision on a directory line: the recorded-holder case of R582, a way when one is needed, and the plan
carried out. `mk` gives the plan from the holder set the decision is made against; `pre` is done once the decision is made. -/
def Work.decideLine (w : Work) (g : Shared) (t : Tracker) (far : Bool) (mk : EntNew → Plan) (kills : Bool)
    (pre : Slice → Slice := id) : Work :=
  let r := t.req
  let set := lpSet (g.lp r.line)
  let (way, e0) := w.sl.entryOf g r.line
  let bad := unlisted r.kind far e0 r.port
  let e := if bad then e0.without r.port else e0
  let p := mk e
  let alloc : Option (Work × Option Nat) :=
    match way with
    | some v => some (w, some v)
    | none => if p.new.canon.st == .i then some (w, none) else (w.allocWay g set).map fun x => (x.1, some x.2)
  match alloc with
  | none => w.wait t .way
  | some (w, v) =>
    let w := (if bad then w.ledger 2 0x10 [reqWord r] else w).upd pre
    let w := if far then w else w.flushFar g r.line
    let w := w.carry g t set v p (p.new != e0 || way.isNone) (memMsgOf w.n g t p) kills
    w.complete g t.no

/-- A scratch line's request: applied to its words at once (R89, R90). -/
def Work.decideScratch (w : Work) (g : Shared) (t : Tracker) : Work :=
  let r := t.req
  let a := scrAddr g r.line 0
  let w := w.touchWords g ((List.range 8).map (a + ·))
  let (v, p) := w.sl.readLine a
  let w := (w.journal 2 2 t.no 0).leaveEntry t.no
  let w := w.upd fun s => s.setTrk t.no fun x => { x with stat := .decided, far := if r.kind == .atomic then some 8 else none }
  let kill := fun (w : Work) => w.killWatches g t []
  let w := match r.kind with
    | .rdOnce => (w.send g (some t.no) {
        cls := clsDat, cmd := 2, src := BitVec.ofNat 10 (sliceNode w.n), dst := BitVec.ofNat 10 r.port, txid := r.txid,
        pack := r.pack, line := r.line, f := fPut r.crit 26 ||| (if p then fPut 1 17 else 0), units := unitsOfLine v r.crit })
    | .wrFull => kill (w.upd fun s => s.writeLine a (lineOfUnits r.data 0) r.poison)
    | .wrPartial => kill ((w.chargeT g (some t.no) (g.ecost 7)).upd fun s =>
        let m := mergeLine v (lineOfUnits r.data 0) r.be
        s.writeLine a m ((p && r.be != beAll) || r.poison))
    | .atomic =>
      let w := (w.chargeT g (some t.no) (g.ecost 8)).upd fun s => { s with atmc := bump 1 s.atmc }
      let w := w.upd fun s => (s.ownEvent g r).1
      if p then kill ((w.poisoned (some r) r.line 0 (sliceNode w.n)).upd fun s =>
        s.setTrk t.no fun x => { x with unit := some 0, poison := true })
      else
        let (nv, u) := r.performAtomic v
        kill (w.upd fun s => (s.writeLine a nv false).setTrk t.no fun x => { x with unit := some u })
    | _ => w
  (w.hintFor g r.line (w.sl.killsOf t)).complete g t.no

/-- A far Atomic on a directory line (R176): a far register is taken, or the Atomic waits for one, and the register whose last atomic is
oldest is written back, unless its write-back is under way (R179). -/
def Work.decideFar (w : Work) (g : Shared) (t : Tracker) : Work :=
  let r := t.req
  match w.sl.far.find? (·.line == r.line) with
  | some f =>
    if f.wb.isSome ∨ f.wbWanted then w.wait t .farReg
    else
      let w := w.upd fun s => { (s.ownEvent g r).1 with
        far := s.far.map fun x : FarReg => if x.no == f.no then
          { x with queue := x.queue ++ [t.no], idle := 0, last := g.now } else x }
      let w := w.upd fun s => s.setTrk t.no fun x => { x with far := some f.no }
      let t := { t with far := some f.no }
      let w := (w.carry g t (lpSet (g.lp r.line)) none { new := { st := .i } } false none true).farLog f.no
      w.upd fun s => s.setTrk t.no fun x => { x with exp := x.exp ++ [{ kind := .data, node := 0, msg := default0 }] }
  | none =>
    match pick w.sl.fv (freeNos 0 8 (w.sl.far.map (·.no))) with
    | none =>
      let oldest := w.sl.far.foldl (fun (b : Option FarReg) x => match b with
        | none => some x
        | some y => if x.last < y.last then some x else some y) none
      let w := w.wait t .farReg
      match oldest with
      | some x => w.farWriteBack g x.no
      | none => w
    | some f =>
      let w := w.upd fun s => { (s.ownEvent g r).1 with
        fv := s.fv + 1, atmc := bump 1 s.atmc,
        far := s.far ++ [{ no := f, line := r.line, last := g.now, queue := [t.no], seq := t.seq }] }
      let w := w.upd fun s => s.setTrk t.no fun x => { x with far := some f }
      let t := { t with far := some f }
      let (way, e0) := w.sl.entryOf g r.line
      let bad := unlisted r.kind true e0 r.port
      let e := if bad then e0.without r.port else e0
      let p := planFar e r.port false
      let w := if bad then w.ledger 2 0x10 [reqWord r] else w
      let w := (w.carry g t (lpSet (g.lp r.line)) way p way.isSome (memMsgOf w.n g t p) true).farLog f
      w.upd fun s => s.setTrk t.no fun x => { x with exp := x.exp ++ [{ kind := .data, node := 0, msg := default0 }] }
where
  /-- A placeholder for an expectation that no message carries: the merge unit's turn (R177). -/
  default0 : Msg := { cls := 0, cmd := 0, src := 0, dst := 0, txid := 0, pack := 0, line := 0 }

/-- A leash table entry taken by a LeashTake (R192). LEASH_STATE is checked again at the decision, since another LeashTake of the
agent may have been decided while this one waited (R194). -/
def Work.decideLeash (w : Work) (g : Shared) (t : Tracker) : Work :=
  let r := t.req
  if w.sl.leashBars g r then w.refuse g t (.err 0x17) else
  match pick w.sl.fv (freeNos 0 32 (w.sl.lsh.map (·.no))) with
  | none => w.wait t .leashTable
  | some i =>
    let (way, e) := w.sl.entryOf g r.line
    let (s', _, hot) := w.sl.ownEvent g r
    let pred := e.pred || (hot && way.isSome)
    match (if way.isSome then some w else (w.allocWay g (lpSet (g.lp r.line))).map (·.1)) with
    | none => w.wait t .way
    | some _ =>
      let w := w.upd fun s => { s with pred := s'.pred, fv := s.fv + 1, lsh := s.lsh ++
        [{ no := i, agent := r.port, slot := r.f.getLsbD 0, line := r.line, limit := (g.port r.port).leashLimit * 250 }] }
      let w := w.upd fun s => s.setTrk t.no fun x => { x with leash := some i }
      ((w.journal 6 1 (288 + i) 0).decideLine g { t with leash := some i } false
        (fun e => planLeashTake e r.port pred i) true)

/-- LeashFree (Table 7-6): the leash of the same SLOT is freed; one that a LeashCut has crossed, and any other, gets STALE (R197). -/
def Work.decideLeashFree (w : Work) (g : Shared) (t : Tracker) : Work :=
  let r := t.req
  let (_, e) := w.sl.entryOf g r.line
  match (if e.st == .l then w.sl.lsh.find? (fun l => l.no == e.leash && l.agent == r.port && l.slot == r.f.getLsbD 0 && l.cut.isNone)
      else none) with
  | some l =>
    let w := w.upd fun s => { s with lsh := s.lsh.filter (·.no != l.no) }
    (w.journal 6 1 (288 + l.no) 0).decideLine g t false (fun e => { new := EntNew.x e.owner e.pred }) false
  | none => w.decideLine g t false (fun e => { new := e, status := 3 }) false

/-- ResvWatch (R184 to R186, R190); like every decision but a far Atomic it sends a far register's line back (R179). -/
def Work.decideWatch (w : Work) (g : Shared) (t : Tracker) : Work :=
  let r := t.req
  let gran := (g.pack r.pack.toNat).gran
  let th : BitVec 2 := BitVec.ofNat 2 (fld r.f 1 0)
  let w := w.flushFar g r.line
  let w := (w.journal 2 2 t.no 0).leaveEntry t.no
  if gran = 0 then
    ((w.upd fun s => s.setTrk t.no fun x => { x with stat := .decided }).hintFor g r.line 0).complete g t.no
  else
    let evict := if w.sl.watchFull g r then w.sl.oldestWatch else none
    let w := w.upd fun s => s.setTrk t.no fun x => { x with stat := .decided, exp := [{ kind := .data, node := 1, msg := default0 }] }
    let w := match evict with
      | some x =>
        let m := snp w.n 7 x.agent t.no r.pack x.first (fPut x.thread.toNat 0)
        (((w.snoop g t .kill m false).upd fun s => { s with atmc := bump 5 (bump 4 s.atmc) }).chargeT g (some t.no) (g.ecost 9)).emit
          (.delWatch x.agent x.thread)
      | none => w
    let w := (w.hintFor g r.line (w.sl.killsOf t)).emit (.delWatch r.port th)
    let w := w.chargeT g (some t.no) (g.ecost 9)
    if r.f.getLsbD 2 then w
    else w.emit (.addWatch { agent := r.port, thread := th, gran := gran, at_ := g.now,
                             first := BitVec.ofNat 42 (r.line.toNat / 2 ^ gran * 2 ^ gran) })
where
  /-- A placeholder for an expectation that no message carries: the slice link's installs (R186). -/
  default0 : Msg := { cls := 0, cmd := 0, src := 0, dst := 0, txid := 0, pack := 0, line := 0 }

/-- A Stash (R222, R223): offered, or decided as WrFull with DECLINED. The SnpStash goes out after the messages that R114 orders (DESIGN
CHOICE, log entry 78). -/
def Work.decideStash (w : Work) (g : Shared) (t : Tracker) : Work :=
  let r := t.req
  if w.sl.offers g r then
    let set := lpSet (g.lp r.line)
    let (way, e) := w.sl.entryOf g r.line
    match (match way with | some v => some (w, v) | none => w.allocWay g set) with
    | none => w.wait t .way
    | some (w, v) =>
      let p := planStash e r.port r.tgt
      let w := w.flushFar g r.line
      let w := w.upd fun s => s.setTrk t.no fun x => { x with offered := true }
      let w := w.upd fun s => { s with stashLast := (t.no, r.tgt, r.line, g.now) :: s.stashLast.filter fun x => decide (g.now < x.2.2.2 + 2000) }
      let w := w.carry g { t with offered := true } set (some v) p true none false
      let m := snp w.n 6 r.tgt t.no r.pack r.line (fPut 4 3 ||| (if r.poison then fPut 1 17 else 0)) r.data
      let w := w.snoop g t .stash m false
      let w := w.killWatches g t (r.tgt :: p.snooped)
      (w.hintFor g r.line (p.snoops + 1 + w.sl.killsOf t)).complete g t.no
  else
    let p := g.port r.tgt
    let w := if !p.caching || p.absent then w.emit (.deny r.pack.toNat 4)
      else match g.window p.packNo r.line with
        | some (_, x) => if p.rd x.key then w else w.emit (.deny p.packNo 3)
        | none => w.emit (.deny p.packNo 3)
    let w := w.upd fun s => { s with sync := bump 5 s.sync }
    w.decideLine g t false (fun e => { planWrFull e with status := 2 }) true

/-- The decision of a request for which nothing stands in the way. -/
def Work.decideGo (w : Work) (g : Shared) (t : Tracker) : Work :=
  let r := t.req
  if g.isScratch r.line then w.decideScratch g t
  else
  let (way, e) := w.sl.entryOf g r.line
  let own := fun (s : Slice) => match s.ownEvent g r with | (s', _, _) => { s with pred := s'.pred }
  let hot := (w.sl.ownEvent g r).2.2
  let pred := e.pred || (hot && way.isSome)
  match r.kind with
  | .rdShared => w.decideLine g t false (planRdShared · r.port) false
  | .rdUnique => w.decideLine g t false (planRdUnique · r.port pred) true own
  | .upgrade => w.decideLine g t false (planUpgrade · r.port pred) true own
  | .rdOnce => w.decideLine g t false planRdOnce false
  | .wrBack =>
    let w := if r.poison then w.poisoned (some r) r.line 3 r.port else w
    let w := if r.poison then w.upd fun s => s.setTrk t.no fun x => { x with poison := true } else w
    w.decideLine g { t with poison := r.poison } false (planWrBack · r.port) false
  | .evictClean => w.decideLine g t false (planEvictClean · r.port) false
  | .wrFull => w.decideLine g t false planWrFull true
  | .wrPartial => w.decideLine g t false planWrPartial true
  | .stash => w.decideStash g t
  | .atomic =>
    let (_, ctr, _) := w.sl.ownEvent g r
    if w.sl.goesFar g r ctr e.pred then w.decideFar g t
    else w.decideLine g t false (planNear · r.port pred) true fun s => let s := own s; { s with atmc := bump 0 s.atmc }
  | .leashTake => w.decideLeash g t
  | .leashFree => w.decideLeashFree g t
  | .resvWatch => w.decideWatch g t
  | .barrier | .cancel => w

/-- A departure of a line in the recall buffer (R131): Comp STALE at once. -/
def Work.decideStale (w : Work) (g : Shared) (t : Tracker) : Work :=
  let w := if t.req.poison && t.req.kind == .wrBack then w.poisoned (some t.req) t.req.line 3 t.req.port else w
  let w := ((w.journal 2 2 t.no 0).leaveEntry t.no).hintFor g t.req.line 0
  (w.upd fun s => s.setTrk t.no fun x => { x with
    stat := .decided, status := 3, poison := t.req.poison && t.req.kind == .wrBack }).complete g t.no

/-- The words that the lookup of a line reads: every directory way of its set, and its own entry's row (R396). -/
def Slice.lookupWords (s : Slice) (g : Shared) (line : Line) : List Nat :=
  let set := lpSet (g.lp line)
  (List.range g.dirw).map (entAddr set) ++
  match s.findWay g (g.lp line) with
  | some v => stnWords g (s.readD (entAddr set v))
  | none => []

/-- The decision makes an ownership event, which reads the contention predictor (R173). -/
def ReqKind.owns : ReqKind → Bool
  | .rdUnique | .upgrade | .atomic | .leashTake => true
  | _ => false

/-- The control state and the words that the lookup reads, with those of a victim it is about to take: parity errors met (Table 13-4) and
corrected words written back (R386). -/
def Work.lookup (w : Work) (g : Shared) (t : Tracker) : Work :=
  let r := t.req
  let w := if r.kind.owns then w.upd fun s => s.parity (.pred (predIndex (g.lp r.line))) else w
  if g.isScratch r.line then w
  else
    let w := (w.upd fun s => s.parity (.nru (lpSet (g.lp r.line)))).fixWords (w.sl.lookupWords g r.line)
    match w.sl.gateLine g t, w.sl.evicts g r with
    | .go, some v => w.fixWords (stnWords g (w.sl.readD (entAddr (lpSet (g.lp r.line)) v)))
    | _, _ => w

/-- A request that waits on a line in L is counted once (Table 7-15, 7), whatever else it waits for. -/
def Work.leashWait (w : Work) (g : Shared) (t : Tracker) : Work :=
  match w.sl.tracker t.no with
  | some x => if w.sl.leashed g t.req && !x.counted.contains .leash then
      w.upd fun s => { s.setTrk t.no (fun x => { x with counted := .leash :: x.counted }) with atmc := bump 7 s.atmc } else w
  | none => w

/-- A lookup that finds the line sets the way's NRU bit (R77); one that meets an unreadable way of the set finds nothing (R396). -/
def Work.found (w : Work) (g : Shared) (r : Req) (x : Gate) : Work :=
  let bad := match x with | .drbk => true | .census (some (.set, _, _)) => true | _ => false
  if bad || g.isScratch r.line || lpSlice (g.lp r.line) != w.sl.logical then w
  else match w.sl.findWay g (g.lp r.line) with
    | some v => w.upd fun s => s.touch g (lpSet (g.lp r.line)) v
    | none => w

/-- A request answered with Retry (Table 5-7), with the census that its lookup caused. -/
def Work.turnAway (w : Work) (g : Shared) (t : Tracker) (x : Gate) : Work :=
  match x with
  | .drbk => (w.upd fun s => { s with adm := bump 5 s.adm }).sendAway g t (if g.settle then 0 else g.drbk)
  | .lost a => (w.lostWord g a false).sendAway g t
  | .census cause =>
    (match cause with
      | some (.set, a, _) => w.lostDirWord g a false
      | some (_, set, some v) => (w.upd fun s => { s with dcnt := bump 7 s.dcnt }).census g .line set v (w.sl.entLine g set v)
      | _ => w).sendAway g t
  | .r128 => (w.upd fun s => { s with race := bump 2 s.race }).sendAway g t
  | .chain => (w.upd fun s => { s with race := bump 1 s.race }).sendLoss g t
  | .collapse | .loss => w.sendLoss g t
  | .recall | .stale | .wait _ | .go => w

/-- The decision of tracker `t`, newly admitted or waiting (R36, R47, R110): retried, refused by a check at its admission, waiting, or
decided. -/
def Work.decideReq (w : Work) (g : Shared) (t : Tracker) : Work :=
  let w := w.lookup g t
  let x := w.sl.gate g t
  let w := w.found g t.req x
  let w := if x.retries then w.turnAway g t x
    else
      let c := if t.stat = .admitted then w.sl.check g t.req else .pass
      if c ≠ .pass then w.refuse g t c
      else match x with
        | .recall => w.wait t .recall
        | .stale => w.decideStale g t
        | .wait why => (w.leashWait g t).wait t why
        | _ => w.decideGo g t
  w.countOrder t.req.line

/-- The tracker's request still waits for its first decision or to be decided. -/
def Tracker.undecided (t : Tracker) : Bool := match t.stat with | .admitted => true | .waiting _ => true | _ => false

/-- R112: requests of one line are decided in the order of their admission, and a request admitted after a fault after every request
admitted before it (R440), the holder's LeashFree too: a leash for which an earlier one waits ends at its limit. -/
def Slice.nextOfLine (s : Slice) (t : Tracker) : Bool :=
  !(s.trk.any fun x => x.req.line == t.req.line && decide (x.seq < t.seq) && x.stat == .admitted) &&
  (decide (t.seq < s.rseq) || !s.trk.any fun x => decide (x.seq < s.rseq) && x.undecided)

/-- The decision command of request type `k` on tracker `no`: it is due when that tracker holds an admitted,
undecided request of the type and no request that goes before it is still to be decided. -/
def Work.decideCmd (w : Work) (g : Shared) (k : ReqKind) (no : Nat) : Work :=
  match w.sl.tracker no with
  | some t => if t.stat = .admitted ∧ t.req.kind = k ∧ w.sl.nextOfLine t ∧ !w.sl.replay ∧ !g.stop then w.decideReq g t else w
  | none => w

end Sys2Proof.Machine
end

