-- ==== Sys2Proof/Machine/Answer.lean ====
section
/-! DEFINITION. Answers and what they set going: AckInval, AckFwd, WrData, MemRsp, DataFromMem; memory requests held
under R113; the stencil unit; far registers; leashes; timeouts. -/

namespace Sys2Proof.Machine

/-- An answer's journal record (Table 14-2); an answer of a fenced agent that is taken as given has no message. -/
def Work.ansRec (w : Work) (htx : Nat) (m : Option Msg) : Work :=
  w.journal 3 (match m with | some x => if x.cls = clsDat then 5 else 1 | none => 1) htx 0 [] m

/-- The snoops that an answer of this kind answers (Table 4-6). -/
def Msg.answers (m : Msg) : List ExpKind :=
  match m.cls.toNat, m.cmd.toNat with
  | 2, 1 => if m.f.getLsbD 0 then [.kill] else [.inval, .recall, .stash]
  | 2, 2 => [.fwd, .stash]
  | 3, 3 => [.recall]
  | _, _ => []

/-- The LINE by which a response is told from another with its TXID, unless its W1 is ignored (R157, Table 18-4). -/
def Msg.lineSel (m : Msg) : Option Line := if m.lineOk then some m.line else none

/-- The answer answers one of these snoops. -/
def Msg.fits (m : Msg) (l : List Exp) : Bool :=
  l.any fun e => e.node == m.src.toNat && m.answers.contains e.kind && (!m.lineOk || e.msg.line == m.line)

/-- A later answer for a snoop already answered, the second answer to a snoop that a response timeout repeated (R438), or, within 4 µs
after a replay or substitution, one that matches a repeated snoop whose transaction has ended (R439). -/
def Slice.dupOk (s : Slice) (g : Shared) (m : Msg) : Bool :=
  let tx := m.txid.toNat
  s.trk.any (fun t => t.no == tx && m.fits t.done) ||
  (decide (240 ≤ tx ∧ tx < 288) && s.rcl.any (fun r => r.no == tx && m.fits r.done)) ||
  s.collapses.any (fun c => c.htx == tx && m.fits c.done) ||
  (!m.answers.isEmpty && (s.rpt.contains (tx, m.src.toNat, true) ||
    (match s.rend with
     | some t => (s.slcp || decide (g.now ≤ t + 4000)) && s.rpt.contains (tx, m.src.toNat, false)
     | none => false)))

/-- A snoop repeated: its home TXID and target are remembered for R439, and the time of a SnpStash for R437. -/
def Work.repeated (w : Work) (g : Shared) (htx : Nat) (e : Exp) (timeout : Bool) : Work :=
  w.upd fun s => { s with
    rpt := if s.rpt.contains (htx, e.node, timeout) then s.rpt else s.rpt ++ [(htx, e.node, timeout)]
    stashLast := if e.kind = .stash then (htx, e.node, e.msg.line, g.now) :: s.stashLast else s.stashLast }

/-- An answer that nothing expects: a duplicate under R439, or an unexpected response. -/
def Work.stray (w : Work) (g : Shared) (m : Msg) : Work :=
  if w.sl.dupOk g m then w.upd fun s => { s with rdup := satInc s.rdup, rpt := s.rpt.erase (m.txid.toNat, m.src.toNat, true) } else w.unexpected m

/-- After an AckInval or WrData of the owner a WrPartial or far Atomic goes on (Table 4-9, Table 7-4): the memory
request it then needs, or the merged line. `data`: the owner's line when it answered WrData. -/
def Work.ownerAnswered (w : Work) (g : Shared) (no : Nat) (data : Option (BitVec 512)) (poison : Bool) : Work :=
  match w.sl.tracker no with
  | none => w
  | some t =>
    let r := t.req
    match g.target r.line with
    | none => w
    | some m =>
      match r.kind, t.far with
      | .wrPartial, _ =>
        match data with
        | some v =>
          let x := mergeLine v (lineOfUnits r.data 0) r.be
          let w := w.chargeT g (some no) (g.ecost 7)
          w.memReq g t (memWr w.n m no r.pack r.line beAll (unitsOfLine x 0) (poison || r.poison))
        | none => w.memReq g t (memWr w.n m no r.pack r.line r.be r.data r.poison)
      | .atomic, some f =>
        match data with
        | some v => (w.farLog f).upd fun s => { s.writeLine (bankAddr 28 (8 * f)) v false with
            far := s.far.map fun x : FarReg => if x.no == f then { x with valid := true, poison := poison } else x }
        | none => w.memReq g t (memRd w.n m no r.pack r.line false (sliceNode w.n) r.txid 0 r.crit)
      | _, _ => w

/-- The first expectation of a list that an answer from `node` of one of the kinds meets, removed. -/
def takeExp (l : List Exp) (node : Nat) (kinds : List ExpKind) (line : Option Line) : Option (Exp × List Exp) :=
  match l.find? (fun e => e.node == node && kinds.contains e.kind && !e.held && (line == none || line == some e.msg.line)) with
  | some e => some (e, l.erase e)
  | none => none

/-- A line of a dead owner that waits for a recall entry, in I since the fencing, takes one that is free (R448). -/
def Work.takeOwed (w : Work) (g : Shared) : Work :=
  match w.sl.owed, w.sl.freeRecall with
  | (line, agents) :: rest, some no => (w.upd fun s => { s with owed := rest }).startRecall g no line .i none agents .deadOwner none
  | _, _ => w

/-! ### The stencil unit (R65 to R72) -/

/-- The stencil row of an entry word. -/
def oldRow (e : Word) : Option Nat := if eForm e ∧ (eState e = 1 ∨ eState e = 3) then some (eRow e) else none

/-- An operation of the stencil unit, or a collapse, carries the home TXID `t`. -/
def Slice.stnHolds (s : Slice) (t : Nat) : Bool :=
  (s.stq ++ s.stwait).any (·.htx == some t) || s.collapses.any (·.htx == t)

/-- The background trackers of line steps whose answers, updates and writes are all in are freed (R460, R115). -/
def Work.retireSteps (w : Work) : Work :=
  (w.sl.rcl.filter fun r => decide (r.no < 256) && r.exp.isEmpty && !w.sl.stnHolds r.no).foldl
    (fun w r => (w.journal 5 1 r.no 0).upd fun s => { s with rcl := s.rcl.filter (·.no != r.no) }) w

/-- Census jobs whose written entries have all left the stencil unit end (Table 13-10 step 6). -/
def Work.endJobs (w : Work) : Work :=
  (w.sl.jobs.filter fun j => j.step == 6 && j.kind != .slice && !w.sl.stnHolds (320 + j.slot)).foldl (fun w j =>
    ((w.journal 6 1 (320 + j.slot) 0).upd fun s => { s with
      jobs := s.jobs.filter (·.slot != j.slot),
      cenc := bump 3 (bump (if j.kind = .line then 0 else 1) s.cenc) j.rebuilt }).ledger 6 2
        [put j.cjob.toNat 0 ||| put j.kind.code 12 ||| put j.rebuilt 16 ||| put j.ignored 40]) w

/-- An operation issued by home TXID `htx` has ended: its tracker, if it is still there and waited for nothing else, is freed. -/
def Work.opDone (w : Work) (g : Shared) (htx : Option Nat) : Work :=
  match htx with
  | none => w
  | some t =>
    let w := w.retireSteps.endJobs
    match w.sl.tracker t with
    | some x => if x.stat == .compSent && !x.wantsAck && w.sl.canFree x then w.finish g t else w
    | none => w

/-- What waited for an earlier operation or collapse of a way goes back to the front of the unit's queue (R68). -/
def Slice.unpark (s : Slice) (set way : Nat) : Slice :=
  let mine := fun (o : StnOp) => o.reserved.isNone && o.set == set && o.way == way
  { s with stq := s.stwait.filter mine ++ s.stq, stwait := s.stwait.filter (!mine ·) }

/-- A new row for a vector that is to be referred to once (R65 step 4): its words, its index entry and its metadata. -/
def Slice.newRow (s : Slice) (g : Shared) (r : Nat) (v : Vec) (bset bway : Nat) : Slice :=
  let s := s.setRowVec g r v
  let (s, ix) := s.idxInsert v r
  s.setMeta r (putB true 63 ||| putB ix 62 ||| put (vecCount v) 51 ||| put bset 36 ||| put bway 32 ||| put 1 0)

/-- The words that `newRow` writes. -/
def Slice.rowHome (s : Slice) (g : Shared) (r : Nat) (v : Vec) : List Nat :=
  metaAddr r :: (List.range 8).map (stnAddr g r) ++
    ((bucketOf v).1.filter fun i => s.idxEnt i == idxVal (bucketOf v).2 r).map fun i => bankAddr 25 (i / 2)

/-- The words of a row and of its vector's index bucket. -/
def Slice.rowWords (s : Slice) (g : Shared) (r : Nat) : List Nat :=
  (List.range 8).map (stnAddr g r) ++ ((bucketOf (s.rowVec g r)).1.map fun i => bankAddr 25 (i / 2)).eraseDups

/-- One reference of row `r` released by the unit (R66), unless the row is not VALID or its metadata cannot be read. A row that a
waiting update has reserved and that nothing refers to any more passes to it: the update takes the row as R65 step 4 states and releases
the line's old row (R71), which may do the same. -/
def Work.releaseRow (g : Shared) (htx : Option Nat) : Nat → Nat → Work → Work
  | 0, _, w => w
  | k + 1, r, w =>
    let w := w.opWords g htx [metaAddr r]
    let w := if mRefs (w.sl.rowMeta r) = 1 then w.opWords g htx (w.sl.rowWords g r) else w
    if !(w.sl.readC (metaAddr r)).1.usable || !mValid (w.sl.rowMeta r) then w else
    let w := (w.chargeT g htx (g.ecost 2)).upd fun s => s.release g r
    if mRefs (w.sl.rowMeta r) ≠ 0 then w else
    match w.sl.stwait.find? (·.reserved == some r) with
    | none => w
    | some o =>
      let old := oldRow (w.sl.readD (entAddr o.set o.way))
      let s := { w.sl.idxRemove (w.sl.rowVec g r) r with stwait := w.sl.stwait.erase o, dcnt := bump 0 w.sl.dcnt }
      let s := s.newRow g r o.new.sharers o.set o.way
      let s := s.storeD (entAddr o.set o.way) (o.new.stnWord (lpTag (g.lp o.line)) r)
      let s := s.wroteBy o.htx (entAddr o.set o.way :: s.rowHome g r o.new.sharers)
      let w := (({ w with sl := s.unpark o.set o.way }).chargeT g o.htx (g.ecost 3 + g.ecost 1)).opDone g o.htx
      match old with
      | some x => Work.releaseRow g o.htx k x w
      | none => w

/-- A stencil lookup's words: the bucket of the vector and, for each index entry with its signature, the row's metadata and words. -/
def Slice.findWords (s : Slice) (g : Shared) (v : Vec) : List Nat :=
  let (b, sig) := bucketOf v
  (b.map fun i => bankAddr 25 (i / 2)).eraseDups ++ b.flatMap fun i =>
    let r := s.idxEnt i % 2 ^ 14
    if s.idxEnt i / 2 ^ 14 = 2 ^ 16 + sig ∧ r < g.rows then metaAddr r :: (List.range 8).map (stnAddr g r) else []

/-- A candidate of the single-reference queue for the operation `o` (R71, R136): a row of one reference whose entry's line has no
transaction in flight that was admitted before the request of `o`, or that is decided. -/
def Slice.reclaimable (s : Slice) (g : Shared) (o : StnOp) (r : Nat) : Bool :=
  let m := s.rowMeta r
  let a := entAddr (mBset m) (mBway m)
  let e := s.readD a
  let l := s.entLine g (mBset m) (mBway m)
  (s.readC (metaAddr r)).1.usable && (s.readC a).1.usable && mValid m && mRefs m == 1 && oldRow e == some r && l != o.line &&
  !s.trk.any (fun t => t.req.line == l && (decide (t.seq < o.seq) || t.stat == .decided || t.stat == .compSent)) &&
  !s.rcl.any (fun x => x.line == l && decide (x.no < 256)) && !s.collapses.any (·.line == l) && (s.pendingOp (mBset m) (mBway m)).isNone

/-- The release of a row given to the stencil unit outside a directory update (R66): done at once when nothing is queued, and otherwise
after what was issued before it (R67; DEDUCED, log entry 76). -/
def Work.stnRelease (w : Work) (g : Shared) (htx : Option Nat) (r : Nat) : Work :=
  if w.sl.stq.isEmpty then (Work.releaseRow g htx 40 r w).opDone g htx
  else w.upd fun s => { s with stq := s.stq ++ [{ set := 0, way := 0, line := 0, new := { st := .i }, release := some r, htx := htx }] }

/-- A collapse whose holders have all answered: the inline entry is written, unless a census has taken the way, and the old row is
released (R72). -/
def Work.endCollapse (w : Work) (g : Shared) (c : Collapse) : Work :=
  let w := w.upd fun s => { s with collapses := s.collapses.erase c }
  let w := if c.taken then w else ((w.chargeT g (some c.htx) (g.ecost 1)).upd fun s =>
    s.storeD (entAddr c.set c.way) (c.new.canon.inlineWord (lpTag (g.lp c.line)))).upd fun s => s.unpark c.set c.way
  let w := match c.oldRow with | some r => w.stnRelease g (some c.htx) r | none => w
  w.opDone g (some c.htx)

/-- The single-reference queue down to its first row that passes the checks of R71, with the words that they and the recall of its line
read (R386, R394); the rows before it are discarded. -/
def Work.pickRow (g : Shared) (o : StnOp) : List Nat → Work → Work
  | [], w => w.upd fun s => { s with single := [] }
  | r :: l, w =>
    let w := w.opWords g o.htx (metaAddr r :: (let m := w.sl.rowMeta r; if mValid m then [entAddr (mBset m) (mBway m)] else []))
    let row := (List.range 8).map (stnAddr g r)
    let w := if w.sl.reclaimable g o r then w.opWords g o.htx row else w
    if w.sl.reclaimable g o r && row.all fun a => (w.sl.readC a).1.usable then w.upd fun s => { s with single := r :: l }
    else pickRow g o l w

/-- The line of an update is collapsed (R72): the requester, the owner of an O line and the lowest further holders are kept, and every other
holder gets SnpInval. The updates of the way that wait behind it no longer count those holders; one that such an update makes the owner is
not snooped, since it is then to hold the line alone (DEDUCED, log entry 80). A collapse without a holder to snoop ends at once. An update
without a requester keeps only the others (log entry 19), and one without a home TXID sends its snoops with 320 (log entry 19). -/
def Work.collapse (w : Work) (g : Shared) (o : StnOp) (old : Option Nat) : Work :=
  let v := o.new.sharers
  let room := if o.new.st == .o then 3 else 4
  let first := o.keep.toList.filter fun a => v.getLsbD a && !(o.new.st == .o && o.new.owner == a)
  let kept := (first ++ (vecMembers v).filter (!first.contains ·)).take room
  let new := { o.new with sharers := vecOf kept }
  let later := (w.sl.stwait ++ w.sl.stq).filter fun x => x.set == o.set && x.way == o.way && x.updates
  let gone := (vecMembers v).filter fun a => !kept.contains a && !later.any fun x => x.new.owns a
  let less := fun (x : StnOp) => if x.set == o.set && x.way == o.way && x.updates then
    { x with new := ({ x.new with sharers := gone.foldl vecDel x.new.sharers } : EntNew).canon } else x
  let htx := o.htx.getD 320
  let exp := gone.map fun b =>
    ({ kind := .inval, node := b, msg := snp w.n 3 b htx o.pack o.line, held := w.sl.holdSnoop o.line b htx, sentAt := g.now } : Exp)
  let c : Collapse := { line := o.line, set := o.set, way := o.way, htx := htx, seq := o.seq, exp := exp, oldRow := old, new := new }
  let w := w.upd fun s => { s with dcnt := bump 4 s.dcnt, stq := s.stq.map less, stwait := s.stwait.map less, collapses := s.collapses ++ [c] }
  if exp.isEmpty then w.endCollapse g c
  else (exp.foldl (fun w x => if x.held then w else w.send g o.htx x.msg) w).opDone g o.htx

/-- An update of a way's holder set (R65): an inline entry, an existing row, a rewrite in place, a new row, a reclaimed row (R71) or
a collapse (R72). -/
def Work.runUpdate (w : Work) (g : Shared) (o : StnOp) : Work :=
  let a := entAddr o.set o.way
  let w := w.opWords g o.htx [a]
  let w := if o.new.fits then w else
    let w := match oldRow (w.sl.readD a) with
      | some r => if r < g.rows then w.opWords g o.htx (metaAddr r :: w.sl.rowWords g r) else w
      | none => w
    w.opWords g o.htx (w.sl.findWords g o.new.sharers)
  let e := w.sl.readD a
  if eState e = 5 ∨ !(w.sl.readC a).1.usable then w.opDone g o.htx else
  let old := oldRow e
  let rel := fun (w : Work) => match old with | some r => Work.releaseRow g o.htx 40 r w | none => w
  let tag := lpTag (g.lp o.line)
  let v := o.new.sharers
  let refer := fun (w : Work) (r : Nat) => (w.chargeT g o.htx (g.ecost 1)).upd fun s =>
    let s := s.setMeta r (setFld (setFld (s.rowMeta r) 50 36 o.set) 35 32 o.way)
    (s.storeD a (o.new.stnWord tag r)).wroteBy o.htx [a, metaAddr r]
  if o.new.fits then
    (rel ((w.chargeT g o.htx (g.ecost 1)).upd fun s => (s.storeD a (o.new.inlineWord tag)).wroteBy o.htx [a])).opDone g o.htx
  else
    let w := w.chargeT g o.htx (g.ecost 2)
    match w.sl.stnFind g v with
    | some r =>
      let w := (w.chargeT g o.htx (g.ecost 2)).upd fun s => { s.setMeta r (s.rowMeta r + 1) with dcnt := bump 2 s.dcnt }
      (rel (refer w r)).opDone g o.htx
    | none =>
      let inPlace := match old with
        | some r => if mRefs (w.sl.rowMeta r) = 1 ∧ !mRet (w.sl.rowMeta r) then some r else none
        | none => none
      match inPlace with
      | some r =>
        let w := (w.chargeT g o.htx (g.ecost 3)).upd fun s =>
          let s := (s.idxRemove (s.rowVec g r) r).newRow g r v o.set o.way
          { s.wroteBy o.htx (s.rowHome g r v) with dcnt := bump 1 s.dcnt }
        (refer w r).opDone g o.htx
      | none =>
        let w := w.upd fun s => s.parity .freeMap
        match w.sl.freeRow g with
        | some r =>
          let w := (w.chargeT g o.htx (g.ecost 3)).upd fun s =>
            let s := s.newRow g r v o.set o.way
            { s.wroteBy o.htx (s.rowHome g r v) with dcnt := bump 0 s.dcnt }
          ((rel (refer w r)).opDone g o.htx).upd fun s => s.deepCheck g
        | none =>
          let w := w.upd fun s => s.parity .queue
          if !w.sl.mapOk then w.collapse g o old else
          let w := Work.pickRow g o w.sl.single w
          if eState (w.sl.readD a) = 5 ∨ !(w.sl.readC a).1.usable then w.opDone g o.htx else
          match w.sl.single, w.sl.freeRecall with
          | r :: rest, some no =>
            let m := w.sl.rowMeta r
            let cl := w.sl.entLine g (mBset m) (mBway m)
            let ce := w.sl.decodeEnt g (w.sl.readD (entAddr (mBset m) (mBway m)))
            let w := (w.chargeT g o.htx (g.ecost 1)).upd fun s =>
              { (s.setMeta r (m ||| putB true 61)).storeD (entAddr (mBset m) (mBway m)) 0 with
                single := rest, stwait := s.stwait ++ [{ o with reserved := some r }], dcnt := bump 3 s.dcnt }
            w.startRecall g no cl ce.st (some r) ce.holders .evict none
          | _, _ => w.collapse g o old

/-- The repointing of a way whose row retires, by deep compaction (R75, R137). -/
def Work.runRepoint (w : Work) (g : Shared) (set way : Nat) : Work :=
  let a := entAddr set way
  let w := w.bgWords g (a :: stnWords g (w.sl.readD a))
  let e := w.sl.readD a
  let line := w.sl.entLine g set way
  match oldRow e with
  | none => w
  | some r =>
    if !(w.sl.readC a).1.usable || (w.sl.badStn g e).isSome || !mRet (w.sl.rowMeta r) || w.sl.inFlight line ||
        (w.sl.pendingOp set way).isSome || w.sl.stwait.any (·.reserved == some r) then w
    else
      let w := (w.bgWords g (w.sl.findWords g (w.sl.rowVec g r))).charge g (g.ecost 2)
      match w.sl.stnFind g (w.sl.rowVec g r) with
      | some x =>
        let w := (w.charge g (g.ecost 2 + g.ecost 1)).upd fun s =>
          let s := s.setMeta x (setFld (setFld (s.rowMeta x + 1) 50 36 set) 35 32 way)
          s.storeD a (setFld e 26 13 x)
        Work.releaseRow g (some 0xFFF) 40 r w
      | none => w

/-- The indexing of a row by compaction (R74, R395): a row without an index entry that leads to it has IDX cleared and is looked up;
one that a lookup then finds under another number retires, and otherwise it is indexed where its bucket has room. -/
def Work.runCompact (w : Work) (g : Shared) (r : Nat) : Work :=
  let w := w.bgWords g (metaAddr r :: (if mValid (w.sl.rowMeta r) then (List.range 8).map (stnAddr g r) else []))
  let m := w.sl.rowMeta r
  if !(w.sl.readC (metaAddr r)).1.usable || !mValid m || ((List.range 8).map (stnAddr g r)).any (fun a => !(w.sl.readC a).1.usable) then w
  else
    let v := w.sl.rowVec g r
    let w := w.bgWords g (w.sl.findWords g v)
    let led := (bucketOf v).1.any fun i => w.sl.idxEnt i == idxVal (bucketOf v).2 r
    let idx := mIdx m && led
    let w := if mIdx m && !led then w.upd fun s => s.setMeta r (s.rowMeta r &&& ~~~(putB true 62)) else w
    if idx then w else
      let w := w.charge g (g.ecost 2)
      match w.sl.stnFind g v with
      | some _ => w.upd fun s => s.setMeta r (s.rowMeta r ||| putB true 61)
      | none => w.upd fun s =>
          let (s, ok) := s.idxInsert v r
          if ok then s.setMeta r (s.rowMeta r ||| putB true 62) else s

/-- One operation carried out by the stencil unit (R67). -/
def Work.runStn (w : Work) (g : Shared) (o : StnOp) : Work :=
  match o.release, o.task with
  | some r, _ => (Work.releaseRow g o.htx 40 r w).opDone g o.htx
  | none, some .repoint => w.runRepoint g o.set o.way
  | none, some (.compact r) => w.runCompact g r
  | none, none => w.runUpdate g o

/-- An operation given to the stencil unit outside a directory update: done at once when nothing is queued, and otherwise after what was
issued before it (R67; DEDUCED, log entry 76). -/
def Work.stn (w : Work) (g : Shared) (o : StnOp) : Work :=
  if w.sl.stq.isEmpty then w.runStn g o else w.upd fun s => { s with stq := s.stq ++ [o] }

/-- The stencil unit completes its oldest operation (R65 to R68). An update whose way still has an earlier update or a collapse
under way waits for its end. -/
def Work.stencilOp (w : Work) (g : Shared) : Work :=
  match w.sl.stq with
  | [] => w
  | o :: q =>
    let w := w.upd fun s => { s with stq := q }
    if o.updates && (w.sl.stwait.any (fun x => x.set == o.set && x.way == o.way) ||
        w.sl.collapses.any (fun c => c.set == o.set && c.way == o.way && !c.taken)) then
      w.upd fun s => { s with stwait := s.stwait ++ [o] }
    else w.runStn g o

/-! ### Recalls -/

/-- A recall entry that has every answer retires: its stencil reference is released (R80, R119). -/
def Work.retireRecall (w : Work) (g : Shared) (no : Nat) : Work :=
  match w.sl.rcl.find? (·.no == no) with
  | none => w
  | some r =>
    if !r.exp.isEmpty then w
    else if no < 256 then w.retireSteps
    else
      let w := (w.journal 5 1 no 0).upd fun s => { s with rcl := s.rcl.filter (·.no != no) }
      let w := match r.row with
        | some row => w.stnRelease g (some no) row
        | none => w
      w.takeOwed g

/-- The memory write of a recall entry, once its data is in (R119, R413), with PACK 0 (DESIGN CHOICE, log entry 62). -/
def Work.recallWrite (w : Work) (g : Shared) (no : Nat) : Work :=
  match w.sl.rcl.find? (·.no == no) with
  | none => w
  | some r =>
    let waiting := r.exp.any fun e => e.kind == .recall
    let due := if r.kind = .conflict then !waiting && decide (0 < r.dirty) else decide (0 < r.dirty)
    if !due ∨ r.exp.any (fun e => e.kind == .mem) then w
    else match g.target r.line with
      | none => w
      | some t =>
        let lost := decide (1 < r.dirty)
        let m := memWr w.n t no 0 r.line beAll (if lost then [0, 0, 0, 0] else r.data) (lost || r.poison)
        let held := !w.sl.memFree r.line r.seq false
        let w := w.upd fun s => { s with rcl := s.rcl.map fun x : Recall => if x.no == no then
          { x with dirty := 0, exp := x.exp ++ [{ kind := .mem, node := m.dst.toNat, msg := m, held := held, sentAt := g.now }] } else x }
        if held then w else w.send g none m

/-- A recall snoop answered. -/
def Work.recallAnswer (w : Work) (g : Shared) (no : Nat) (e : Exp) (rest : List Exp) (m : Option Msg)
    (data : Option (List Unit128)) (poison : Bool) : Work :=
  let w := (w.ansRec no m).upd fun s => { s with rcl := s.rcl.map fun x : Recall => if x.no == no then
    match data with
    | some d => { x with exp := rest, done := e :: x.done, dirty := x.dirty + 1, data := d, poison := poison }
    | none => { x with exp := rest, done := e :: x.done } else x }
  let w := match data, (w.sl.rcl.find? (·.no == no)).bind (·.fence) with
    | some _, some tag => w.upd fun s =>
        let x : BSum := tget {} s.bsum tag
        { s with bsum := tset {} s.bsum tag { x with wb := x.wb + 1 } }
    | _, _ => w
  (w.recallWrite g no).retireRecall g no

/-- A leash ends: its entry is freed and, after a cut, the line becomes X with the same holder (R195). -/
def Work.endLeash (w : Work) (g : Shared) (l : Leash) : Work :=
  let w := (w.journal 6 1 (288 + l.no) 0).upd fun s => { s with lsh := s.lsh.filter (·.no != l.no) }
  let lp := g.lp l.line
  let w := w.touchWords g (w.sl.lookupWords g l.line)
  match w.sl.findWay g lp with
  | some v =>
    let e := w.sl.effEnt g (lpSet lp) v
    if e.st == .l && e.owner == l.agent then w.putEnt g none w.sl.seq (some l.agent) l.line (lpSet lp) v (EntNew.x e.owner e.pred) else w
  | none => w

/-- A target declined a Stash: I is written and the line goes to memory (R225). -/
def Work.stashDeclined (w : Work) (g : Shared) (no : Nat) : Work :=
  match w.sl.tracker no with
  | none => w
  | some t =>
    let r := t.req
    let lp := g.lp r.line
    let w := w.upd fun s => { s.setTrk no (fun x => { x with status := 2 }) with sync := bump 4 s.sync }
    let w := w.touchWords g (w.sl.lookupWords g r.line)
    let w := match w.sl.findWay g lp with
      | some v => w.putEnt g (some no) t.seq (some r.port) r.line (lpSet lp) v { st := .i }
      | none => w
    match g.target r.line with
    | some m => w.memReq g t (memWr w.n m no r.pack r.line beAll r.data r.poison)
    | none => w

/-- AckInval consumed (R115, R157, R195, R225, R239). -/
def Work.ackInval (w : Work) (g : Shared) (m : Msg) : Work :=
  let tx := m.txid.toNat
  let src := m.src.toNat
  let kill := m.f.getLsbD 0
  let tracked := (w.sl.tracker tx).bind fun t =>
    (takeExp t.exp src m.answers m.lineSel).map fun x => (t, x)
  match tracked with
  | some (t, e, rest) =>
    let w := (w.ansRec tx (some m)).upd fun s => s.setTrk tx fun x => { x with exp := rest, done := e :: x.done }
    let w := if e.kind == .recall then w.ownerAnswered g tx none false
      else if e.kind == .stash then w.stashDeclined g tx else w
    let _ := t
    w.complete g tx
  | none =>
    match (w.sl.collapses.findSome? fun c => if c.htx = tx then (takeExp c.exp src [.inval] m.lineSel).map fun x => (c, x) else none) with
    | some (c, e, rest) =>
      let c' := { c with exp := rest, done := e :: c.done }
      let w := (w.ansRec tx (some m)).upd fun s => { s with collapses := s.collapses.map fun x => if x == c then c' else x }
      if rest.isEmpty then w.endCollapse g c' else w
    | none =>
      match (if 240 ≤ tx ∧ tx < 288 then (w.sl.rcl.find? (·.no == tx)).bind fun r =>
          (takeExp r.exp src [.recall] m.lineSel).map fun x => (r, x) else none) with
      | some (r, e, rest) => w.recallAnswer g r.no e rest (some m) none false
      | none =>
        match (if 288 ≤ tx ∧ tx < 320 then
            w.sl.lsh.find? (fun l => l.no == tx - 288 && l.agent == src && l.cut.isSome && (!m.lineOk || l.line == m.line)) else none) with
        | some l => (w.ansRec tx (some m)).endLeash g l
        | none =>
          match w.sl.trk.find? (fun t => t.stat == .compSent && t.wantsAck && t.req.port == src && t.req.txid == m.txid &&
              (!m.lineOk || t.req.line == m.line) && !kill) with
          | some t =>
            let w := w.upd fun s => s.setTrk t.no fun x => { x with h1 := false }
            match w.sl.tracker t.no with
            | some x => if w.sl.canFree x then w.finish g t.no else w
            | none => w
          | none =>
            match w.sl.loose.find? (fun e => e.node == src && e.msg.txid == m.txid) with
            | some e => if kill then w.upd fun s => { s with loose := s.loose.erase e } else w.stray g m
            | none => w.stray g m

/-- AckFwd consumed, from an owner or an accepting stash target (R115, R123, R225). -/
def Work.ackFwd (w : Work) (g : Shared) (m : Msg) : Work :=
  let tx := m.txid.toNat
  match (w.sl.tracker tx).bind fun t => (takeExp t.exp m.src.toNat m.answers m.lineSel).map fun x => (t, x) with
  | some (t, e, rest) =>
    let w := (w.ansRec tx (some m)).upd fun s => s.setTrk tx fun x => { x with exp := rest, done := e :: x.done }
    let w := if e.kind == .stash then w.upd fun s => { s with sync := bump 3 s.sync } else w
    let w := if m.f.getLsbD 17 then (w.poisoned (some t.req) t.req.line 1 m.src.toNat).upd fun s =>
        s.setTrk tx fun x => { x with poison := true }
      else w
    w.complete g tx
  | none => w.stray g m

/-- WrData consumed, or taken as poisoned zeros at a give-up (R119, R123, Table 18-5). -/
def Work.wrData (w : Work) (g : Shared) (m : Msg) : Work :=
  let tx := m.txid.toNat
  let poison := m.f.getLsbD 17
  match (w.sl.tracker tx).bind fun t => (takeExp t.exp m.src.toNat m.answers m.lineSel).map fun x => (t, x) with
  | some (t, e, rest) =>
    let w := (w.ansRec tx (some m)).upd fun s => s.setTrk tx fun x => { x with exp := rest, done := e :: x.done }
    let w := if poison then (w.poisoned (some t.req) t.req.line 2 m.src.toNat).upd fun s =>
        s.setTrk tx fun x => { x with poison := true } else w
    (w.ownerAnswered g tx (some (lineOfUnits m.units 0)) poison).complete g tx
  | none =>
    match (if 240 ≤ tx ∧ tx < 288 then (w.sl.rcl.find? (·.no == tx)).bind fun r =>
        (takeExp r.exp m.src.toNat m.answers m.lineSel).map fun x => (r, x) else none) with
    | some (r, e, rest) =>
      let w := if poison then w.poisoned none r.line 2 m.src.toNat else w
      w.recallAnswer g r.no e rest (some m) (some m.units) poison
    | none => w.stray g m

/-- DataFromMem with DTR 0: the value of a far Atomic (R176, R181), whether its MemRsp has come before it or not. -/
def Work.dataFromMem (w : Work) (g : Shared) (m : Msg) : Work :=
  let tx := m.txid.toNat
  match (w.sl.tracker tx).bind fun t => t.far.bind fun f =>
      if (t.exp ++ t.done).any (fun e => e.kind == .mem && e.node == m.src.toNat && !e.held && e.msg.cmd == 0x10) &&
        w.sl.far.any (fun x => x.no == f && !x.valid) then some f else none with
  | some f => ((w.ansRec tx (some m)).farLog f).upd fun s => { s.writeLine (bankAddr 28 (8 * f)) (lineOfUnits m.units (fld m.f 27 26)) false with
      far := s.far.map fun x : FarReg => if x.no == f then { x with valid := true, poison := m.f.getLsbD 17 } else x }
  | none => w.stray g m

/-- MemRsp consumed by a tracker, a recall entry or a far register's write-back (R115, R119, R121, R179). -/
def Work.memRsp (w : Work) (g : Shared) (m : Msg) : Work :=
  let tx := m.txid.toNat
  let poison := m.f.getLsbD 17
  match (w.sl.tracker tx).bind fun t => (takeExp t.exp m.src.toNat [.mem] none).map fun x => (t, x) with
  | some (t, e, rest) =>
    let w := (w.ansRec tx (some m)).upd fun s => s.setTrk tx fun x => { x with exp := rest, done := e :: x.done }
    let w := if poison then (w.poisoned (some t.req) t.req.line 0 m.src.toNat).upd fun s =>
        s.setTrk tx fun x => { x with poison := true } else w
    w.complete g tx
  | none =>
    match (if 240 ≤ tx ∧ tx < 288 then (w.sl.rcl.find? (·.no == tx)).bind fun r =>
        (takeExp r.exp m.src.toNat [.mem] none).map fun x => (r, x) else none) with
    | some (r, _, rest) =>
      let w := (w.ansRec tx (some m)).upd fun s => { s with rcl := s.rcl.map fun x : Recall => if x.no == r.no then { x with exp := rest } else x }
      w.retireRecall g r.no
    | none =>
      match (if 328 ≤ tx ∧ tx < 336 then w.sl.far.find? (fun f => f.no == tx - 328 && f.wb.isSome &&
          (match f.wb with | some e => e.node == m.src.toNat && !e.held | none => false)) else none) with
      | some f => ((w.ansRec tx (some m)).farLog f.no).upd fun s => { s with far := s.far.filter (·.no != f.no) }
      | none => w.stray g m

/-- A held memory request of home TXID `htx` sent once R113 allows it. -/
def Work.memRelease (w : Work) (g : Shared) (htx : Nat) : Work :=
  let fix := fun (e : Exp) => if e.kind == .mem then { e with held := false, sentAt := g.now } else e
  match w.sl.tracker htx with
  | some t =>
    match t.exp.find? (fun e => e.kind == .mem && e.held) with
    | some e =>
      if w.sl.memFree e.msg.line t.seq t.far.isSome then
        (w.send g (some htx) e.msg).upd fun s => s.setTrk htx fun x => { x with exp := x.exp.map fix }
      else w
    | none => w
  | none =>
    match w.sl.far.find? (fun f => 328 + f.no == htx && (match f.wb with | some e => e.held | none => false)) with
    | some f =>
      match f.wb with
      | some e => if w.sl.memFree f.line f.seq true then
          (w.send g none e.msg).upd fun s => { s with far := s.far.map fun x : FarReg =>
            if x.no == f.no then { x with wb := some (fix e) } else x }
        else w
      | none => w
    | none =>
    match (if 240 ≤ htx then w.sl.rcl.find? (·.no == htx) else none) with
    | some r =>
      match r.exp.find? (fun e => e.kind == .mem && e.held) with
      | some e =>
        if w.sl.memFree e.msg.line r.seq false then
          (w.send g none e.msg).upd fun s => { s with rcl := s.rcl.map fun x : Recall =>
            if x.no == r.no then { x with exp := x.exp.map fix } else x }
        else w
      | none => w
    | none => w

/-- A waiting request whose condition has ended is decided (R155, R193); `ways`: the command of R78. -/
def Work.resume (w : Work) (g : Shared) (no : Nat) (ways : Bool) : Work :=
  match w.sl.tracker no with
  | some t =>
    match t.stat with
    | .waiting why => if (why == .way || why == .recall) == ways && why != .watchAge && w.sl.nextOfLine t then w.decideReq g t else w
    | _ => w
  | none => w

/-- WATCH_INSTALLED: every active slice holds the watch, so the home completes the ResvWatch (R186). -/
def Work.watchInstalled (w : Work) (g : Shared) (no : Nat) : Work :=
  match w.sl.tracker no with
  | some t => if t.req.kind == .resvWatch && t.stat == .decided then
      (w.upd fun s => s.setTrk no fun x => { x with exp := x.exp.filter (fun e => e.kind != .data) }).complete g no else w
  | none => w

/-- WATCH_AGE_REACHED: an aged ResvWatch that waited on a full table goes on (R190). -/
def Work.watchAge (w : Work) (g : Shared) (no : Nat) : Work :=
  match w.sl.tracker no with
  | some t => if t.req.kind == .resvWatch && t.stat == .waiting .watchAge && w.sl.nextOfLine t then w.decideReq g t else w
  | none => w

/-- The merge unit performs a far Atomic: V in the Comp, the new value in the register (R177, R181). Poison that an answer of the
same transaction brought has been recorded with that answer (DEDUCED, log entry 46). -/
def Work.farExecute (w : Work) (g : Shared) (no : Nat) : Work :=
  match w.sl.tracker no with
  | none => w
  | some t =>
    match t.far.bind fun f => w.sl.far.find? (·.no == f) with
    | none => w
    | some f =>
      if t.stat == .decided && f.valid && f.queue.head? == some no && t.exp.all (fun e => e.kind == .data) then
        let a := bankAddr 28 (8 * f.no)
        let w := w.touchWords g ((List.range 8).map (a + ·))
        let (v, p) := w.sl.readLine a
        let bad := p || f.poison
        let (nv, u) := t.req.performAtomic v
        let w := w.chargeT g (some no) (g.ecost 8)
        let w := if bad then (if t.poison then w else w.poisoned (some t.req) t.req.line 0 (sliceNode w.n)) else w.upd fun s => s.writeLine a nv false
        let w := w.upd fun s => { s.setTrk no (fun x => { x with exp := [], unit := some (if bad then 0 else u), poison := t.poison || bad }) with
          atmc := if t.seq = f.seq then s.atmc else bump 2 s.atmc
          far := s.far.map fun x : FarReg => if x.no == f.no then
            { x with queue := x.queue.drop 1, idle := 0, last := g.now } else x }
        let w := (w.farLog f.no).complete g no
        match w.sl.far.find? (·.no == f.no) with
        | some x => if x.wbWanted && x.queue.isEmpty then w.farWriteBack g f.no else w
        | none => w
      else w

/-- FAR_IDLE slice cycles without a far Atomic: the register writes its line back (R179). -/
def Work.farIdle (w : Work) (g : Shared) (f : Nat) : Work :=
  match w.sl.far.find? (·.no == f) with
  | some x => if x.valid && x.queue.isEmpty && x.wb.isNone && decide (fld w.sl.atmCtl 31 16 ≤ x.idle) then w.farWriteBack g f else w
  | none => w

/-- A leash timer expires: LeashCut to the holder (R195). -/
def Work.leashExpiry (w : Work) (g : Shared) (no : Nat) : Work :=
  match w.sl.lsh.find? (·.no == no) with
  | some l =>
    match l.start with
    | some t => if t + l.limit ≤ g.now ∧ l.cut.isNone then
        (w.cutLeash g no).upd fun s => { s with atmc := bump 6 s.atmc } else w
    | none => w
  | none => w

/-- One expectation repeated after a first timeout; `none` when the second has expired: the agent is dead (R445). -/
def timeoutExp (g : Shared) (e : Exp) : Option Exp :=
  if e.tries = 0 then some { e with tries := 1, sentAt := g.now } else none

/-- An agent is answered: its LAST report and every lower RSEQ are held (R410). -/
def CenAgent.answered (a : CenAgent) : Bool :=
  match a.lastAt with
  | some k => (List.range (k + 1)).all (a.rseqs.contains ·)
  | none => false

/-- The parameter unit of SnpCensus (Table 18-3). -/
def cenParam (s : Slice) (j : CenJob) : Unit128 :=
  let w0 : Nat := (if j.kind = .line then 0 else 1) + j.cjob.toNat * 2 ^ 4 + s.logical * 2 ^ 16 + (if j.kind = .set then j.set else 0) * 2 ^ 32
  let w1 : Nat := match j.kind with | .line => 0 | .set => 1 | .slice => 32768
  BitVec.ofNat 128 (w0 + w1 * 2 ^ 64)

/-- SnpCensus of a job to one agent (R408, Table 18-3). -/
def Work.sendCensus (w : Work) (g : Shared) (j : CenJob) (a : Nat) : Work :=
  w.send g none (snp w.n 5 a (320 + j.slot) (BitVec.ofNat 4 (g.port a).packNo) (if j.kind = .line then j.line else 0) 0 [cenParam w.sl j])

/-- RESPONSE_TIMEOUT of an agent's answers to home TXID `htx` (R445): each snoop that is late is sent once more, and after the second
expiry the agent is declared dead. -/
def Work.responseTimeout (w : Work) (g : Shared) (htx agent limit : Nat) : Work :=
  let late := fun (e : Exp) => e.node == agent && e.kind != .mem && e.kind != .data && !e.held && decide (e.sentAt + limit ≤ g.now)
  let act := fun (w : Work) (e : Exp) => if e.tries = 0 then (w.send g none e.msg).repeated g htx e true else w.emit (.declareDead agent e.msg.cmd.toNat)
  let acts := fun (w : Work) (l : List Exp) => (l.filter late).foldl act w
  let fix := fun (e : Exp) => if late e then (timeoutExp g e).getD e else e
  let w := (acts w (w.sl.collapses.flatMap fun c => if c.htx == htx then c.exp else [])).upd fun s => { s with
    collapses := s.collapses.map fun c : Collapse => if c.htx == htx then { c with exp := c.exp.map fix } else c }
  let mine := fun (e : Exp) => e.msg.txid.toNat == htx
  let w := (acts w (w.sl.loose.filter mine)).upd fun s => { s with loose := s.loose.map fun x => if mine x then fix x else x }
  if htx < 240 then
    match w.sl.tracker htx with
    | some t =>
      let w := (acts w t.exp).upd fun s => s.setTrk htx fun x => { x with exp := x.exp.map fix }
      if t.stat == .compSent && t.wantsAck && t.req.port == agent && decide (t.ackAt + limit ≤ g.now) then
        if t.ackTries = 0 then w.upd fun s => s.setTrk htx fun x => { x with ackTries := 1, ackAt := g.now }
        else w.emit (.declareDead agent 0)
      else w
    | none => w
  else if htx < 288 then
    match w.sl.rcl.find? (·.no == htx) with
    | some r => (acts w r.exp).upd fun s => { s with rcl := s.rcl.map fun r : Recall => if r.no == htx then { r with exp := r.exp.map fix } else r }
    | none => w
  else if htx < 320 then
    match w.sl.lsh.find? (·.no == htx - 288) with
    | some l => (acts w l.cut.toList).upd fun s => { s with lsh := s.lsh.map fun l : Leash =>
        if l.no == htx - 288 then { l with cut := l.cut.map fix } else l }
    | none => w
  else
    match w.sl.jobs.find? (fun j => j.slot == htx - 320) with
    | some j =>
      match j.agents.find? (fun a => a.agent == agent && !a.answered && !a.held && decide (a.sentAt + limit ≤ g.now)) with
      | some a =>
        if a.tries = 0 then (w.sendCensus g j agent).upd fun s => { s with jobs := s.jobs.map fun x : CenJob => if x.slot == j.slot then
            { x with agents := x.agents.map fun b : CenAgent => if b.agent == agent then { b with tries := 1, sentAt := g.now } else b } else x }
        else w.emit (.declareDead agent 5)
      | none => w
    | none => w

/-- MEM_ANSWER_LATE (R530): recorded, and the home goes on waiting. -/
def Work.memLate (w : Work) (g : Shared) (htx limit : Nat) : Work :=
  let late := fun (e : Exp) => e.kind == .mem && !e.held && decide (e.sentAt + (e.tries + 1) * limit ≤ g.now)
  let fix := fun (e : Exp) => if late e then { e with tries := e.tries + 1 } else e
  let record := fun (w : Work) (e : Exp) => w.netRec 8
    [put (e.node - 640) 0 ||| put htx 5 ||| put e.msg.cmd.toNat 17 ||| put (Nat.min (e.tries + 1) 255) 24, put e.msg.line.toNat 0]
  if htx < 240 then
    match (w.sl.tracker htx).bind fun t => t.exp.find? late with
    | some e => (record w e).upd fun s => s.setTrk htx fun x => { x with exp := x.exp.map fix }
    | none => w
  else if htx < 288 then
    match (w.sl.rcl.find? (·.no == htx)).bind fun r => r.exp.find? late with
    | some e => (record w e).upd fun s => { s with rcl := s.rcl.map fun r : Recall =>
        if r.no == htx then { r with exp := r.exp.map fix } else r }
    | none => w
  else if htx < 328 then w
  else
    match (w.sl.far.find? (·.no == htx - 328)).bind fun f => f.wb with
    | some e => if late e then (record w e).upd fun s => { s with far := s.far.map fun f : FarReg =>
        if f.no == htx - 328 then { f with wb := f.wb.map fix } else f } else w
    | none => w

/-- Cancel at a slice (R141 to R143): a matching speculative or prefetch read not yet committed is taken and answered
Cancelled; otherwise the Cancel is discarded. A request that is not yet admitted is taken by admission, without a draw; when no
tracker is free its passing admission has the number 240 (log entry 63). -/
def Work.cancel (w : Work) (g : Shared) (m : Msg) : Work :=
  let w := w.ctlCredit m.src.toNat
  if w.sl.replay ∨ g.stop ∨ g.gated m.pack.toNat then w else
  let fits := fun (r : Req) => r.port == m.src.toNat && r.txid == m.txid && r.line == m.line && (r.intent == 1 || r.intent == 2)
  let answer := fun (w : Work) (no : Nat) => match w.sl.tracker no with
    | some t => ((w.send g (some no) (rspTo w.n t.req 6 0)).upd fun s => { s with race := bump 3 s.race }).drop g t
    | none => w
  let take := fun (w : Work) (r : Req) (aged : Bool) (est : Int) (entry : Bool) =>
    let no := (w.sl.takeNo g r aged).getD 240
    answer (w.intake g r no aged est entry) no
  match w.sl.trk.find? (fun t => fits t.req && (match t.stat with | .admitted => true | .waiting _ => true | _ => false)) with
  | some t => answer w t.no
  | none =>
    match w.sl.ent.find? (fun e => fits e.req && !e.admitted) with
    | some e => take w e.req (w.sl.aged e.port) e.est true
    | none =>
      match w.sl.agedq.find? (fun e => fits e.1) with
      | some e => take (w.upd fun s => { s with agedq := s.agedq.erase e }) e.1 true e.2 false
      | none => w

/-- RESEND received (R534): the most recent matching copy goes out again, unchanged; counted either way. -/
def Work.resend (w : Work) (m : Msg) : Work :=
  let w := w.netCnt 7
  match resendCopy w.sl.copies m with
  | some c => w.emit (.again c)
  | none => w

/-- What a give-up takes in the place of the message that did not come (Table 18-5): poisoned zeros for data, and a new SnpCensus for a
report. -/
def Work.giveUp (w : Work) (g : Shared) (m : Msg) : Work :=
  if m.cls = clsDat ∧ m.cmd = 3 then w.wrData g m
  else if m.cls = clsDat ∧ m.cmd = 2 then w.dataFromMem g m
  else if m.cls = clsRsp ∧ m.cmd = 3 then
    match w.sl.jobs.find? (fun j => 320 + j.slot == m.txid.toNat && j.step == 4) with
    | some j => (w.sendCensus g j m.src.toNat).upd fun sl => { sl with jobs := sl.jobs.map fun y : CenJob => if y.slot == j.slot then
        { y with agents := y.agents.map fun b : CenAgent => if b.agent == m.src.toNat then { b with sentAt := g.now, tries := 0 } else b } else y }
    | none => w
  else w

/-- RESEND_TIMEOUT of the k-th failed packet, 1 µs after its last Resend (R535, Table 18-5): a second Resend, then the give-up, which a
slice in replay or sink mode holds in its receive queue like the message itself (R427, R428). -/
def Work.resendTimeout (w : Work) (g : Shared) (k : Nat) : Work :=
  match (w.sl.rsends[k]?).filter (·.due g.now) with
  | none => w
  | some x =>
    let m := x.msg (sliceNode w.n)
    if x.sent = 1 then
      (w.send g none (resendFor m)).upd fun s => { s with rsends := s.rsends.modify k fun y => { y with sent := 2, at_ := g.now } }
    else
      let w := ((w.netCnt 3).netRec 4 (x.gaveUp m)).upd fun s =>
        { s with rsends := s.rsends.modify k fun y => { y with left := some 2 } }
      if w.sl.replay || w.sl.sink then w.upd fun s => { s with heldRx := s.heldRx ++ [{ pkt := [], node := sliceNode w.n, given := some m }] }
      else w.giveUp g m

end Sys2Proof.Machine
end

