-- ==== Sys2Proof/Machine/CensusRun.lean ====
section
/-! DEFINITION. Census from the sending of its snoops to the rebuilt entries (Table 13-10 steps 2 to 6, R410 to R418). -/

namespace Sys2Proof.Machine

/-- What precedes the snoops of a job has happened (Table 13-10 step 2, R417 step 2). -/
def Slice.cenReady (s : Slice) (g : Shared) (j : CenJob) : Bool :=
  match j.kind with
  | .slice => s.trk.all (fun t => t.stat == .compSent) && s.collapses.isEmpty && s.lsh.isEmpty && s.rcl.isEmpty && s.owed.isEmpty
  | _ =>
    let inSet := fun (l : Line) => lpSet (g.lp l) == j.set
    !s.trk.any (fun t => inSet t.req.line && decide (t.seq < j.markSeq) && t.stat != .compSent) &&
    !s.lsh.any (fun l => inSet l.line) &&
    !s.rcl.any (fun r => inSet r.line) && !s.collapses.any (fun c => inSet c.line) && !s.owed.any (fun r => inSet r.1)

/-- Array words that a slice census clears: directory ways, stencil rows, metadata and the hash index (R417 step 3). -/
def cenClears (g : Shared) (a : Nat) : Bool :=
  let bank := if a < 2 ^ 20 then a / 32768 else (a - 2 ^ 20) / 160
  decide (bank < g.dirw + g.stnw) || (decide (16 ≤ bank) && decide (bank ≤ 25))

/-- A census job changed. -/
def Work.updJob (w : Work) (slot : Nat) (f : CenJob → CenJob) : Work :=
  w.upd fun s => { s with jobs := s.jobs.map fun j => if j.slot == slot then f j else j }

/-- CENSUS_SNOOP_START of job slot `j` (Table 13-10 step 3, R417 steps 3 and 4). -/
def Work.cenSnoop (w : Work) (g : Shared) (slot : Nat) : Work :=
  match w.sl.jobs.find? (fun j => j.slot == slot && j.step == 2) with
  | none => w
  | some j =>
    if !w.sl.cenReady g j then w else
      let w := if j.kind = .slice then
          (w.charge g (32768 * g.ecost 10)).upd fun s => { s with
            mem := s.mem.filter (fun x => !cenClears g x.1), single := [], stq := [], stwait := [], collapses := [], used := [],
            lostWords := s.lostWords.map fun x => if cenClears g x.1 then (x.1, .census) else x }
        else w
      let as_ := g.cachers
      let w := as_.foldl (fun w a => w.sendCensus g j a) w
      w.updJob slot fun j => { j with step := 4, agents := as_.map fun a => { agent := a, sentAt := g.now } }

/-- The entry that a line's records give, or a conflict (Table 13-11). -/
def cenClassify (recs : List CenRec) : Option EntNew :=
  let of_ := fun (st : BitVec 3) => (recs.filter (·.st == st)).map (·.agent)
  let ss := of_ 1; let es := of_ 2 ++ of_ 4; let os := of_ 3
  match es, os, ss with
  | [], [], [] => some { st := .i }
  | [], [], l => some { st := .s, sharers := vecOf l }
  | [a], [], [] => some (EntNew.x a false)
  | [], [a], [] => some (EntNew.x a false)
  | [], [a], l => some { st := .o, owner := a, sharers := vecOf l }
  | _, _, _ => none

/-- A line taken into the recall buffer by census (R413, R414): with a free entry. -/
def Work.cenRecall (w : Work) (g : Shared) (line : Line) (st : DirSt) (agents : List Nat) (kind : RecallKind) : Work :=
  match w.sl.freeRecall with
  | some no => w.startRecall g no line st none (sortNat agents.eraseDups) kind none
  | none => w

/-- The event of a census conflict (Table 16-3): one record, or a series of up to 20 reporters a record. -/
def Work.conflictRec (w : Work) (line : Line) (recs : List CenRec) : Work :=
  let words := fun (l : List CenRec) =>
    let v : BitVec 256 := (l.zipIdx.map fun (r, i) => BitVec.ofNat 256 ((r.agent + r.st.toNat * 512) * 2 ^ (12 * (i % 5) + 64 * (i / 5)))).foldl (· ||| ·) 0
    (List.range 4).map fun k => ((v >>> (64 * k)).setWidth 64 : Word)
  w.emit (.ledger ((List.range ((recs.length + 19) / 20)).map fun k =>
    { typ := 6, sub := 4, data := (put line.toNat 0 ||| put recs.length 42) :: words ((recs.drop (20 * k)).take 20) }))

/-- What step 5 of Table 13-10 makes of a job's records: the lines in conflict (R413), the lines recalled and the lines kept (R414). -/
def CenJob.rebuild (j : CenJob) (g : Shared) : List Line × List (Line × EntNew) × List (Line × EntNew) :=
  let lines := sortBy (fun a b : Line => decide (a.toNat ≤ b.toNat)) (j.recs.map (·.line)).eraseDups
  let ofLine := fun (l : Line) => j.recs.filter (·.line == l)
  let good := lines.filterMap fun l => (cenClassify (ofLine l)).bind fun e => if e.st == .i then none else some (l, e)
  let cap := if j.kind = .set then g.dirw else 1
  let single := fun (x : Line × EntNew) => x.2.st == .s && vecCount x.2.sharers == 1
  let ranked := good.filter single ++ good.filter (!single ·)
  let out := ranked.take (good.length - cap)
  (lines.filter fun l => cenClassify (ofLine l) == none, out, good.filter (!out.contains ·))

/-- The records of a line leave their build slot with the line. -/
def Work.cenDone (w : Work) (slot : Nat) (line : Line) : Work :=
  w.updJob slot fun x => { x with recs := x.recs.filter (·.line != line) }

/-- Table 13-10 steps 5 and 6 for a line or set census whose agents have all answered. The recalls go out as recall buffer entries are
free, and the writing waits for the last of them (R414). It claims one slot of the emergency requester (R411), with a background tracker
(R260). Writing I is charged by CENSUS alone, a rebuilt entry by UPDATE too (DESIGN CHOICE, log entry 107). -/
def Work.cenWrite (w : Work) (g : Shared) (j : CenJob) : Work :=
  let (conf, out, keep) := j.rebuild g
  let w := conf.foldl (fun w l =>
    if w.sl.freeRecall.isNone then w else
      let rs := j.recs.filter (·.line == l)
      let w := w.cenRecall g l .i (rs.map (·.agent)) .conflict
      let w := (w.upd fun s => { s with cenc := bump 4 s.cenc }).conflictRec l rs
      (w.barkK 5).cenDone j.slot l) w
  let w := out.foldl (fun w x =>
    if w.sl.freeRecall.isNone then w else
      ((w.cenRecall g x.1 x.2.st x.2.holders .evict).upd fun s => { s with cenc := bump 5 s.cenc }).cenDone j.slot x.1) w
  let left := w.sl.jobs.any fun x => x.slot == j.slot && x.recs.any fun r => !keep.any (·.1 == r.line)
  if left || !w.sl.cenFree then w else
    let ways := if j.kind = .set then List.range g.dirw else [j.way]
    let w := ways.foldl (fun w v => w.upd fun s => (s.storeD (entAddr j.set v) 0).cenWrote [entAddr j.set v]) w
    let w := (ways.zip keep).foldl (fun w vx => w.putEnt g (some (320 + j.slot)) w.sl.seq none vx.2.1 j.set vx.1 vx.2.2) w
    let w := (w.charge g (g.ecost 10)).upd fun s => { s with claim := s.claim + 1 }
    (w.updJob j.slot fun x => { x with step := 6, rebuilt := keep.length }).endJobs

/-- The holder set of a record applied to an entry during a slice census (Table 13-12); `none`: P. A record that names a holder already
recorded in the same state changes nothing (R410); an entry in X does not tell E from M. -/
def cenApply (e : EntNew) (st : BitVec 3) (a : Nat) : Option EntNew :=
  if (e.st == .x && e.owner == a && (st == 2 || st == 4)) || (e.st == .o && e.owner == a && st == 3) then some e else
  match e.st, st.toNat with
  | .i, 1 => some { st := .s, sharers := vecAdd 0 a }
  | .i, 3 => some { st := .o, owner := a }
  | .i, _ => some (EntNew.x a false)
  | .s, 1 => some { e with sharers := vecAdd e.sharers a }
  | .s, 3 => some { st := .o, owner := a, sharers := vecDel e.sharers a }
  | .o, 1 => some { e with sharers := vecAdd e.sharers a }
  | .p, _ => some e
  | _, _ => none

/-- One record applied during a slice census (R418), or none while it waits for a recall buffer entry. -/
def Work.cenRecord (w : Work) (g : Shared) (j : CenJob) (r : CenRec) : Option Work :=
  let lp := g.lp r.line
  let set := lpSet lp
  let tag := lpTag lp
  let w := w.bgWords g (w.sl.lookupWords g r.line)
  let put1 := fun (w : Work) (v : Nat) (n : EntNew) =>
    if n.st == .o && n.sharers == 0 then w.putWord g (some (320 + j.slot)) set v (n.inlineWord tag)
    else w.putEnt g (some (320 + j.slot)) w.sl.seq none r.line set v n
  match w.sl.findWay g lp with
  | some v =>
    let e := w.sl.effEnt g set v
    if e.st == .p then some w
    else match cenApply e r.st r.agent with
      | some n => some (put1 w v n)
      | none => some (w.markWay g j.slot set v false j.cjob.toNat)
  | none =>
    match (List.range g.dirw).find? (w.sl.freeWay g set) with
    | some v => match cenApply { st := .i } r.st r.agent with | some n => some (put1 w v n) | none => some w
    | none =>
      let st := ((cenApply { st := .i } r.st r.agent).map (·.st)).getD .i
      if w.sl.freeRecall.isNone then none
      else some ((w.cenRecall g r.line st [r.agent] .evict).upd fun s => { s with cenc := bump 5 s.cenc })

/-- Records applied in their order; from the first that must wait on, they wait in the job (R418). -/
def Work.cenRecords (w : Work) (g : Shared) (j : CenJob) (l : List CenRec) : Work :=
  let x := l.foldl (fun (x : Work × List CenRec) r =>
    if x.2.isEmpty then (match x.1.cenRecord g j r with | some w => (w, []) | none => (x.1, [r])) else (x.1, x.2 ++ [r])) (w, [])
  x.1.updJob j.slot fun y => { y with recs := x.2 }

/-- A slice census caused since has cancelled job `j` (R407). -/
def Slice.overtaken (s : Slice) (j : CenJob) : Bool := s.jobs.any fun x => x.kind == .slice && x.cjob != j.cjob

/-- The directory addresses that can hold other than a blank word. -/
def Slice.setAddrs (s : Slice) (g : Shared) : List Nat :=
  let a := s.entAddrs g
  a ++ ((s.stuck.filterMap fun b => s.unplace b.1).filter fun x => decide (x / 32768 < g.dirw)).eraseDups.filter (!a.contains ·)

/-- A line census queued for a way left in P, with its CJOB in the way (R417 step 6); the queue's limit is that of R407. -/
def Work.cenRequeue (w : Work) (g : Shared) (j : CenJob) (a : Nat) : Work :=
  if w.sl.overtaken j then w else
    let c := w.sl.cjob
    let w := w.census g .line (a % 32768) (a / 32768) (w.sl.entLine g (a % 32768) (a / 32768))
    if w.sl.overtaken j then w else (w.charge g (g.ecost 1)).upd fun s => (s.storeD a (pWord (eTag (s.readD a)) false c.toNat)).cenWrote [a]

/-- R417 steps 6 and 7. The sets read are those that hold an entry; a word that cannot be read causes its set census (R394), and a new slice
census takes the place of this one. -/
def Work.cenSliceEnd (w : Work) (g : Shared) (j : CenJob) : Work :=
  let w := w.updJob j.slot fun x => { x with step := 6 }
  let w := (w.charge g (32768 * g.ecost 10)).bgWords g (w.sl.setAddrs g)
  let order := (w.sl.entAddrs g).filter fun a => (w.sl.readC a).1.usable
  let w := order.foldl (fun w a =>
    let e := w.sl.readD a
    if eState e == 3 && !eForm e && eCnt e == 0 then
      (w.charge g (g.ecost 1)).upd fun s => (s.storeD a ((EntNew.x (eSlot e 0) (ePred e)).inlineWord (eTag e))).cenWrote [a]
    else w) w
  let rebuilt := (order.filter fun a => eState (w.sl.readD a) != 0 && eState (w.sl.readD a) != 5).length
  let w := (order.filter fun a => eState (w.sl.readD a) == 5).foldl (fun w a => w.cenRequeue g j a) w
  if w.sl.overtaken j then w else
    let w := w.upd fun s => { s with
      jobs := s.jobs.filter (·.slot != j.slot), emergency := false, slcp := false,
      cenc := bump 3 (bump 2 s.cenc) rebuilt }
    (w.journal 6 1 (320 + j.slot) 0).ledger 6 2 [put j.cjob.toNat 0 ||| put 2 12 ||| put rebuilt 16 ||| put j.ignored 40]

/-- A job whose agents have all answered goes on (Table 13-10 step 5, R417 step 6), once the records that waited are applied. -/
def Work.cenTry (w : Work) (g : Shared) (slot : Nat) : Work :=
  match w.sl.jobs.find? (fun j => j.slot == slot && j.step == 4) with
  | none => w
  | some j =>
    let w := if j.kind = .slice ∧ !j.recs.isEmpty then w.cenRecords g j j.recs else w
    if !j.agents.all CenAgent.answered then w
    else if j.kind ≠ .slice then w.cenWrite g j
    else if w.sl.jobs.any (fun x => x.slot == slot && !x.recs.isEmpty) then w
    else w.cenSliceEnd g j

/-- CENSUS_JOB_START (R407): a queued job starts when a slot and its build slots are free; a job that waited for recall
entries goes on. -/
def Work.cenStart (w : Work) (g : Shared) : Work :=
  let w := w.sl.jobs.foldl (fun w j => w.cenTry g j.slot) w
  match w.sl.jobq with
  | [] => w
  | q :: rest =>
    if w.sl.jobs.length < 8 ∧ !w.sl.slcp ∧ w.sl.cenFree ∧ w.sl.buildUsed g + q.kind.slots g ≤ 128 then
      (w.upd fun s => { s with jobq := rest }).startJob g q
    else w

/-- CENSUS_REPORT (R408 to R410). A report that the home holds already is discarded and counted (R439). -/
def Work.cenReport (w : Work) (g : Shared) (m : Msg) : Work :=
  let p := (m.units.headD 0).toNat
  let cj : BitVec 12 := BitVec.ofNat 12 p
  let rseq := p / 2 ^ 16 % 2 ^ 16
  let last := p / 2 ^ 32 % 2 == 1
  let nrec := p / 2 ^ 36 % 16
  let a := m.src.toNat
  match w.sl.jobs.find? (fun j => 320 + j.slot == m.txid.toNat && j.cjob == cj && j.step == 4) with
  | none => w.stray g m
  | some j =>
    match j.agents.find? (·.agent == a) with
    | none => w.unexpected m
    | some ca =>
      if ca.rseqs.contains rseq then w.upd fun s => { s with rdup := satInc s.rdup } else
        let recs := (List.range nrec).map fun k =>
          let u := ((m.units.drop 1).getD (k / 2) 0).toNat / 2 ^ (64 * (k % 2)) % 2 ^ 64
          ({ line := BitVec.ofNat 42 u, agent := a, st := BitVec.ofNat 3 (u / 2 ^ 42) } : CenRec)
        let inReq := fun (r : CenRec) =>
          1 ≤ r.st.toNat && r.st.toNat ≤ 4 &&
          (match j.kind with
           | .line => r.line == j.line
           | .set => lpSlice (g.lp r.line) == w.sl.logical && lpSet (g.lp r.line) == j.set
           | .slice => lpSlice (g.lp r.line) == w.sl.logical)
        let okRecs := (recs.filter inReq).eraseDups
        let bad := recs.filter (!inReq ·)
        let w := (w.ansRec (320 + j.slot) (some m)).upd fun s => { s with cenc := bump 5 s.cenc bad.length }
        let w := match bad with
          | r :: _ => if ca.ignored then w else w.ledger 6 3 [put cj.toNat 0 ||| put a 16 ||| put r.st.toNat 28, put r.line.toNat 0]
          | [] => w
        let w := w.updJob j.slot fun x => { x with
          ignored := x.ignored + bad.length,
          recs := if j.kind = .slice then x.recs else x.recs ++ okRecs.filter (fun r => !x.recs.contains r),
          agents := x.agents.map fun b : CenAgent => if b.agent == a then
            { b with rseqs := rseq :: b.rseqs, lastAt := if last then some rseq else b.lastAt, ignored := b.ignored || !bad.isEmpty } else b }
        let w := if j.kind = .slice then w.cenRecords g j (j.recs ++ okRecs) else w
        w.cenTry g j.slot

end Sys2Proof.Machine
end

