-- ==== Sys2Proof/Machine/Barrier.lean ====
section
/-! DEFINITION. Barriers: arrivals, reports, releases, timeouts and completion barriers (R206 to R218). -/

namespace Sys2Proof.Machine

/-- The participants of a cluster group (R208). -/
def Shared.clusterOf (g : Shared) (grp : Nat) : List Nat :=
  (List.range 512).filter fun a => (g.port a).kind != 0 && (g.port a).group == grp && (g.port a).part
/-- The participants of a pack within a group (R208, R212). -/
def Shared.packIn (g : Shared) (p grp : Nat) : List Nat :=
  (List.range 512).filter fun a => (g.port a).kind != 0 && (g.port a).group == grp && (g.port a).packNo == p && (g.port a).part
/-- The groups of a pack that have a participant (R212). -/
def Shared.packGroups (g : Shared) (p : Nat) : List Nat :=
  (List.range 64).filter fun k => !(g.packIn p k).isEmpty

/-- The groups in which the pack has an agent (R214). -/
def Shared.agentGroups (g : Shared) (p : Nat) : List Nat :=
  (List.range 64).filter fun k => (List.range 512).any fun a => (g.port a).kind != 0 && (g.port a).group == k && (g.port a).packNo == p

/-- The Barrier of an arrival, for its answer. -/
def BarArr.req (g : Shared) (b : BarArr) : Req :=
  { kind := .barrier, port := b.port, txid := b.txid, pack := BitVec.ofNat 4 (g.port b.port).packNo, line := 0, f := 0 }

/-- Arrivals of an instance at this barrier home: agent, cluster group, or system pack. -/
def Slice.arrivals (s : Slice) (g : Shared) (scope key : Nat) : List BarArr :=
  s.bar.filter fun b => b.scope.toNat == scope &&
    (match scope with
     | 0 => b.port == key
     | 1 => (g.port b.port).group == key
     | _ => (g.port b.port).packNo == key)

/-- A change of a barrier arrival journaled (R210). -/
def Work.barLog (w : Work) (b : BarArr) : Work := w.journal 6 1 0xFFF b.port

/-- Arrivals answered, their entries cleared and the changes journaled. -/
def Work.barClear (w : Work) (l : List BarArr) : Work :=
  (l.foldl Work.barLog w).upd fun s => { s with bar := s.bar.filter (!l.contains ·) }

/-- Arrivals brought to a stage, journaled. -/
def Work.barStage (w : Work) (l : List BarArr) (k : Nat) : Work :=
  (l.foldl Work.barLog w).upd fun s => { s with bar := s.bar.map fun x : BarArr => if l.contains x then { x with stage := k } else x }

/-- Comp OK to each arrival, entries cleared (R212). -/
def Work.barComp (w : Work) (g : Shared) (l : List BarArr) : Work :=
  (l.foldl (fun w b => w.comp g none (b.req g) 0 0 false) w).barClear l

/-- Error to each arrival, entries cleared (R211, R214). -/
def Work.barError (w : Work) (g : Shared) (l : List BarArr) (code : Nat) : Work :=
  (l.foldl (fun w b => w.error g none (b.req g) code) w).barClear l

/-- A slice-link message sent, charged LINK. -/
def Work.linkSend (w : Work) (g : Shared) (m : Link) : Work := (w.charge g (g.ecost 9)).emit (.link m)

/-- A home's report to the coordinator when every participant of pack `p` in its group has arrived and it has not reported (R212). -/
def Work.barTell (w : Work) (g : Shared) (p : Nat) : Work :=
  let all := w.sl.arrivals g 2 p
  match all with
  | [] => w
  | b :: _ =>
    if all.any (·.stage != 0) || !(g.packIn p w.sl.logical).all (fun a => all.any (·.port == a)) then w
    else (w.linkSend g (.barReport (g.phys p) w.n p w.sl.logical b.gen (all.any (·.mem)) all.length)).barStage all 1

/-- The reports that fall due when a participant has gone (R447, R450, R212). -/
def Work.barTells (w : Work) (g : Shared) : Work := (List.range 16).foldl (fun w p => w.barTell g p) w

/-- BARRIER: an arrival at a barrier home (R207, R210, R211, R216). For agent scope a waiting instance of any agent of the group with
another GEN bars it (R211). The WRONG_HOME of R207 writes the record of R21 (DEDUCED, log entry 103). -/
def Work.barArrive (w : Work) (g : Shared) (m : Msg) : Work :=
  let w := w.ctlCredit m.src.toNat
  let p := g.port m.src.toNat
  let scope := fld m.f 1 0
  let gen : BitVec 4 := BitVec.ofNat 4 (fld m.f 7 4)
  let mem := m.f.getLsbD 2
  let r : Req := { kind := .barrier, port := m.src.toNat, txid := m.txid, pack := m.pack, line := 0, f := m.f }
  if g.stop then w.error g none r 0x1C
  else if w.sl.dead then w.error g none r 0x1B
  else if w.sl.retrying g ∨ g.gated p.packNo then w.retryDrbk g r
  else if w.sl.logical ≠ p.group then (w.ledger 1 0x10 [reqWord r]).error g none r 0x10
  else
    let key := match scope with | 0 => r.port | 1 => p.group | _ => p.packNo
    let same := (w.sl.arrivals g scope key).filter fun b => b.stage ≠ 2
    let others := if scope = 0 then w.sl.bar.filter fun b => b.scope == 0 && b.stage != 2 else same
    if (scope ≠ 0 ∧ !p.part) ∨ w.sl.bar.any (·.port == r.port) ∨ others.any (·.gen != gen) then w.error g none r 0x18
    else
      let due := same.head?.elim (g.now + fld (g.pack p.packNo).bar 51 32 * 1000) (·.due)
      let b : BarArr := { port := r.port, txid := m.txid, scope := BitVec.ofNat 2 scope, mem := mem, gen := gen, at_ := g.now, due := due }
      let w := (w.barLog b).upd fun s => { s with bar := s.bar ++ [b] }
      if scope ≠ 2 then w else
        let w := if same.isEmpty then w.linkSend g (.barFirst (g.phys p.packNo) w.n p.packNo b.at_ b.due) else w
        w.barTell g key

/-- The coordinator's record of a pack's instance that has not timed out. -/
def Slice.coordOf (s : Slice) (p : Nat) : Coord := (s.coord.find? fun c => c.pack == p && !c.timedOut).getD { pack := p }
/-- The record of the instance that has timed out and whose replies are awaited (R214). -/
def Slice.lateOf (s : Slice) (p : Nat) : Option Coord := s.coord.find? fun c => c.pack == p && c.timedOut
/-- A record changed. -/
def Slice.setCoord (s : Slice) (c : Coord) : Slice :=
  { s with coord := s.coord.filter (fun x => x.pack != c.pack || x.timedOut != c.timedOut) ++ [c] }
/-- A record discarded: of the instance that has timed out, or of the other. -/
def Slice.delCoord (s : Slice) (p : Nat) (late : Bool := false) : Slice :=
  { s with coord := s.coord.filter (fun x => x.pack != p || x.timedOut != late) }

/-- What home `src` tells the coordinator is of the instance that has timed out: its reply, which it sends when it clears that instance, has
not come (R214). -/
def Slice.overdue (s : Slice) (p src : Nat) : Bool :=
  match s.lateOf p with
  | some c => !c.replies.any (·.1 == src)
  | none => false

/-- SL_BARRIER_REPORT at the coordinator (R211, R212, R214). A report with another GEN clears the arrivals that its home has told of. -/
def Work.barReport (w : Work) (g : Shared) (l : Link) : Work :=
  match l with
  | .barFirst _ src p t due =>
    if w.sl.overdue p src then w else
      w.upd fun s => let c := s.coordOf p; s.setCoord { c with firsts := c.firsts ++ [{ home := src, at_ := t, due := due }] }
  | .barReport _ src p grp gen mem arr =>
    if w.sl.overdue p src then w else
      let c := w.sl.coordOf p
      let x : CoordGrp := { grp := grp, arr := arr, mem := mem }
      match c.gen with
      | some h => if h ≠ gen then (w.upd fun s => s.setCoord { c with firsts := c.firsts.filter (·.home != src) }).linkSend g (.barMismatch src p)
                  else w.upd fun s => s.setCoord { c with groups := x :: c.groups.filter (·.grp != grp) }
      | none => w.upd fun s => s.setCoord { c with gen := some gen, groups := [x] }
  | _ => w

/-- Releases to the barrier homes of a system instance that have reported to it (R212). -/
def Work.sysRelease (w : Work) (g : Shared) (p : Nat) : Work :=
  let ks := sortBy (fun a b => decide (a ≤ b)) ((w.sl.coordOf p).groups.map (·.grp))
  let w := ks.foldl (fun w k => w.linkSend g (.barRelease (g.phys k) p)) w
  w.upd fun s => s.delCoord p

/-- BARRIER_RELEASE of an instance (R212, R213): `act` are the active slices. An instance with MEM 1 asks every active
slice for a memory sync first (R217). -/
def Work.barRelease (w : Work) (g : Shared) (scope key : Nat) (act : List Nat) : Work :=
  if scope = 2 then
    let c := w.sl.coordOf key
    if c.gen.isNone ∨ c.released ∨ !(g.packGroups key).all (fun k => c.groups.any (·.grp == k)) then w else
      let w := w.upd fun s => { s.setCoord { c with released := true, syncs := if c.mem then act else [] } with sync := bump 0 s.sync }
      if c.mem then act.foldl (fun w n => w.linkSend g (.memSync n w.n 2 key)) w else w.sysRelease g key
  else
    let l := (w.sl.arrivals g scope key).filter (·.stage == 0)
    let all := if scope = 0 then [key] else g.clusterOf key
    if l.isEmpty ∨ !all.all (fun a => l.any (·.port == a)) then w else
      let w := w.upd fun s => { s with sync := bump 0 s.sync }
      if l.any (·.mem) then
        let w := (w.barStage l 2).upd fun s => { s with
          lsync := s.lsync ++ [{ scope := scope, key := key, syncs := act }] }
        act.foldl (fun w n => w.linkSend g (.memSync n w.n scope key)) w
      else w.barComp g l

/-- SL_BARRIER_RELEASE at a barrier home. -/
def Work.barReleased (w : Work) (g : Shared) (p : Nat) : Work :=
  w.barComp g (w.sl.arrivals g 2 p)

/-- SL_GEN_MISMATCH at a barrier home (R211). -/
def Work.barMismatch (w : Work) (g : Shared) (p : Nat) : Work :=
  w.barError g ((w.sl.arrivals g 2 p).filter (·.stage == 1)) 0x18

/-- The lowest-numbered participant that has not arrived; 512 when none is missing. -/
def missingOf (all : List Nat) (l : List BarArr) : Nat := ((all.find? fun a => !l.any (·.port == a))).getD 512

/-- The record of a barrier timeout and the pack's Bark source (R214). MISSING is 0 when no participant is missing (DESIGN CHOICE,
log entry 64). -/
def Work.barTimeRec (w : Work) (scope gen key arr missing pack : Nat) : Work :=
  ((w.upd fun s => { s with sync := bump 1 s.sync }).ledger 4 1
    [put scope 0 ||| put gen 4 ||| put key 8 ||| put arr 16 ||| put (missing % 512) 32]).emit (.bark (768 + 32 + pack))

/-- BARRIER_TIMEOUT (R214): due when PCK_BAR.TMO, as it stood when the instance began, has passed
since the first arrival of an unreleased instance. The notice goes to the barrier home of every group in which the pack has an agent; a
further instance of the pack times out once every reply to it is in. -/
def Work.barTimeout (w : Work) (g : Shared) (scope key : Nat) : Work :=
  if scope = 2 then
    let c := w.sl.coordOf key
    match c.first with
    | some x =>
      if c.released ∨ g.now < x.due ∨ (w.sl.lateOf key).isSome then w else
        (g.agentGroups key).foldl (fun w k => w.linkSend g (.barTimeout (g.phys k) key))
          (w.upd fun s => (s.delCoord key).setCoord { c with timedOut := true })
    | none => w
  else
    let l := (w.sl.arrivals g scope key).filter (·.stage == 0)
    match l with
    | [] => w
    | b :: _ =>
      let p := (g.port b.port).packNo
      if g.now < b.due then w else
        let all := if scope = 0 then [key] else g.clusterOf key
        (w.barError g l 0x19).barTimeRec scope b.gen.toNat (if scope = 0 then (g.port b.port).group else key) l.length
          (missingOf all l) p

/-- SL_TIMEOUT_NOTICE at a barrier home (R214). -/
def Work.barNotice (w : Work) (g : Shared) (p : Nat) : Work :=
  let l := w.sl.arrivals g 2 p
  let miss := missingOf (g.packIn p w.sl.logical) l
  (w.barError g l 0x19).linkSend g (.barReply (g.phys p) w.n p l.length miss)

/-- SL_TIMEOUT_REPLY at the coordinator (R214): once every reply is in, the record and the Bark source. `missing` is
512 when no participant of the group is missing. GEN is 0 when no report has come, for then no arrival has given the instance its
GEN (R211; DESIGN CHOICE, log entry 64). -/
def Work.barReply (w : Work) (g : Shared) (p src arr missing : Nat) : Work :=
  match w.sl.lateOf p with
  | none => w
  | some c =>
    let c := { c with replies := (src, arr, missing) :: c.replies.filter (·.1 != src) }
    if (g.agentGroups p).all (fun k => c.replies.any (·.1 == g.phys k)) then
      let arrs := (c.replies.map (·.2.1)).sum
      let miss := c.replies.foldl (fun m x => Nat.min m x.2.2) 512
      (w.upd fun s => s.delCoord p true).barTimeRec 2 ((c.gen.getD 0).toNat) p arrs miss p
    else w.upd fun s => s.setCoord c

/-- A drain of the pack discards its unreleased instances (R216). `kept`: its system instance at this home is released or has timed out,
and ends as R212 or R214 states. -/
def Work.barDrain (w : Work) (g : Shared) (p : Nat) (kept : Bool) : Work :=
  let l := w.sl.bar.filter fun b => (g.port b.port).packNo == p && b.stage != 2 && !(kept && b.scope == 2)
  let w := (l.foldl (fun w b => w.retry g none (b.req g) 0) w).barClear l
  if (w.sl.coordOf p).released then w else w.upd fun s => s.delCoord p

/-- The same at a spare that holds a failed slice's barrier state, which the failed slice answers for. -/
def Work.barForget (w : Work) (g : Shared) (p : Nat) (kept : Bool) : Work :=
  let w := w.upd fun s => { s with bar := s.bar.filter fun b => !((g.port b.port).packNo == p && b.stage != 2 && !(kept && b.scope == 2)) }
  if (w.sl.coordOf p).released then w else w.upd fun s => s.delCoord p

/-- SL_MEMSYNC_REQUEST: far registers are written back, and the MemWr and recalls outstanding are noted (R217). -/
def Work.memSync (w : Work) (g : Shared) (coord scope key : Nat) : Work :=
  let w := w.sl.far.foldl (fun w f => w.farWriteBack g f.no) w
  let isWr := fun (e : Exp) => e.kind == .mem && e.msg.cmd == 0x11
  let noted := (w.sl.trk.filter (fun t => t.exp.any isWr)).map (fun t => (t.no, t.seq)) ++
    w.sl.rcl.map (fun r => (r.no, r.seq)) ++ w.sl.far.map (fun f => (328 + f.no, f.seq))
  w.upd fun s => { s with msync := s.msync ++ [{ coord := coord, scope := scope, key := key, noted := noted }] }

/-- Everything that a memory sync noted has finished. -/
def Slice.syncDone (s : Slice) (m : MSync) : Bool :=
  m.noted.all fun (htx, seq) =>
    if htx < 240 then !s.trk.any (fun t => t.no == htx && t.seq == seq && t.exp.any fun e => e.kind == .mem)
    else if htx < 288 then !s.rcl.any (fun r => r.no == htx && r.seq == seq)
    else !s.far.any (fun f => 328 + f.no == htx && f.seq == seq)

/-- A slice's report of a memory sync at the coordinator; with the last one the Comps or releases go out (R212). -/
def Work.syncReport (w : Work) (g : Shared) (from_ : Nat) (m : MSync) : Work :=
  if m.scope = 2 then
    let c := w.sl.coordOf m.key
    let c := { c with syncs := c.syncs.filter (· != from_) }
    if c.released then
      let w := w.upd fun s => s.setCoord c
      if c.syncs.isEmpty then w.sysRelease g m.key else w
    else w
  else
    match w.sl.lsync.find? (fun x => x.scope == m.scope && x.key == m.key) with
    | none => w
    | some x =>
      let y := { x with syncs := x.syncs.filter (· != from_) }
      if y.syncs.isEmpty then
        (w.upd fun s => { s with lsync := s.lsync.erase x }).barComp g ((w.sl.arrivals g m.scope m.key).filter (·.stage == 2))
      else w.upd fun s => { s with lsync := s.lsync.map fun z => if z == x then y else z }

end Sys2Proof.Machine
end

