-- ==== Sys2Proof/Machine/Background.lean ====
section
/-! DEFINITION. Background work of a slice and its admission phase: directory walks, patrol scrub, field repair,
compaction, and Table 9-1 (R74, R75, R233, R260 to R262, R388 to R400). -/

namespace Sys2Proof.Machine

/-! ### Walks of the directory (R49, R450, R451) -/

/-- The number by which a recall names the walk it belongs to. -/
def WalkWhy.tag : WalkWhy → Nat
  | .fence p => p
  | .packReset p => 16 + p
  | .retire a => 32 + a
  | .job k => 544 + k

/-- A job's summary in this slice changed. -/
def Slice.sum (s : Slice) (tag : Nat) (f : BSum → BSum) : Slice :=
  { s with bsum := tset {} s.bsum tag (f (tget {} s.bsum tag)) }

/-- The holders that a step acts on (R456, R49, R450). -/
def BStep.acts (b : BStep) (g : Shared) (a : Nat) : Bool :=
  (match b.pack with | some p => (g.port a).packNo == p | none => true) &&
  (match b.from_ with | some x => a == x | none => true)

/-- The set is under a set census that is running or queued, or under a slice census: its lines are not known before it ends. -/
def Slice.setHeld (s : Slice) (g : Shared) (set : Nat) : Bool :=
  s.slcp || s.jobq.any (fun q => q.kind == .set && q.set == set) ||
  (List.range g.dirw).any fun v => let e := s.readD (entAddr set v); eState e == 5 && eSetw e

/-- A transaction on the line that a line step waits for (R461): a live tracker, but for a request that waits behind the step itself,
another step, a recall or a collapse. -/
def Slice.stepBlocked (s : Slice) (b : BStep) (line : Line) : Bool :=
  s.trk.any (fun t => t.req.line == line && (t.stat == .decided || t.stat == .compSent ||
    (match b.since with | some k => decide (t.seq < k) | none => true))) ||
  s.rcl.any (·.line == line) || s.recalling line || s.collapses.any (·.line == line)

/-- A directory line step with background tracker `no` decided against its entry (R460, Table 15-2), with `false`, or left with `true` while
it waits (R461): for a far register, a live tracker or recall of the line, a leash or a census. -/
def Work.lineStep (w : Work) (g : Shared) (b : BStep) (no : Nat) (line : Line) : Work × Bool :=
  let set := lpSet (g.lp line)
  if w.sl.far.any (·.line == line) then (w.flushFar g line, true)
  else if g.isScratch line then (w, false)
  else if w.sl.stepBlocked b line || w.sl.setHeld g set || w.sl.jobq.any (fun q => q.kind == .line && q.line == line) then (w, true)
  else
    let w := w.bgWords g (w.sl.lookupWords g line)
    match w.sl.wordGate g line with
    | .census (some (_, x, some v)) =>
      ((w.upd fun s => { s with dcnt := bump 7 s.dcnt }).census g .line x v (w.sl.entLine g x v), true)
    | .go =>
      match w.sl.findWay g (g.lp line) with
      | none => (w, false)
      | some v =>
        let e := w.sl.effEnt g set v
        if e.st == .l || e.st == .p then (w, true)
        else
          let act := b.acts g
          let hs := if b.op = 2 then (if (e.st == .x || e.st == .o) && act e.owner then [e.owner] else []) else e.holders.filter act
          if hs.isEmpty then (w, false)
          else
            let owned := fun a => (e.st == .x || e.st == .o) && a == e.owner
            let cmd : Nat → BitVec 5 := fun a => if b.op != 3 && owned a then 4 else 3
            let seq := w.sl.seq
            let w := (w.journal 2 (if hs.length ≤ 3 then 2 else 6) no 0).upd fun s =>
              { s.sum b.tag fun x : BSum => { x with drop := x.drop + hs.length } with
                rcl := s.rcl ++ [{ no := no, seq := seq, line := line, st := e.st, fence := some b.tag }], seq := seq + 1 }
            ((w.decideEnt g no seq none line set v (hs.foldl (fun n a => n.without a) e)).recallSnoops g no line hs cmd, false)
    | _ => (w, true)

/-- The step a walk takes on one matching line. -/
def Walk.step (x : Walk) (line : Line) : BStep :=
  { tag := x.why.tag, op := x.op, pack := x.pack, from_ := (match x.why with | .retire a => some a | _ => none),
    pace := x.pace, work := .line line, begun := true }

/-- The lines of a set that a walk steps on: those of its entries in the walk's range, and those held in a far register (R457, R49,
R179). An entry in P names its line by its TAG (Table 15-2). -/
def Slice.walkLines (s : Slice) (g : Shared) (x : Walk) (set : Nat) : List Line :=
  let here := fun (line : Line) => match x.why with
    | .fence p => (g.pack p).fenceSnap.any fun y => decide (y.1 ≤ linePage line) && decide (linePage line ≤ y.2)
    | _ => match x.range with
      | some (lo, hi) => decide (lo ≤ linePage line) && decide (linePage line ≤ hi)
      | none => true
  let ways := (List.range g.dirw).filterMap fun v =>
    let line := match s.pendingOp set v with | some o => o.line | none => s.entLine g set v
    if (s.effEnt g set v).st != .i && here line then some line else none
  ways ++ (s.far.map (·.line)).filter fun l => lpSet (g.lp l) == set && here l && !ways.contains l

/-- Eight copies of a pattern (R465). -/
def fillLine (p : Word) : BitVec 512 := (List.range 8).foldl (fun v j => v ||| (p.setWidth 512 <<< (64 * j))) 0

/-- A FILL step: the line written where it has storage, or left with `true` while a request for the line admitted earlier is undecided
(R465, R90). -/
def Work.fillStep (w : Work) (g : Shared) (b : BStep) (l : Line) (p : Word) : Work × Bool :=
  if w.sl.trk.any fun t => t.req.line == l && t.undecided && (match b.since with | some k => decide (t.seq < k) | none => true) then (w, true)
  else if g.isScratch l && decide (g.scrWay l < g.scrw) then
    (w.upd fun s => (s.writeLine (scrAddr g l 0) (fillLine p) false).sum b.tag fun x : BSum => { x with visited := x.visited + 1 }, false)
  else (w, false)

/-- A step on one line that has begun: with a background tracker, which it holds from here on, it is done, or waits in the queue (R460,
R461), and H1 requests that then wait for it are counted (R154, Table 6-3). -/
def Work.tryStep (w : Work) (g : Shared) (b : BStep) : Work :=
  match b.no.or (if w.sl.bgFree then pick w.sl.fv (freeNos 240 16 w.sl.bgNos) else none) with
  | none => w
  | some no =>
    let c := { b with no := some no, since := some (b.since.getD w.sl.seq) }
    let w := w.upd fun s => { s with fv := if b.no.isNone then s.fv + 1 else s.fv, bq := s.bq.map fun x => if x == b then c else x }
    let (w, again) := match b.work with
      | .line l => w.lineStep g b no l
      | .fill l p => w.fillStep g b l p
      | _ => (w, false)
    if again then (match b.work.line? with | some l => w.countOrder l | none => w) else w.upd fun s => { s with bq := s.bq.erase c }

/-- The steps on one line that have begun go on in each slice cycle, in their order (R461). -/
def Work.lineSteps (w : Work) (g : Shared) : Work := (w.sl.bq.filter (·.begun)).foldl (fun w b => w.tryStep g b) w

/-- A step on one line begun: queued, counted as visited where it is no FILL, and tried. -/
def Work.beginStep (w : Work) (g : Shared) (b : BStep) : Work :=
  let b := { b with begun := true }
  let w := match b.work with | .line _ => w.upd fun s => s.sum b.tag fun x : BSum => { x with visited := x.visited + 1 } | _ => w
  (w.upd fun s => { s with bq := s.bq ++ [b] }).tryStep g b

/-- One set read by a walk (R457): a line step on every matching line, and the walk goes on to the next set. A set that then needs a
census of all its ways is read again when the census has ended (Table 15-2, row P). -/
def Work.walkSet (w : Work) (g : Shared) (x : Walk) : Work :=
  let set := x.next
  let w := w.bgWords g ((List.range g.dirw).map (entAddr set))
  if w.sl.setHeld g set then w.upd fun s => { s with walks := s.walks.erase x ++ [x] }
  else
    (w.sl.walkLines g x set).foldl (fun w l => w.beginStep g (x.step l))
      (w.upd fun s => { s with walks := s.walks.erase x ++ [{ x with next := set + 1 }] })

/-- A walk has a set to read in the chunks issued to it. -/
def Walk.more (x : Walk) : Bool := decide (x.next < x.stop)

/-- A walk can read its next set now: one is issued, and no census of the whole set is under way. -/
def Slice.walkReady (s : Slice) (g : Shared) (x : Walk) : Bool := x.more && !s.setHeld g x.next

/-- A walk's part in this slice is over: every set read, no step waiting, every recall retired (R51, R458). -/
def Slice.walkOver (s : Slice) (why : WalkWhy) : Bool :=
  !s.walks.any (fun x => x.why == why && decide (x.next < 32768)) &&
  !s.bq.any (fun b => b.tag == why.tag) && !s.rcl.any (fun r => r.fence == some why.tag)

/-- A chunk of a job or walk is complete in this slice (R458). -/
def Slice.chunkOver (s : Slice) (tag : Nat) : Bool :=
  !s.walks.any (fun x => x.why.tag == tag && x.more) && !s.bq.any (fun b => b.tag == tag) &&
  !s.rcl.any (fun r => r.fence == some tag)

/-! ### Patrol scrub and field repair -/

/-- Bank and row of step k of a pass (R388). -/
def scrubPlace : Nat → Nat × Nat := go 30 0
where
  /-- From bank `b` on. -/
  go : Nat → Nat → Nat → Nat × Nat
    | 0, b, _ => (b, 0)
    | f + 1, b, k => if k < bankRows b then (b, k) else go f (b + 1) (k - bankRows b)

/-- Overlay spares of a bank that are assigned. -/
def Slice.overlayUsed (s : Slice) (bank : Nat) : List Nat :=
  (s.repair.filter fun r => r.1 == bank && decide (16 ≤ r.2.2)).map (·.2.2)

/-- A weak row, one on a spare included, repaired into the lowest unassigned overlay spare, its words corrected where they can be
(R399), or its bank found exhausted (R400). -/
def Work.repairRow (w : Work) (bank row : Nat) : Work :=
  match (freeNos 16 4 (w.sl.overlayUsed bank)).head? with
  | some sp =>
    let base := bankAddr bank (8 * row)
    let words := (List.range 8).map fun j => match w.sl.readC (base + j) with
      | (.clean, d) => (base + j, encode72 d (base + j))
      | (.corrected, d) => (base + j, encode72 d (base + j))
      | _ => (base + j, w.sl.fetch (base + j))
    let w := w.upd fun s => { s with repair := (bank, row, sp) :: s.repair, repairDue := s.repairDue.erase (bank, row) }
    let w := if heldBank bank then w else w.upd fun s => words.foldl (fun s x => s.store x.1 x.2) s
    let w := w.upd fun s => { s with lostWords := s.lostWords.filter fun x => x.1 / 8 != base / 8 }
    (w.ledger 5 3 [put bank 0 ||| put row 5 ||| put sp 17]).emit (.overlay bank row sp)
  | none =>
    let first := !w.sl.exh.getLsbD bank
    let w := w.upd fun s => { s with repairDue := s.repairDue.erase (bank, row), exh := s.exh ||| (1#30 <<< bank) }
    if first then w.barkK 3 else w

/-- The end of a scrub pass, judged by the PERIOD with which it began (R390, R393, R398, Table 13-14). -/
def Work.endPass (w : Work) (g : Shared) : Work :=
  let s := w.sl
  let period := s.scPer * 1000000000
  let late := decide (s.scStart + period < g.now)
  let rows := s.scRows.take 16
  let v : BitVec 320 := BitVec.ofNat 320 (s.scCE % 2 ^ 32 + rows.length * 2 ^ 32) |||
    ((rows.zipIdx).map fun (r, i) => BitVec.ofNat 320 (r * 2 ^ (17 * i + 48))).foldl (· ||| ·) 0
  let w := if fld g.scrub 47 32 < s.scCE then
      (w.barkK 2).ledger 5 1 ((List.range 5).map fun k => (v >>> (64 * k)).setWidth 64) else w
  w.upd fun s => { s with
    scPos := 0, scDue := 0, scStart := Nat.max g.now (s.scStart + period), scCE := 0, scRows := [],
    scPasses := s.scPasses + 1, scLate := late, scLatep := if late then satInc s.scLatep else s.scLatep,
    weak := (s.weak.filter (·.2.2)).map fun x => (x.1, x.2.1, false) }

/-- A row is weak and is to be repaired, while its bank is not exhausted (R398 to R400). -/
def Slice.weakRow (s : Slice) (bank row : Nat) : Slice :=
  if s.repairDue.contains (bank, row) || s.exh.getLsbD bank then s else { s with repairDue := s.repairDue ++ [(bank, row)] }

/-- A corrected word found in a row by the patrol pass under way: the row is weak when the pass before found one too, and is a candidate for
the next; of 16 candidates the oldest gives way (R398). -/
def Slice.candidate (s : Slice) (bank row : Nat) : Slice :=
  if s.weak.contains (bank, row, true) then s
  else if s.weak.contains (bank, row, false) then
    ({ s with weak := s.weak.map fun x => if x == (bank, row, false) then (bank, row, true) else x } : Slice).weakRow bank row
  else { s with weak := s.weak.drop (s.weak.length + 1 - 16) ++ [(bank, row, true)] }

/-- A row read and treated as R386, R389, R394 and R398 state, by the patrol or by a SCRUB job: what a job finds is not of the patrol's pass
(R393, R398, R464). -/
def Work.scrubRow (w : Work) (g : Shared) (k : Nat) (patrol : Bool) : Work :=
  let (bank, row) := scrubPlace k
  (List.range 8).foldl (fun w j =>
    let a := bankAddr bank (8 * row + j)
    match w.sl.readC a with
    | (.clean, _) => w
    | (.corrected, d) =>
      let w := (w.charge g (g.ecost 12)).upd fun s => { s.putBack a d with ce := satInc s.ce }
      let w := if patrol then w.upd fun s => ({ s with
          scCE := s.scCE + 1, scRows := if s.scRows.contains k then s.scRows else s.scRows ++ [k] } : Slice).candidate bank row else w
      if (w.sl.readC a).1 != .clean then w.upd fun s => ({ s with stuckc := satInc s.stuckc } : Slice).weakRow bank row else w
    | _ => w.lostWord g a true) w

/-- The first repair that is due (R399). -/
def Work.repairNext (w : Work) (g : Shared) : Work :=
  match w.sl.repairDue with
  | (b, r) :: _ => (w.bgWords g ((List.range 8).map fun j => bankAddr b (8 * r + j)) true).repairRow b r
  | [] => w

/-- One scrub step: a due repair, or the next row of the pass (R388, R389, R398, R399). -/
def Work.scrubStep (w : Work) (g : Shared) : Work :=
  let w := w.charge g (8 * g.ecost 11)
  if !w.sl.repairDue.isEmpty then w.repairNext g
  else
    let k := w.sl.scPos
    let w := (w.scrubRow g k true).upd fun s => { s with scPos := k + 1 }
    if k + 1 = 78104 then w.endPass g else w

/-- SCRUB_STEP_DUE: the due time of the next step of the pass is reached (R388). A pass takes the PERIOD that stands when its first
step falls due, and keeps it (Table 13-14). -/
def Work.scrubDue (w : Work) (g : Shared) : Work :=
  let per := if w.sl.scDue = 0 then fld g.scrub 16 0 else w.sl.scPer
  if w.sl.scDue < 78104 ∧ w.sl.up ∧ w.sl.active ∧ w.sl.scStart + w.sl.scDue * (per * 1000000000) / 78104 ≤ g.now then
    w.upd fun s => { s with scDue := s.scDue + 1, scPer := per }
  else w

/-! ### Compaction -/

/-- One step of stencil compaction (R74, R395), or one metadata read of the walk that rebuilds the free map (Table 13-4), which covers
the row's number and the one 8,192 above it (DESIGN CHOICE, log entry 83). The row's lookup and indexing are the stencil unit's (R67).
-/
def Work.compactStep (w : Work) (g : Shared) : Work :=
  let w := w.charge g (g.ecost 14)
  if w.sl.freeWalk ≠ 0 then
    let k := 8192 - w.sl.freeWalk
    let rows := [k, k + 8192].filter fun r => decide (r < g.rows)
    (w.bgWords g (rows.map metaAddr)).upd fun s =>
      rows.foldl (fun s r => s.mark r (mValid (s.rowMeta r))) { s with freeWalk := s.freeWalk - 1 }
  else
    let r := w.sl.compPos
    let w := w.upd fun s => { s.parity .queue with compPos := if r + 1 < g.rows then r + 1 else 0 }
    let w := w.bgWords g [metaAddr r]
    let m := w.sl.rowMeta r
    if !(w.sl.readC (metaAddr r)).1.usable || !mValid m then w else
      let w := if mRefs m = 1 then w.upd fun s => s.offerSingle r else w
      w.stn g { set := 0, way := 0, line := 0, new := { st := .i }, task := some (.compact r) }

/-- One step of deep compaction: one set, each entry whose row retires given to the stencil unit (R75, R137). -/
def Work.deepStep (w : Work) (g : Shared) (set : Nat) : Work :=
  let w := (w.charge g (g.ecost 13)).bgWords g ((List.range g.dirw).map (entAddr set))
  let w := (List.range g.dirw).foldl (fun w v =>
    match oldRow (w.sl.readD (entAddr set v)) with
    | some r =>
      let w := w.bgWords g [metaAddr r]
      if mRet (w.sl.rowMeta r) then
        w.stn g { set := set, way := v, line := w.sl.entLine g set v, new := { st := .i }, task := some .repoint }
      else w
    | none => w) w
  w.upd fun s => { s with deepPos := if set + 1 < 32768 then some (set + 1) else none }

/-! ### Background turns (R260 to R262) -/

/-- The step interval of a job has passed (R459). -/
def Slice.paced (s : Slice) (pace : Nat) : Bool := pace == 0 || decide (s.bLast + 2 ^ pace ≤ s.cyc)

/-- The queued Burin step that is taken next: the first whose pace allows it (R459). -/
def Slice.bqNext (s : Slice) : Option BStep := s.bq.find? fun b => !b.begun && s.paced b.pace

/-- One Burin step: the first queued step whose pace allows it, or a set read of the first walk with one to read (R459). A line step is
charged WALK, a row read 8 × SCRUB, a FILL line WALK. A SCRUB row leads to its repairs as a patrol row does (R464). -/
def Work.burinStep (w : Work) (g : Shared) : Work :=
  match w.sl.bqNext with
  | some b =>
    let w := w.upd fun s => { s with bLast := s.cyc }
    match b.work with
    | .row k =>
      let w := w.charge g (8 * g.ecost 11)
      if !w.sl.repairDue.isEmpty then w.repairNext g else
      let cj := fun (s : Slice) => s.jobs.map (·.cjob) ++ s.jobq.map (·.cjob)
      let old := cj w.sl
      ((w.upd fun s => { s with bq := s.bq.erase b }).scrubRow g k false).upd fun s =>
        { s.sum b.tag fun x : BSum => { x with visited := x.visited + 8 } with
          bcens := s.bcens ++ ((cj s).filter fun c => !old.contains c).map fun c => (b.tag, c)
          bq := if s.repairDue.isEmpty then s.bq else { b with work := .repair } :: s.bq }
    | .repair =>
      let w := (w.charge g (8 * g.ecost 11)).repairNext g
      if w.sl.repairDue.isEmpty then w.upd fun s => { s with bq := s.bq.erase b } else w
    | _ => ((w.charge g (g.ecost 13)).upd fun s => { s with bq := s.bq.erase b }).beginStep g b
  | none =>
    match w.sl.walks.find? (fun x => w.sl.walkReady g x && w.sl.paced x.pace) with
    | none => w
    | some x => ((w.charge g (g.ecost 13)).upd fun s => { s with bLast := s.cyc }).walkSet g x

/-- A background source is pending: walks, scrub, deep compaction, stencil compaction. -/
def Slice.bgPending (s : Slice) (g : Shared) : Nat → Bool
  | 0 => s.bqNext.isSome || s.walks.any fun x => s.walkReady g x && s.paced x.pace
  | 1 => decide (s.scPos < s.scDue)
  | 2 => s.deepPos.isSome
  | _ => true

/-- The source whose turn it is: from `bgTurn` on, the first pending one (R262). -/
def Slice.bgNext (s : Slice) (g : Shared) : Nat :=
  (((List.range 4).map fun k => (s.bgTurn + k) % 4).find? (s.bgPending g)).getD 3

/-- The cost of a background step of a source (Table 9-4, R459). -/
def Slice.bgCost (s : Slice) (g : Shared) : Nat → Int
  | 0 => (match s.bqNext with
    | some b => if b.work.line?.isNone then 8 * g.ecost 11 else g.ecost 13
    | none => g.ecost 13)
  | 1 => 8 * g.ecost 11 | 2 => g.ecost 13 | _ => g.ecost 14

/-- One background step: a slot that a census step has claimed goes to it first, and otherwise the source whose turn it is takes a
step (R262; log entry 65). -/
def Work.bgStep (w : Work) (g : Shared) : Work :=
  if 0 < w.sl.claim then w.upd fun s => { s with bgCount := 0, claim := s.claim - 1 } else
  let k := w.sl.bgNext g
  let w := w.upd fun s => { s with bgCount := 0, bgTurn := (k + 1) % 4 }
  match k with
  | 0 => w.burinStep g
  | 1 => w.scrubStep g
  | 2 => match w.sl.deepPos with | some p => w.deepStep g p | none => w
  | _ => w.compactStep g

/-- The floor is due (R261). -/
def Slice.floorDue (s : Slice) : Bool := decide (fld s.arb 44 32 ≤ s.bgCount)

/-- Recovery claims every slot: replay or a slice census, or the walk of a dead agent (R247, R417, R446). -/
def Slice.claimed (s : Slice) (g : Shared) : Bool := s.emergency || g.walk.isSome

/-- BACKGROUND_FLOOR_DUE: a due floor takes one background step (R261). -/
def Work.floorStep (w : Work) (g : Shared) : Work :=
  if w.sl.serving g && !w.sl.replay && !w.sl.claimed g && w.sl.floorDue && w.sl.bgFree then w.bgStep g else w

/-! ### The admission phase (R233, Table 9-1) -/

/-- The entry that a draw takes: a high-priority port's, or the lottery's (R236, R240). -/
def Slice.draw (s : Slice) (g : Shared) : Option AdmEntry :=
  let el := s.ent.filter (s.eligibleEnt g)
  let hp := el.filter fun e => (g.port e.port).hp
  let a := if hp.isEmpty then Slice.lottery g el s.lfsr
    else drawPort ((sortNat (hp.map (·.port))).map fun a => (a, (g.port a).tickets)) s.lfsr
  a.bind fun a => el.find? (·.port == a)

/-- One action of Table 9-1. A census step that has claimed a slot takes it as the emergency requester (R411), and then an array read of
the debug path (R247). -/
def Work.phaseAction (w : Work) (g : Shared) : Work :=
  if w.sl.claimed g then w
  else if 0 < w.sl.claim then w.upd fun s => { s with bgCount := 0, claim := s.claim - 1 }
  else if 0 < w.sl.dslot then w.upd fun s => { s with dslot := s.dslot - 1 }
  else if w.sl.floorDue && w.sl.bgFree then w.bgStep g
  else
    match (w.sl.agedq.head?).bind fun x => (w.sl.takeNo g x.1 true).map fun t => (x, t) with
    | some ((r, est), t) => (w.upd fun s => { s with agedq := s.agedq.drop 1 }).intake g r t true est false
    | none =>
      match (w.sl.draw g).bind fun e => (w.sl.takeNo g e.req false).map fun t => (e, t) with
      | some (e, t) => w.intake g e.req t false e.est true
      | none => if w.sl.bgFree && decide (w.sl.bgCost g (w.sl.bgNext g) ≤ w.sl.remain) then w.bgStep g else w

/-- ADMISSION_PHASE: one slice cycle (R233, R237, R241, R257, R258, R263). -/
def Work.phase (w : Work) (g : Shared) : Work :=
  if !w.sl.serving g || w.sl.replay || g.stop then w else
    let w := w.upd fun s => s.cycle g
    let w := w.gateEntries g
    let w := (w.sl.ent.filter fun e => e.complete && !e.admitted && w.sl.aged e.port).foldl (fun w e => w.agedArrive e) w
    (if w.sl.emergency then w else w.lineSteps g).phaseAction g

/-- CONTEST_EXPIRY of a port's entry (R235); the request of an aged port has no place in contest (R148). -/
def Work.contestExpiry (w : Work) (g : Shared) (a : Nat) : Work :=
  match w.sl.ent.find? (·.port == a) with
  | some e =>
    if e.complete && !e.admitted && decide (e.contest ≤ e.age) && !w.sl.aged a && !w.sl.replay && !g.stop then
      let w := w.upd fun s => { s with adm := bump e.lastWhy s.adm, defE := if e.lastWhy = 3 then s.defE + e.est.toNat else s.defE }
      (w.retryCounted g none e.req).freeEntry a
    else w
  | none => w

/-- DATA_INCOMPLETE of a port's entry: its data timeout, from the header's arrival, has passed (R231). -/
def Work.dataIncomplete (w : Work) (g : Shared) (a : Nat) : Work :=
  match w.sl.ent.find? (·.port == a) with
  | some e =>
    if !e.complete && decide (e.at_ + 100 * fld g.tmo 41 32 ≤ g.now) then
      ((w.ledger 1 0x1A [reqWord e.req]).error g none e.req 0x1A).freeEntry a
    else w
  | none => w

/-- Grants revoked by the emergency requester (R248): admitted requests that still hold their entry and have not
committed go back to contest, unanswered, one record each. The tracker's estimate is settled as R252 states; a shaper token, up to BURST, and
the place in the quota window are given back, and E and the loss count are as they were, but for what has changed them since
(DESIGN CHOICE, log entry 66). The admission stays counted in SLC_ADM_CNT[0] (DESIGN CHOICE, log entry 66). -/
def Work.revoke (w : Work) (g : Shared) (debug : Bool) : Work :=
  (w.sl.trk.filter fun t => t.stat == .admitted && t.entry).foldl
    (fun w t =>
      let w := w.ledger 2 1 [reqWord t.req ||| putB debug 63]
      let w := w.refund g (t.est - t.cost)
      let x := g.port t.req.port
      let k := g.pack t.req.pack.toNat
      let w := if k.shEn then w.upd fun s =>
        { s with shape := tset 0 s.shape t.req.pack.toNat (min ((k.burst * 16 : Nat) : Int) (s.level t.req.pack.toNat + 16)) } else w
      let w := w.upd fun s => s.updPort t.req.port fun p => { p with
        loss := Nat.max p.loss t.was.loss
        exp := if t.was.loss = 0 ∧ p.loss = 0 then Nat.max x.bkmin (Nat.min t.was.exp x.bkmax) else p.exp
        quota := if t.inWin then p.quota - 1 else p.quota }
      (w.journal 5 1 t.no 0).upd fun s => { s with
        trk := s.trk.filter (·.no != t.no),
        ent := s.ent.map fun e : AdmEntry => if e.port == t.req.port then { e with admitted := false } else e }) w

/-- What SAMPLE reads of a slice, active or not, at a boundary (R283, Table 10-7): new readings when it was on throughout the epoch. -/
def Slice.epochRead (s : Slice) (g : Shared) : Slice :=
  let rd : EpRead :=
    if s.epOn && s.pwr == .on then
      { adm := ((s.adm.getD 0 0) - s.admAt).setWidth 32, chg := BitVec.ofNat 32 s.chgE, dfr := BitVec.ofNat 32 s.defE,
        rem := BitVec.ofInt 32 s.remain, stamp := BitVec.ofNat 31 (g.now / 1024), ok := true }
    else { s.epRead with ok := false }
  { s with epRead := rd, epOn := s.pwr == .on, chgE := 0, defE := 0, admAt := s.adm.getD 0 0 }

/-- EPOCH_BOUNDARY at a slice (R254, R256). -/
def Work.epoch (w : Work) (g : Shared) : Work :=
  let s := w.sl
  let stale := if s.grantW then 0 else Nat.min (s.stale + 1) 255
  let n := fld g.epoch 31 24
  let safe := decide (n ≤ s.stale) && !s.grantW
  let gr := if safe then fld g.esafe 23 0 else fld s.egrant 23 0
  let w := w.upd fun s => { s with stale := stale, grantW := false, grantE := gr, remain := (gr : Int) + min s.remain 0 }
  let w := if stale = n ∧ s.stale < n then w.barkK 1 else w
  (List.range 512).foldl (fun w a => if (g.port a).absent then w else
    (w.emit (.token false a (w.sl.port a).reqTok)).emit (.token true a (w.sl.port a).ctlTok)) w

/-- QUOTA_WINDOW_START: counts cleared and muzzles lifted, when the window has ended (R241). -/
def Work.quotaStart (w : Work) : Work :=
  if w.sl.qwin ≤ w.sl.qpos then
    w.upd fun s => { s with
      qpos := 0, qwin := fld s.arb 31 16, prt := s.prt.map fun x : Nat × PortAdm => (x.1, { x.2 with quota := 0 })
      trk := s.trk.map fun t : Tracker => { t with inWin := false } }
  else w

end Sys2Proof.Machine
end

