-- ==== Sys2Proof/Machine/Replay.lean ====
section
/-! DEFINITION. Slice replay (R427 to R433, Table 14-3), the packets a slice takes, and a dead or retired agent in a
slice (R446 to R450). -/

namespace Sys2Proof.Machine

/-- A response or data message consumed in normal operation. -/
def Work.consume (w : Work) (g : Shared) (m : Msg) : Work :=
  match m.cls.toNat, m.cmd.toNat with
  | 2, 1 => w.ackInval g m
  | 2, 2 => w.ackFwd g m
  | 2, 3 => w.cenReport g m
  | 2, 8 => w.resend m
  | 2, 9 => w.memRsp g m
  | 3, 2 => w.dataFromMem g m
  | 3, 3 => w.wrData g m
  | _, _ => w

/-- A packet of class and command `(cls, cmd)` at a slice: the checks of Table 18-4; a packet that awaits a Resend is
taken once (R535); in replay and sink mode responses and data are held (R428). Packets of another command are not
this event. -/
def Work.rx (w : Work) (g : Shared) (cls cmd : Nat) (p : Pkt) : Work :=
  if !w.sl.up then w else
    w.netIn g p fun w m full =>
      if m.cls.toNat ≠ cls ∨ m.cmd.toNat ≠ cmd ∨ !full then w
      else
        let w := w.upd fun s => { s with rsends := rsTaken s.rsends m }
        if (w.sl.replay ∨ w.sl.sink) ∧ ¬(cls = 2 ∧ cmd = 8) then w.upd fun s => { s with heldRx := s.heldRx ++ [{ pkt := p, node := sliceNode w.n }] }
        else if g.stop then w
        else w.consume g m

/-- REQUEST_ARRIVAL: a REQ other than Barrier and Cancel (R231, R531). -/
def Work.rxReq (w : Work) (g : Shared) (p : Pkt) : Work :=
  if !w.sl.up then w else
    w.netIn g p fun w m full =>
      if m.cls ≠ clsReq ∨ m.cmd = 14 ∨ m.cmd = 15 then w
      else match reqOf m with
        | some r => w.arrive g r full
        | none => w

/-- CANCEL at a slice. -/
def Work.rxCancel (w : Work) (g : Shared) (p : Pkt) : Work :=
  if !w.sl.up then w else
    w.netIn g p fun w m _ => if m.cls ≠ clsReq ∨ m.cmd ≠ 15 then w else w.cancel g m

/-- BARRIER at a slice. -/
def Work.rxBarrier (w : Work) (g : Shared) (p : Pkt) : Work :=
  if !w.sl.up then w else
    w.netIn g p fun w m _ => if m.cls ≠ clsReq ∨ m.cmd ≠ 14 then w else w.barArrive g m

/-- The last record of a home TXID that carries messages. -/
def Slice.lastSent (s : Slice) (t : Nat) : Option JRec := (s.jrn.reverse.find? fun r => r.htx.toNat == t && !r.msgs.isEmpty)

/-- The expected answers of the slice. -/
def Slice.expected (s : Slice) : List Exp :=
  s.trk.flatMap (·.exp) ++ s.rcl.flatMap (·.exp) ++ s.collapses.flatMap (·.exp) ++ s.lsh.flatMap (·.cut.toList) ++
  s.far.flatMap (·.wb.toList) ++ s.loose

/-- A message still does what it was sent for: an answer to it is expected, or it is itself an answer. -/
def Slice.stillOwed (s : Slice) (m : Msg) : Bool :=
  (m.cls != clsSnp && !(m.cls == clsReq)) || s.expected.any fun e => e.msg == m && !e.held

/-- The network interface had not fully accepted the messages of the last record of each of these home TXIDs (R423): the marks say so,
and the messages that go out once have not left. A snoop burst may have left in part (log entry 12). -/
def Work.unaccept (w : Work) (ts : List Nat) : Work :=
  ts.foldl (fun w t => match w.sl.lastSent t with
    | some r =>
      let w := w.upd fun s => { s with marks := tset 0 s.marks t (r.seq - 1) }
      w.emits ((r.msgs.filter fun m => m.cls != clsSnp && w.sl.stillOwed m).map .withdraw)
    | none => w) w

/-- The messages of records that the network interface has not fully accepted, in the order of the records (R423). -/
def Slice.unaccepted (s : Slice) : List (Nat × Msg) :=
  s.jrn.flatMap fun r => if r.htx.toNat != 0xFFF && seqOlder (tget 0 s.marks r.htx.toNat) r.seq then r.msgs.map fun m => (r.htx.toNat, m) else []

/-- CONTROL_LOGIC_FAULT (R427, Table 14-3 step 1). `unsent` are the home TXIDs whose messages the network interface had not fully accepted
(R423, log entry 12). The structures of Table 13-4 return to their cold-reset values; those whose contents step 4 rebuilds from the records
stand in State meanwhile (log entry 58), and the free map is rebuilt by its walk (DEDUCED, log entry 83). -/
def Work.controlFault (w : Work) (g : Shared) (cause : BitVec 8) (unsent : List Nat) : Work :=
  if !w.sl.up ∨ !w.sl.active then w
  else if w.sl.replay then w.emit .failSlice
  else
    let w := ((w.ledger 7 1 [put cause.toNat 0]).barkK 6).unaccept unsent
    w.upd fun s => { s with
      replay := true, rcount := satInc s.rcount, emergency := true, rcause := cause, rstart := g.now, unsent := unsent,
      nru := [], hint := [], pred := [], parErr := [], single := [], freeWalk := 8192, lfsr := 1 }

/-- What the newest live record of a home TXID, or of a port's barrier arrival, describes (Table 14-3 step 4). -/
def Slice.recorded (s : Slice) (t arg : Nat) : Option Owner := go s.jrn
where
  /-- That of a list of records. -/
  go : List JRec → Option Owner
    | [] => none
    | r :: l => match go l with
      | some o => some o
      | none => if r.htx.toNat == t && (t != 0xFFF || r.arg.toNat == arg) && r.own.isSome && s.recLive r l then r.own else none

/-- The records of a home TXID since its last transaction ended. -/
def Slice.chain (s : Slice) (t : Nat) : List JRec :=
  (s.jrn.reverse.filter (·.htx.toNat == t)).takeWhile fun r => r.kind != 5 && !(r.kind == 6 && r.own.isNone)

/-- Expected answers as a record holds them: what was held back then and stands in a later record has been sent since. -/
def Slice.reExp (s : Slice) (t : Nat) (l : List Exp) : List Exp :=
  l.map fun e => if e.held && (s.chain t).any (·.msgs.contains e.msg) then { e with held := false } else e

/-- Table 14-3 step 4: trackers, recall buffer entries, leashes, the barrier table, far registers and census jobs as the live records
describe them. A tracker that awaits its acknowledgement alone has its DONE, and stays; a census job goes back to step 3 of Table 13-10,
unless it has written its entries (log entry 58). An admission entry that has freed stays free (R229). -/
def Slice.rebuild (s : Slice) : Slice :=
  { s with
    trk := s.trk.filterMap fun t => if t.stat == .compSent then some t else match s.recorded t.no 0 with
      | some (.trk x) => some { x with exp := s.reExp t.no x.exp, entry := t.entry, inWin := t.inWin }
      | _ => none
    rcl := s.rcl.filterMap fun r => match s.recorded r.no 0 with
      | some (.rcl x) => some { x with exp := s.reExp r.no x.exp }
      | _ => none
    lsh := s.lsh.filterMap fun l => match s.recorded (288 + l.no) 0 with | some (.leash x) => some x | _ => none
    bar := s.bar.filterMap fun b => match s.recorded 0xFFF b.port with | some (.bar x) => some x | _ => none
    far := s.far.filterMap fun f => match s.recorded (328 + f.no) 0 with
      | some (.far x) => some { x with wb := (s.reExp (328 + f.no) x.wb.toList).head? }
      | _ => none
    jobs := s.jobs.filterMap fun j => if j.step == 6 && j.kind != .slice then some j else match s.recorded (320 + j.slot) 0 with
      | some (.job x) => some { x with step := 2, agents := [], recs := [] }
      | _ => none }

/-- Step 3 of Table 14-3: what live DECIDE records have still to write is written, in the order of the records, which the stencil unit's
queue keeps. An update that waits for a collapse goes on waiting. -/
def Work.redo (w : Work) (g : Shared) : Nat → Work
  | 0 => w
  | k + 1 => if w.sl.stq.isEmpty then w else (w.stencilOp g).redo g k

/-- Step 6 of Table 14-3 for one message of a record: sent, a snoop only while its answer is outstanding. -/
def Work.sendOwed (w : Work) (g : Shared) (t : Nat) (m : Msg) : Work :=
  if !w.sl.stillOwed m then w else
    let fix := fun (e : Exp) => if e.msg == m then { e with sentAt := g.now } else e
    let w := match w.sl.expected.find? (·.msg == m) with
      | some e => if m.cls == clsSnp then w.repeated g t e false else w
      | none => w
    (w.send g (some t) m).upd fun s => { s with
      trk := s.trk.map fun t : Tracker => { t with exp := t.exp.map fix }
      rcl := s.rcl.map fun r : Recall => { r with exp := r.exp.map fix }
      collapses := s.collapses.map fun c : Collapse => { c with exp := c.exp.map fix }
      lsh := s.lsh.map fun l : Leash => { l with cut := l.cut.map fix }
      far := s.far.map fun f : FarReg => { f with wb := f.wb.map fix }
      loose := s.loose.map fix }

/-- Snoops that stand in no record go out again when the home TXID is named as unaccepted. -/
def Work.sendLoose (w : Work) (g : Shared) (ts : List Nat) : Work :=
  (w.sl.loose.filter fun e => ts.contains e.msg.txid.toNat).foldl (fun w e =>
    (((w.emit (.send e.msg)).charge g (g.ecost 4)).repeated g e.msg.txid.toNat e false).upd fun s =>
      { s with loose := s.loose.map fun x => if x == e then { x with sentAt := g.now } else x }) w

/-- A request with a live ADMIT and no DECIDE re-admitted in its tracker, as an aged request: an admission like any
other, but for its tracker and its shaper token, which it has (R430; log entry 47). -/
def Work.readmit (w : Work) (g : Shared) (t : Tracker) : Work :=
  let p := w.sl.port t.req.port
  (w.chargeRaw g t.est).upd fun s =>
    let s := s.updPort t.req.port fun p => { p with loss := 0, quota := if (g.port t.req.port).hp then p.quota + 1 else p.quota }
    { s with adm := bump 0 s.adm, trk := s.trk.map fun x : Tracker => if x.no == t.no then { x with aged := true, stat := .admitted, was := p } else x }

/-- Field `i` of the slice's registers back at its reset or P value. -/
def Slice.fieldReset (x : Slice) (g : Shared) (i : Nat) : Slice :=
  let back := fun (v from_ : Word) (hi lo : Nat) => setFld v hi lo (fld from_ hi lo)
  match i with
  | 0 => { x with stnCtl := back x.stnCtl 0x10100 14 0 }
  | 1 => { x with stnCtl := back x.stnCtl 0x10100 16 16 }
  | 2 => { x with atmCtl := back x.atmCtl 0x1000240 1 0 }
  | 3 => { x with atmCtl := back x.atmCtl 0x1000240 6 4 }
  | 4 => { x with atmCtl := back x.atmCtl 0x1000240 9 8 }
  | 5 => { x with atmCtl := back x.atmCtl 0x1000240 31 16 }
  | 6 => { x with arb := back x.arb x.arbP 10 0 }
  | 7 => { x with arb := back x.arb x.arbP 31 16 }
  | 8 => { x with arb := back x.arb x.arbP 44 32 }
  | _ => { x with egrant := back x.egrant (put (fld g.esafe 23 0) 0) 23 0 }

/-- After a fault of a register's parity, cause 0x06, the fields whose parity failed return to their reset or P values (R430). Which
they are the command does not say: a free value (log entry 3). -/
def Slice.fieldsBack (x : Slice) (g : Shared) : Slice :=
  if x.rcause ≠ 6 then x else
    { (List.range 10).foldl (fun y i => if (Config.freeNat x.fv).testBit i then y.fieldReset g i else y) x with fv := x.fv + 1 }

/-- Admission state at the end of a replay (R430); the REPLAY record that follows takes the next SEQ, which seeds the LFSR. -/
def Work.replayAdmission (w : Work) (g : Shared) : Work :=
  let w := w.upd fun s => { s with
    prt := (List.range 512).map fun a => (a, { s.port a with loss := 6, exp := (g.port a).bkmin, quota := 0 }),
    shape := [], shTick := g.now, remain := 0, nru := [], hint := [], pred := [],
    single := [], parErr := [],
    lfsr := lfsrSeed (bits g.glbArb 62 32 ^^^ (s.jseq + 1).setWidth 31) w.n }
  let w := (sortBy (fun a b : Tracker => a.jseq == b.jseq || seqOlder a.jseq b.jseq) (w.sl.trk.filter Tracker.undecided)).foldl
    (fun w t => w.readmit g t) (w.upd fun s => s.fieldsBack g)
  let w := w.sl.agedq.foldl (fun w x => w.retryDrbk g x.1) w
  let w := w.upd fun s => { s with agedq := [] }
  (sortBy (fun a b : AdmEntry => decide (a.port ≤ b.port)) (w.sl.ent.filter fun e => !e.admitted)).foldl
    (fun w e => (w.retryDrbk g e.req).freeEntry e.port) w

/-- The transaction or table entry of a lost journal record, which cannot be rebuilt and is not answered (R426). -/
def Work.loseOwner (w : Work) (r : JRec) : Work :=
  let t := r.htx.toNat
  (w.leaveEntry t).upd fun s => { s with
    trk := s.trk.filter (·.no != t), rcl := s.rcl.filter (·.no != t), lsh := s.lsh.filter (fun l => 288 + l.no != t),
    bar := if t = 0xFFF then s.bar.filter (·.port != r.arg.toNat) else s.bar,
    far := s.far.map fun f : FarReg => { f with queue := f.queue.filter (· != t) } }

/-- The journal words that a replay finds wrong (R386, R426): one that cannot be read is zeroed. A record whose header cannot be read is
treated as never written (R421); when another word of a live record is lost, its owner is lost, a slice census follows the replay, and
the fatal Bark source and both records say so. -/
def Work.replayWords (w : Work) (g : Shared) : Work :=
  let bad := (w.sl.mem.filterMap fun x => w.sl.unplace x.1).filter fun a => a / 32768 == 26
  let gone := bad.filter fun a => !(w.sl.readC a).1.usable
  let head := fun (r : JRec) => gone.contains (bankAddr 26 (2 * (r.pos % 4096)))
  let lost := (gone.filterMap fun a =>
    match w.sl.recAt (a % 32768 / 2) with | some (r, true) => if head r then none else some r | _ => none).eraseDups
  let w := bad.foldl (fun w a => if (w.sl.readC a).1.usable then w.scrubFix a else (w.ueRecord a false).upd fun s => s.putBack a 0) w
  let w := w.upd fun s => { s with jrn := s.jrn.filter (!head ·) }
  match lost with
  | [] => w
  | r :: _ =>
    let word : Word := put r.htx.toNat 0 ||| put (Nat.min lost.length 65535) 16
    let _ := g
    ((((lost.foldl Work.loseOwner w).upd fun s => { s with sliceCensusAfter := true }).emit .fatal).ledger 7 3 [word]).emit (.kst 12 [word])

/-- Steps 3 to 6 of Table 14-3, the admission state of R430, and the REPLAY record, in a slice cycle of its own. Every request admitted
so far goes before those admitted later (R440). -/
def Work.replaySteps (w : Work) (g : Shared) : Work :=
  let w := w.replayWords g
  let w := (w.redo g w.sl.stq.length).upd Slice.rebuild
  let held := w.sl.heldRx
  let todo := w.sl.unaccepted
  let unsent := w.sl.unsent
  let w := w.upd fun s => { s with
    replay := false, heldRx := [], unsent := [], rend := some g.now
    rpt := s.rpt.filter fun x => x.2.2 || s.rend.any fun t => decide (g.now ≤ t + 4000) }
  let w := held.foldl (fun w h => match h.given with
    | some m => w.giveUp g m
    | none => match netCheck g .slice h.node h.pkt with | .ok m => w.consume g m | _ => w) w
  let w := (todo.foldl (fun w x => w.sendOwed g x.1 x.2) w).sendLoose g unsent
  let w := w.replayAdmission g
  ({ w with jroom := 0 }.journal 8 1 0xFFF w.sl.rcause.toNat).upd fun s => { s with rseq := s.seq }

/-- REPLAY_DONE (Table 14-3 steps 3 to 7). After a domain stop nothing is consumed or sent any more (R449). -/
def Work.replayDone (w : Work) (g : Shared) : Work :=
  if !w.sl.replay || g.stop then w else
    let w := w.replaySteps g
    let len := Nat.min ((g.now - w.sl.rstart) / 10) 65535
    let w := w.upd fun s => { s with rlast := BitVec.ofNat 16 len, emergency := s.slcp }
    let w := w.ledger 7 2 [put w.sl.rcause.toNat 0 ||| put len 16]
    if w.sl.sliceCensusAfter then (w.upd fun s => { s with sliceCensusAfter := false }).census g .slice 0 0 0 else w

/-- REPLAY_OVERRUN (R431). -/
def Work.replayOverrun (w : Work) (g : Shared) : Work :=
  if w.sl.replay ∧ w.sl.rstart + 50000 ≤ g.now then w.emit .failSlice else w

/-- Every request that the slice holds answered with Error SLICE_LOST, with the credit of its entry, and every barrier arrival with it
(R444). -/
def Work.loseSlice (w : Work) (g : Shared) : Work :=
  let w := (w.sl.trk.filter fun t => t.stat != .compSent).foldl (fun w t => w.error g none t.req 0x1B) w
  let w := w.sl.agedq.foldl (fun w x => w.error g none x.1 0x1B) w
  let w := w.sl.ent.foldl (fun w e => (if e.admitted then w else w.error g none e.req 0x1B).freeEntry e.port) w
  w.barError g w.sl.bar 0x1B

/-- The home TXIDs whose messages the network interface of a failing slice has not fully accepted: which they are, nothing states (R423; log
entry 12). -/
def Slice.cutShort (s : Slice) : List Nat :=
  ((s.jrn.map (·.htx.toNat)) ++ s.loose.map (·.msg.txid.toNat)).eraseDups.filter fun t => (Config.freeNat s.fv).testBit t

/-! ### Dead agents (R446 to R448) -/

/-- What a slice counts for the declared agent `a`, and the lines found (R53, R446): lines held in X, O or L under a window that was not
discardable at the declaration, ways marked P by a census, named by their CJOB, that lacks the agent's whole report, and, for such a
slice census, every way of the directory, since it has rewritten them all (DEDUCED, log entry 67). A word that cannot be read, whose set
census is still to be started, is a way of that census (R394). -/
def Slice.deadLines (s : Slice) (g : Shared) (a : Nat) : Nat × List Line :=
  let lacks := fun (j : CenJob) => !(j.agents.any fun c => c.agent == a && c.answered)
  let wins := ((g.deadWins.find? (·.1 == a)).map (·.2)).getD (g.pack (g.port a).packNo).wins
  let found := (s.liveAddrs g).filterMap fun x =>
    let set := x % 32768
    let way := x / 32768
    let e := s.effEnt g set way
    let line := match s.pendingOp set way with | some o => o.line | none => s.entLine g set way
    let disc := match windowIn wins line with | some (_, w) => w.disc | none => false
    if !(s.readC (entAddr set way)).1.usable then some line
    else if e.owns a && !disc then some line
    else if e.st == .p && s.jobs.any (fun j => j.cjob.toNat == fld (s.readD (entAddr set way)) 11 0 && lacks j) then some line
    else none
  if s.jobs.any (fun j => j.kind == .slice && lacks j) then (32768 * g.dirw, found) else (found.length, found)

/-- A forward to a dead owner served from memory (R448). -/
def Work.serveForward (w : Work) (g : Shared) (t : Tracker) (e : Exp) : Work :=
  let gr : BitVec 3 := if e.msg.cmd = 2 then 2 else if e.msg.f.getLsbD 0 then 0 else 1
  match g.target t.req.line with
  | some m => w.memReq g t (memRd w.n m t.no t.req.pack t.req.line true t.req.port t.req.txid gr t.req.crit)
  | none => w

/-- The fenced agent taken out of an entry: an owned line becomes I with its other holders recalled, and a shared one loses it (Table
14-7, R448). -/
def Work.fenceEntry (w : Work) (g : Shared) (a x : Nat) : Work :=
  let set := x % 32768
  let way := x / 32768
  let e := w.sl.effEnt g set way
  let line := match w.sl.pendingOp set way with | some o => o.line | none => w.sl.entLine g set way
  if !e.holds a then w
  else if e.owns a then
    let w := w.ledger 7 7 [put line.toNat 0 ||| put a 42]
    let w := w.upd fun s => { s with lsh := s.lsh.filter (fun l => !(l.agent == a && l.line == line)) }
    let others := e.holders.filter (· != a)
    let w := if others.isEmpty then w else match w.sl.freeRecall with
      | some no => w.startRecall g no line .i none others .deadOwner none
      | none => w.upd fun s => { s with owed := s.owed ++ [(line, others)] }
    w.putEnt g none w.sl.seq none line set way { st := .i }
  else w.putEnt g none w.sl.seq none line set way (e.without a)

/-- An agent's leashes, watches and barrier participation removed, and its arrivals with the reports that fall due (Table 14-7, R450 step
3). -/
def Work.dropAgent (w : Work) (g : Shared) (a : Nat) : Work :=
  let w := (w.sl.lsh.filter (·.agent == a)).foldl (fun w l => w.journal 6 1 (288 + l.no) 0) w
  let w := w.barClear (w.sl.bar.filter (·.port == a))
  (w.upd fun s => { s with lsh := s.lsh.filter (·.agent != a), wat := s.wat.filter (·.agent != a) }).barTells g

/-- A dead agent fenced in a slice (Table 14-7, R448). Its requests that are not yet decided end without an answer. -/
def Work.fenceAgent (w : Work) (g : Shared) (a : Nat) : Work :=
  let w := (w.sl.trk.filter fun t => t.req.port == a && t.undecided).foldl (fun w t => (w.journal 5 1 t.no 0).finish g t.no) w
  -- entries that name it
  let w := (w.sl.liveAddrs g).foldl (fun w x => w.fenceEntry g a x) w
  -- its own requests, leashes, watches and barrier arrivals
  let w := (w.upd fun s => { s with
    owed := (s.owed.map fun o => (o.1, o.2.filter (· != a))).filter fun o => !o.2.isEmpty,
    ent := s.ent.filter (·.port != a), agedq := s.agedq.filter (·.1.port != a),
    loose := s.loose.filter (·.node != a) }).dropAgent g a
  -- outstanding snoops
  let w := w.sl.trk.foldl (fun w t =>
    let mine := t.exp.filter fun e => e.node == a && e.kind != .mem && e.kind != .data
    if mine.isEmpty && !(t.stat == .compSent && t.wantsAck && t.req.port == a) then w else
      let w := w.upd fun s => s.setTrk t.no fun x => { x with exp := x.exp.filter fun e => !mine.contains e }
      let w := mine.foldl (fun w _ => w.ansRec t.no none) w
      let w := mine.foldl (fun w e => match e.kind with
        | .recall => w.ownerAnswered g t.no none false
        | .stash => w.stashDeclined g t.no
        | .fwd => w.serveForward g t e
        | _ => w) w
      let w := w.complete g t.no
      match w.sl.tracker t.no with
      | some x => if x.stat == .compSent && x.req.port == a && w.sl.canFree x then w.finish g t.no else w
      | none => w) w
  let w := w.sl.rcl.foldl (fun w r =>
    match r.exp.find? (fun e => e.node == a && e.kind == .recall) with
    | some e => w.recallAnswer g r.no e (r.exp.erase e) none none false
    | none => w) w
  let w := w.sl.collapses.foldl (fun w c =>
    if c.exp.any (·.node == a) then
      let c' := { c with exp := c.exp.filter (·.node != a) }
      let w := (w.ansRec c.htx none).upd fun s => { s with collapses := s.collapses.map fun x => if x == c then c' else x }
      if c'.exp.isEmpty then w.endCollapse g c' else w
    else w) w
  let w := w.upd fun s => { s with jobs := s.jobs.map fun j : CenJob =>
    { j with agents := j.agents.map fun c : CenAgent => if c.agent == a && !c.answered then { c with rseqs := [0], lastAt := some 0 } else c } }
  w.sl.jobs.foldl (fun w j => w.cenTry g j.slot) w

/-- The slice still expects an answer of agent a. -/
def Slice.awaits (s : Slice) (a : Nat) : Bool :=
  let of := fun (es : List Exp) => es.any (·.node == a)
  s.trk.any (fun t => of t.exp) || s.rcl.any (fun r => of r.exp) || s.collapses.any (fun c => of c.exp) || of s.loose ||
  s.owed.any fun o => o.2.contains a

/-- A pack's watches killed outside any transaction (Table 7-12, Table 14-8 step 3): the slice that homes the
granule's first line sends SnpResvKill. The TXID of such a snoop is not stated: a free value (log entry 3). -/
def Work.killPackWatches (w : Work) (g : Shared) (p : Nat) : Work :=
  (w.sl.wat.filter fun x => (g.port x.agent).packNo == p && g.home x.first == w.n).foldl (fun w x =>
    let m := snp w.n 7 x.agent (Config.freeNat w.sl.fv % 336) (BitVec.ofNat 4 p) x.first (fPut x.thread.toNat 0)
    let w := ((w.emit (.send m)).charge g (g.ecost 4 + g.ecost 9)).upd fun s => { s with
      fv := s.fv + 1, atmc := bump 4 s.atmc, loose := s.loose ++ [{ kind := .kill, node := x.agent, msg := m, sentAt := g.now }] }
    w.emit (.delWatch x.agent x.thread)) w

end Sys2Proof.Machine
end

