-- ==== Sys2Proof/Machine/KennelState.lean ====
section
/-! DEFINITION. The state of the Kennel: the Sheepdog, the sensors, the Kennel store, the fuse map, DORMANT service, the
plate commands and the resets (R268 to R302, R331 to R342, R343 to R380). -/

namespace Sys2Proof.Machine

/-- An array of native words of the Kennel whose WADDR is the word index within 15 bits (R382), by index. -/
abbrev KMem := List (Nat × W72)

/-- The word at index `i`; an unlisted word has payload zero and its check bits. -/
def KMem.read (m : KMem) (i : Nat) : W72 := tget (encode72 0 (i % 32768)) m i
/-- The word at index `i` written, in canonical form. -/
def KMem.write (m : KMem) (i : Nat) (w : W72) : KMem := tset (encode72 0 (i % 32768)) m i w
/-- A payload written with its check bits. -/
def KMem.writeD (m : KMem) (i : Nat) (d : Word) : KMem := KMem.write m i (encode72 d (i % 32768))
/-- The class and payload of a read (R383). -/
def KMem.readC (m : KMem) (i : Nat) : RdClass × Word := classify (KMem.read m i) (i % 32768)
/-- The payload of a read. -/
def KMem.readD (m : KMem) (i : Nat) : Word := (KMem.readC m i).2

/-- An instruction of the program store with its parity bit (R273). -/
structure PIns where
  code : BitVec 36 := 0
  par  : Bool := false
  deriving DecidableEq, Repr

/-- A WAIT in progress: its destination, the enabled events and the tick (R276), and whether a HALT waits for its end (Table 10-13). -/
structure WaitOp where
  d    : BitVec 6
  mask : BitVec 4
  tick : BitVec 32
  halt : Bool := false
  deriving DecidableEq, Repr

/-- A REG that stalls (R279): its registers D, A and B, whether it writes, and whether a HALT waits for its end. -/
structure RegOp where
  d  : BitVec 6
  a  : BitVec 6
  b  : BitVec 6
  wr : Bool
  halt : Bool := false
  deriving DecidableEq, Repr

/-- The Sheepdog (R268 to R282). `ir`: the instruction fetched and about to be executed, `irBad` when its fetch failed in both copies (R273,
R278). `runState`: SHD_STAT.STATE but for halted. `hist`: times of the faults of the last 3,600 s. `image`: the data image of the plate in
force. `regWait`: the REG that waits for the decoder or for its response (R279). `rom*`: the ROM safe program's debounce and miss counts
(R282). -/
structure Sheep where
  g     : Vector (BitVec 32) 64 := Vector.replicate 64 0
  pc    : BitVec 12 := 0
  ir    : BitVec 36 := 0
  irBad : Bool := false
  prog0 : List (Nat × PIns) := []
  prog1 : List (Nat × PIns) := []
  dmem  : KMem := []
  image : List (Nat × Word) := []
  runState : Nat := 0
  halted : Bool := false
  haltAt : Nat := 0
  wait  : Option WaitOp := none
  latch : BitVec 4 := 0
  wdtAt : Nat := 0
  hist  : List Nat := []
  regWait : Option RegOp := none
  faults : BitVec 8 := 0
  corr  : BitVec 8 := 0
  code  : BitVec 4 := 0
  fpc   : BitVec 12 := 0
  romDeb : BitVec 32 := 0
  romMiss : List Nat := List.replicate 24 0
  deriving DecidableEq, Repr

/-- A reading held by the Kennel: the last valid value, its stamp, when it was taken, and whether the latest reading was
valid (R283). -/
structure Reading where
  val   : BitVec 32 := 0
  stamp : BitVec 31 := 0
  at_   : Nat := 0
  ok    : Bool := false
  deriving DecidableEq, Repr

/-- Regulator r: its configuration register, its three readings, FAILS, the time of the last poll, and the command of a
poll in progress with whether a reading of it was invalid (R285). -/
structure Regul where
  cfg   : Word := 0
  rd    : List Reading := List.replicate 3 {}
  fails : BitVec 8 := 0
  last  : Nat := 0
  poll  : Option (Nat × Bool) := none
  deriving DecidableEq, Repr

/-- Where a store record goes: the record log, or a persistent slot (R287, R296). -/
inductive KDest where
  | log
  | slot (n : BitVec 8)
  deriving DecidableEq, Repr

/-- A HALT written in the middle of an instruction waits for its end (Table 10-13). -/
def Sheep.haltWanted (h : Sheep) : Bool := h.wait.any (·.halt) || h.regWait.any (·.halt)

/-- A record waiting in the store queue (R287, R297). -/
structure KRec where
  dest  : KDest
  typ   : BitVec 8
  at_   : Word
  lo    : Word
  hi    : Word
  count : BitVec 24 := 0
  deriving DecidableEq, Repr

/-- What a word being programmed belongs to. -/
inductive PWhy where
  | log
  | slot (n : BitVec 8)
  | plate
  | calib
  | calibHead
  | overlay (n bank row spare : Nat)
  | slotRec (b : Bool)
  | floorRec (f : BitVec 32)
  | life
  deriving DecidableEq, Repr

/-- The ring of the identity and life data area that a word belongs to: slot records 0, floor records 1, life records 2 (R345, R346,
R573). -/
def PWhy.idRing : PWhy → Option Nat
  | .slotRec _ => some 0
  | .floorRec _ => some 1
  | .life => some 2
  | _ => none

/-- A word of an INSTALL, which a cold reset ends (Table 12-10). -/
def PWhy.ofPlate : PWhy → Bool
  | .plate | .slotRec _ => true
  | _ => false

/-- A word to be programmed: its index in the store, its payload, and the writes tried (R298, R299). -/
structure PWord where
  idx  : Nat
  data : Word
  why  : PWhy
  tries : Nat := 0
  deriving DecidableEq, Repr

/-- A line of a plate being fetched (R371 to R374). -/
structure Fetch where
  line : Nat
  txid : Nat
  at_  : Nat
  data : Option (List Unit128) := none
  rsp  : Bool := false
  poison : Bool := false
  tries : Nat := 0
  deriving DecidableEq, Repr

/-- A plate command in progress: `op` as LASTOP; the slot concerned; for INSTALL the next
line to fetch, LENW once known, and the fetches outstanding; for RELOAD the moment of acceptance. -/
structure PlateOp where
  op   : Nat
  slot : Bool
  lenw : Option Nat := none
  next : Nat := 0
  out  : List Fetch := []
  at_  : Nat := 0
  deriving DecidableEq, Repr

/-- The plate status and commands (R345 to R380, Tables 12-13 to 12-17). `infSlot`: the slot that holds the plate in
force; `floor`, `cur`: the floor record and slot record last valid; `first`: start-up's current slot has failed with this VCODE, STYPE and
FWORD, and the fallback slot is next (R369). -/
structure PlateSt where
  state : BitVec 32 := 0
  cur   : Bool := false
  fbv   : Bool := false
  inf   : Bool := false
  infSlot : Bool := false
  lastop : BitVec 4 := 0
  fcode : BitVec 4 := 0
  vcode : BitVec 8 := 0
  stype : BitVec 8 := 0
  fword : BitVec 18 := 0
  floor : BitVec 32 := 0
  addr  : Word := 0
  route : Word := 0
  run   : Option PlateOp := none
  first : Option (Nat × Nat × Nat) := none
  deriving DecidableEq, Repr

/-- A tracker of DORMANT service (R294): its TXID, request, target, and whether its memory request has been sent. -/
structure KTrk where
  no   : Nat
  seq  : Nat
  req  : Req
  msg  : Msg
  sent : Bool
  at_  : Nat
  tries : Nat := 0
  deriving DecidableEq, Repr

/-- An event held in the Kennel queue (R287, R472): the raise of a Bark source, the records of a Ledger event, or both (R497). -/
structure KEvt where
  at_  : Nat
  bark : Option Nat := none
  recs : List LRec := []
  deriving DecidableEq, Repr

/-- The calibration set in use (KNL_CAL), the half that holds it, its sensor words and the delay-line codes of its channels
(none when rejected), and the overwrite in progress (R301, R306, R364). `torn`: the half whose header was torn when power went (R301). -/
structure CalSt where
  crc   : BitVec 32 := 0
  ver   : BitVec 16 := 0
  romdef : Bool := false
  fact  : Bool := true
  pend  : Bool := false
  pendCrc : BitVec 32 := 0
  due   : List Word := []
  half  : Bool := false
  torn  : Option Bool := none
  sens  : List Word := []
  delay : List Word := []
  deriving DecidableEq, Repr

/-- KNL_RST and what R340 and R341 keep. -/
structure RstSt where
  cause : BitVec 3 := 0
  ncold : BitVec 16 := 0
  heldms : BitVec 32 := 0
  heldAt : Option Nat := none
  recAt  : Nat := 0
  times  : List Nat := []
  deriving DecidableEq, Repr

/-- The Kennel. `logPos`: where the record log's next record goes, failed blocks skipped (R299). `idSeq`: the SEQ last used in the of slot
records (0), of floor records (1) and of life records (2). `rateEnd`: the tick at which the rate counts last stopped being valid (Table
10-7, class 0x7). `save`: the words of the register save area whose stored bits have gone wrong, by index; every other word of it holds the
register that State holds (R310, R382; log entry 33). `substFailed`: the slices that substitution records have replaced (R352; log entry
86). `booted`: steps 3 to 5 of Table 11-10 have ended since the Kennel's reset. -/
structure Kennel where
  on     : Bool := false
  booted : Bool := false
  sheep  : Sheep := {}
  temps  : List Reading := List.replicate 24 {}
  regs   : List Regul := List.replicate 4 {}
  ctl    : Word := 0
  wdt    : Word := 0
  mbox   : List Word := List.replicate 8 0
  dsrv   : Word := 0
  dorm   : Word := 0
  store  : KMem := []
  remap  : List (Nat × Nat) := []
  dead   : List Nat := []
  prog   : List PWord := []
  queue  : List KRec := []
  logLost : BitVec 24 := 0
  logSeq : BitVec 32 := 0
  logPos : Nat := 0
  logTimes : List Nat := []
  slotSeq : List (Nat × BitVec 32) := []
  slotTimes : List (Nat × Nat) := []
  idSeq  : List (Nat × BitVec 32) := []
  rewriteAt : List (Nat × Nat) := []
  lifeAt : Nat := 0
  poweredNs : Nat := 0
  wear   : Word := 0
  substRec : Option (List Nat) := none
  substFailed : List Nat := []
  fuse   : List (Nat × W72) := []
  fuseFault : Bool := false
  cal    : CalSt := {}
  plate  : PlateSt := {}
  rst    : RstSt := {}
  scent  : KMem := []
  save   : KMem := []
  built  : Bool := false
  entries : Nat := 0
  psn    : BitVec 16 := 0
  wakes  : BitVec 16 := 0
  rate   : List (Nat × Nat) := []
  rateAt : Nat := 0
  rateEnd : BitVec 31 := 0
  rsends : List ResendWait := []
  trk    : List KTrk := []
  prt    : List (Nat × PortAdm) := []
  seq    : Nat := 0
  fv     : Nat := 0
  evq    : List KEvt := []
  evLost : BitVec 32 := 0
  netc   : List Word := List.replicate 8 0
  copies : List Msg := []
  scrubAt : Nat := 0
  storeScrubAt : Nat := 0
  deriving DecidableEq, Repr

/-- The payload of fuse word i (R402). -/
def Kennel.fuseWord (k : Kennel) (i : Nat) : Word :=
  let rd := fun (j : Nat) => classify (tget ⟨0, 0⟩ k.fuse j) 0
  if (rd i).1.usable then (rd i).2 else (rd (4096 + i)).2

/-- The Scent table cleared. -/
def Kennel.clearScent (k : Kennel) : Kennel := { k with scent := [], built := false }

/-- The delay-line code of channel c, from the calibration set in use; the largest when it is rejected (R306). -/
def Kennel.delayCode (k : Kennel) (c : Nat) : Nat := match k.cal.delay[c]? with | some w => fld w 5 0 | none => 63

end Sys2Proof.Machine
end

