-- ==== Sys2Proof/Machine/ControlState.lean ====
section
/-! DEFINITION. The state of the control island and the freeze controller: the register port, the Ledger, the Bark unit,
the Burin engine, the interrupt output, freeze and TAP (R455 to R513, R538 to R563). -/

namespace Sys2Proof.Machine

/-- A response of the register port (R539): one beat, or two for a 16-byte read. -/
structure RpRsp where
  tag  : BitVec 8
  err  : Bool
  data : Word
  hi   : Option (Bool × Word) := none
  deriving DecidableEq, Repr

/-- An event waiting in a unit's Ledger queue (R472): its timestamp, and its record or its series of records (R475). -/
structure LEvt where
  at_  : Nat
  recs : List LRec
  deriving DecidableEq, Repr

/-- A closed block of the Ledger FIFO: BSEQ and its record words (R477). -/
structure Blk where
  bseq  : BitVec 32
  words : List Word
  deriving DecidableEq, Repr

/-- A block in the memory ring (R480): its BSEQ, index and lap, the TXID of its write, whether its MemRsp has come, and
its read: TXID, when sent, the data if in, whether the MemRsp is in and whether either was poisoned (R481). -/
structure RBlk where
  bseq  : BitVec 32
  idx   : Nat
  lap   : Bool
  txid  : Nat
  done  : Bool := false
  rd    : Option Nat := none
  rdAt  : Nat := 0
  data  : Option (List Unit128) := none
  rsp   : Bool := false
  poison : Bool := false
  deriving DecidableEq, Repr

/-- The Ledger (R472 to R487). `ovrAt`: when OVR was last raised (R8); `series`: the records of the event being taken that are not yet
placed (R477, R484); `offAt`: when the control island last switched off (R487). -/
structure Ledger where
  ctl   : Word := 0
  ring  : Word := 0
  uen0  : Word := 0
  uen1  : Word := 0
  ten   : Word := 0x80
  thr   : Word := 0
  flush : Word := 0
  pace  : Word := 0
  pendRing : Option Word := none
  ovr   : Bool := false
  ovrAt : Option Nat := none
  drop  : BitVec 8 := 0
  count : Word := 0
  lost  : Word := 0
  filt  : Word := 0
  queues : List (Nat × List LEvt) := []
  unitLost : List (Nat × BitVec 32) := []
  paced : List (Nat × Nat × Nat) := []
  turn  : Nat := 0
  open_ : List Word := []
  openAt : Nat := 0
  offAt : Nat := 0
  series : List (List Word) := []
  tail  : List Blk := []
  rblk  : List RBlk := []
  rnext : Nat := 0
  rlap  : Bool := false
  head  : List Blk := []
  bseq  : BitVec 32 := 0
  fv    : Nat := 0
  deriving DecidableEq, Repr

/-- A message of the interrupt output: ADDR[47:2] and its value (R492, R542). -/
structure IMsg where
  addr : BitVec 46
  val  : BitVec 32
  src  : Nat
  deriving DecidableEq, Repr

/-- The Bark unit (R488 to R497) and the interrupt output (R542, R543). `last`: the last commit to each target; `since`: when each
pending source became eligible (R494); `burst`: sources released by an expired moderation interval; `commit`: the source whose message
is in commit in this cycle; `raised`: the sources raised at time `raisedAt`, each with whether software raised it (R490, R8; log entry
68). -/
structure Bark where
  ctl   : Word := 0
  mod   : Word := 0
  pri   : List Word := List.replicate 4 0
  route : List Word := List.replicate 2 0
  tgt   : List Word := List.replicate 8 0
  en    : List Word := List.replicate 16 0
  pend  : List Nat := []
  since : List (Nat × Nat) := []
  mq    : List IMsg := []
  mqAt  : Nat := 0
  last  : List (Nat × Nat) := []
  burst : List Nat := []
  commit : Option (Nat × Nat) := none
  spur  : BitVec 16 := 0
  sent  : Word := 0
  irqDrop : BitVec 32 := 0
  raisedAt : Nat := 0
  raised : List (Nat × Bool) := []
  deriving DecidableEq, Repr

/-- A Burin job slot (Tables 15-6 to 15-13). `next`: the next chunk; `out`: chunks outstanding; `base*`: the counters
that a SCRUB's summary takes differences of (R464). -/
structure Job where
  d0    : Word := 0
  d1    : Word := 0
  d2    : Word := 0
  d3    : Word := 0
  job   : List Word := []
  status : Nat := 0
  why   : Nat := 0
  walk  : Bool := false
  chunks : Nat := 0
  next  : Nat := 0
  out   : List Nat := []
  cancel : Bool := false
  visited : Word := 0
  wb    : Nat := 0
  drop  : Nat := 0
  spare : Nat := 0
  elapsed : Nat := 0
  startAt : Nat := 0
  base  : List Nat := []
  deriving DecidableEq, Repr

/-- Work of the Burin engine: a software job, a fence or a PRESET (R455). -/
inductive BJob where
  | slot (s : Nat)
  | fence (p : Nat)
  | preset (p : Nat)
  deriving DecidableEq, Repr

/-- The Burin engine (R455 to R471). `iNext`, `iOut`: the next chunk of the running fence or PRESET and whether it is
outstanding; `pausedNext`: the next chunk of a paused fence (R467). -/
structure Burin where
  jobs  : List Job := List.replicate 16 {}
  queue : List BJob := []
  run   : Option BJob := none
  paused : Option BJob := none
  pausedNext : Nat := 0
  iNext : Nat := 0
  iOut  : Bool := false
  deriving DecidableEq, Repr

/-- The phases of the freeze controller (FRZ_STAT.STATE). -/
inductive FState where
  | running | stopping | frozen | reading | thawing
  deriving DecidableEq, Repr

/-- The freeze controller (R498 to R513) and the TAP. `dbgWait`: an access of DBGDR held as the port's are. `left`:
the mode and PREV left at the freeze. `word`: a store word was being programmed when the freeze began and is not yet complete (R499).
`frozenNs`: the time counted since FROZEN, and `dur` what FRZ_LAST.DUR holds of it (R506). -/
structure Frz where
  st    : FState := .running
  hold  : Bool := false
  pin   : Bool := false
  src   : BitVec 2 := 0
  incon : Bool := false
  word  : Bool := false
  frozenNs : Nat := 0
  count : BitVec 32 := 0
  dur   : BitVec 48 := 0
  pcfg  : Word := 0
  left  : Mode := .engrave
  prev  : Mode := .engrave
  rdPort : Bool := false
  rdAuto : Bool := false
  rdArr : Bool := false
  rdScent : Bool := false
  adata : Word := 0
  aslot : Option (Nat × Nat × Nat) := none
  aclass : BitVec 2 := 0
  asyn  : BitVec 8 := 0
  achk  : BitVec 8 := 0
  ir    : BitVec 8 := 1
  dbgWait : Option (BitVec 64) := none
  dbgDone : Bool := false
  dbgErr : Bool := false
  dbgData : Word := 0
  deriving DecidableEq, Repr

/-- The four levels of a one-way channel (R502). -/
structure ChanLevels where
  sreq : Bool
  sack : Bool
  rreq : Bool
  rack : Bool
  deriving DecidableEq, Repr

/-- SREQ = RACK with RREQ not equal to SREQ: what R306 cannot produce (R502). -/
def ChanLevels.incon (c : ChanLevels) : Bool := c.sreq == c.rack && c.rreq != c.sreq

/-- The state that a proof records for the levels (Table 17-1, R502). -/
def ChanLevels.state (c : ChanLevels) : Nat :=
  if c.sreq == c.rack then (if c.sack == c.sreq then 0 else 3) else if c.rreq == c.sreq then 2 else 1

/-- A one-way channel of a crossing as a freeze finds it: its levels, and the bundle on its wires (R306, R501). -/
structure Chan where
  levels : ChanLevels
  bundle : Word × BitVec 8
  deriving DecidableEq, Repr

/-- Where an access comes from (Table 19-17, SRC). -/
inductive AccSrc where
  | port | sheep | tap
  deriving DecidableEq, Repr

/-- An access received and not yet performed; `late`: its second beat has not come in time (R540). -/
structure HeldAcc where
  acc  : RegAcc
  late : Bool := false
  deriving DecidableEq, Repr

/-- The response of a write that waits until the slices named, in replay at the write, have applied the value (R560). -/
structure OwedRsp where
  src    : AccSrc
  rsp    : RpRsp
  slices : List Nat
  deriving DecidableEq, Repr

/-- The register port (R538 to R541) and GLB_RP_STAT. `held`: accesses waiting for the control island, for a thaw, or for
the response ahead of them; `taken`: the source other than the port whose access the decoder has taken and which waits for a slice that
changes its power state (R559, R562); `rsp`: the responses returned (log entry 96). -/
structure RegPort where
  errs  : BitVec 32 := 0
  code  : BitVec 4 := 0
  src   : BitVec 2 := 0
  off   : BitVec 20 := 0
  held  : List HeldAcc := []
  taken : Option AccSrc := none
  owed  : Option OwedRsp := none
  rsp   : List RpRsp := []
  deriving DecidableEq, Repr

/-- Accesses of the port that have no response yet (R539). -/
def RegPort.outstanding (p : RegPort) : Nat := p.held.length + (if p.owed.any (·.src == .port) then 1 else 0)

/-- Start-up and mode progress (R312 to R336, Tables 11-10, 11-13, 11-17). `from_`: the mode a DORMANT entry began in;
`waves`: credit waves released; `rails`: when the power wave of each rail started; `wakeWanted`: a RUN that came in step 4 or 5;
`failAfter`: failed slices to substitute once the change in progress ends (R316, R329); `cmdAt`: when a command of software last caused a
change (R316). -/
structure ModeSt where
  phase : Nat := 0
  chg   : Bool := true
  from_ : Mode := .run
  step  : Nat := 0
  stepAt : Nat := 0
  waves : Nat := 0
  rails : List Nat := []
  selftest : Bool := false
  wakeWanted : Bool := false
  failAfter : List Nat := []
  cmdAt : Option Nat := none
  startAt : Nat := 0
  st    : Bool := false
  slot  : Bool := false
  rdy   : BitVec 24 := 0
  plt   : BitVec 24 := 0
  warm  : Bool := false
  deriving DecidableEq, Repr

/-- Substitution (R442, Table 14-6, Table 14-12). -/
structure Rcv where
  spares : BitVec 2 := 0
  step  : BitVec 3 := 0
  lslice : BitVec 6 := 0
  newp  : BitVec 7 := 0
  oldp  : BitVec 7 := 0
  queue : List Nat := []
  deriving DecidableEq, Repr

/-- Control-island state outside the units above. `on`: the island is switched on; `lnk`: the slice link is (Table 11-11 step 5, R326;
log entry 77); `epochAt`: the time of the last epoch boundary; `epLen`: the LEN of the running epoch (Table 9-8); `idleAt`: the last
access in DORMANT; `routes`: the route tables, by source and destination index (R356). -/
structure Control where
  on     : Bool := false
  lnk    : Bool := false
  epochAt : Nat := 0
  epLen  : Nat := 0
  idleAt : Nat := 0
  ms     : ModeSt := {}
  rp     : RegPort := {}
  ldg    : Ledger := {}
  brk    : Bark := {}
  brn    : Burin := {}
  rcv    : Rcv := {}
  frz    : Frz := {}
  netc   : List Word := List.replicate 8 0
  copies : List Msg := []
  rsends : List ResendWait := []
  routes : List (Nat × Word) := []
  ceil   : List Nat := List.replicate 66 2000 ++ [1000, 1000]
  slow   : List (BitVec 16) := List.replicate 66 0
  stopAgent : BitVec 9 := 0
  stopLines : BitVec 32 := 0
  retiring : List Nat := []
  deadq  : List Nat := []
  deriving DecidableEq, Repr

end Sys2Proof.Machine
end

