-- ==== Sys2Proof/Syntax.lean ====
section
/-! DEFINITION. The commands of the block: one constructor per row of the opcode table. Operands: `n` a physical slice,
`t` a tracker, `a` an agent, `p` a pack, `pkt` a packet as it arrives (R514), `tag` the TAG of a register-port access
(R538), `form` the whole or the half that a write reaches (R554), `htx` a home TXID (R96), `i` a network interface
(0 to 65 a slice, 66 the Kennel, 67 the control island); the Sheepdog's instructions carry the fields of Table 10-3. -/

namespace Sys2Proof

/-- The commands. -/
inductive Instr where
  /-- REQUEST_ARRIVAL: R231 -/
  | requestArrival (n : Fin 66) (pkt : Pkt)
  /-- DATA_INCOMPLETE: R231 -/
  | dataIncomplete (n : Fin 66) (a : Fin 512)
  /-- ADMISSION_PHASE: R233 -/
  | admissionPhase (n : Fin 66)
  /-- CONTEST_EXPIRY: R235 -/
  | contestExpiry (n : Fin 66) (a : Fin 512)
  /-- BACKGROUND_FLOOR_DUE: R261 -/
  | backgroundFloorDue (n : Fin 66)
  /-- SCRUB_STEP_DUE: R388 -/
  | scrubStepDue (n : Fin 66)
  /-- RD_SHARED: R110 -/
  | rdShared (n : Fin 66) (t : Fin 240)
  /-- RD_UNIQUE: R110 -/
  | rdUnique (n : Fin 66) (t : Fin 240)
  /-- RD_ONCE: R110 -/
  | rdOnce (n : Fin 66) (t : Fin 240)
  /-- UPGRADE: R110 -/
  | upgrade (n : Fin 66) (t : Fin 240)
  /-- WR_BACK: R110 -/
  | wrBack (n : Fin 66) (t : Fin 240)
  /-- EVICT_CLEAN: R110 -/
  | evictClean (n : Fin 66) (t : Fin 240)
  /-- WR_FULL: R110 -/
  | wrFull (n : Fin 66) (t : Fin 240)
  /-- WR_PARTIAL: R110 -/
  | wrPartial (n : Fin 66) (t : Fin 240)
  /-- STASH: R222 -/
  | stash (n : Fin 66) (t : Fin 240)
  /-- ATOMIC: R171 -/
  | atomic (n : Fin 66) (t : Fin 240)
  /-- FAR_ATOMIC_EXECUTE: R177 -/
  | farAtomicExecute (n : Fin 66) (t : Fin 240)
  /-- LEASH_TAKE: R192 -/
  | leashTake (n : Fin 66) (t : Fin 240)
  /-- LEASH_FREE: R192 -/
  | leashFree (n : Fin 66) (t : Fin 240)
  /-- RESV_WATCH: R186 -/
  | resvWatch (n : Fin 66) (t : Fin 240)
  /-- WATCH_INSTALLED: R186 -/
  | watchInstalled (n : Fin 66) (t : Fin 240)
  /-- WATCH_AGE_REACHED: R190 -/
  | watchAgeReached (n : Fin 66) (t : Fin 240)
  /-- CANCEL: R142 -/
  | cancel (n : Fin 66) (pkt : Pkt)
  /-- BARRIER: R210 -/
  | barrier (n : Fin 66) (pkt : Pkt)
  /-- BARRIER_RELEASE: R212 -/
  | barrierRelease (n : Fin 66) (scope : Fin 3) (key : Fin 512)
  /-- SL_BARRIER_REPORT: R212 -/
  | slBarrierReport (n : Fin 66) (p : Fin 16)
  /-- SL_BARRIER_RELEASE: R212 -/
  | slBarrierRelease (n : Fin 66) (p : Fin 16)
  /-- SL_GEN_MISMATCH: R211 -/
  | slGenMismatch (n : Fin 66) (p : Fin 16)
  /-- BARRIER_TIMEOUT: R214 -/
  | barrierTimeout (n : Fin 66) (scope : Fin 3) (key : Fin 512)
  /-- SL_TIMEOUT_NOTICE: R214 -/
  | slTimeoutNotice (n : Fin 66) (p : Fin 16)
  /-- SL_MEMSYNC_REQUEST: R217 -/
  | slMemsyncRequest (n : Fin 66)
  /-- MEMSYNC_DONE: R217 -/
  | memsyncDone (n : Fin 66)
  /-- ACK_INVAL: R115 -/
  | ackInval (n : Fin 66) (pkt : Pkt)
  /-- ACK_FWD: R115 -/
  | ackFwd (n : Fin 66) (pkt : Pkt)
  /-- WR_DATA: R119 -/
  | wrData (n : Fin 66) (pkt : Pkt)
  /-- MEM_RSP: R115 -/
  | memRsp (n : Fin 66) (pkt : Pkt)
  /-- DATA_FROM_MEM: R176 -/
  | dataFromMem (n : Fin 66) (pkt : Pkt)
  /-- MEMORY_REQUEST_RELEASE: R113 -/
  | memoryRequestRelease (n : Fin 66) (htx : BitVec 12)
  /-- WAITING_REQUEST_DECIDE: R155 -/
  | waitingRequestDecide (n : Fin 66) (t : Fin 240)
  /-- WAY_OR_RECALL_FREE: R78 -/
  | wayOrRecallFree (n : Fin 66) (t : Fin 240)
  /-- STENCIL_OP_COMPLETE: R68 -/
  | stencilOpComplete (n : Fin 66)
  /-- FAR_REGISTER_IDLE: R179 -/
  | farRegisterIdle (n : Fin 66) (f : Fin 8)
  /-- LEASH_EXPIRY: R195 -/
  | leashExpiry (n : Fin 66) (l : Fin 32)
  /-- RESPONSE_TIMEOUT: R445 -/
  | responseTimeout (n : Fin 66) (htx : BitVec 12) (a : Fin 512)
  /-- DEAD_WALK_DONE: R447 -/
  | deadWalkDone
  /-- MEM_ANSWER_LATE: R530 -/
  | memAnswerLate (i : Fin 67) (htx : BitVec 12)
  /-- RESEND: R534 -/
  | resend (i : Fin 68) (pkt : Pkt)
  /-- RESEND_TIMEOUT: R535 -/
  | resendTimeout (i : Fin 68) (k : BitVec 12)
  /-- EPOCH_BOUNDARY: R254 -/
  | epochBoundary
  /-- QUOTA_WINDOW_START: R241 -/
  | quotaWindowStart (n : Fin 66)
  /-- CENSUS_JOB_START: R407 -/
  | censusJobStart (n : Fin 66)
  /-- CENSUS_SNOOP_START: R138 -/
  | censusSnoopStart (n : Fin 66) (j : Fin 8)
  /-- CENSUS_REPORT: R410 -/
  | censusReport (n : Fin 66) (pkt : Pkt)
  /-- CONTROL_LOGIC_FAULT: R427 -/
  | controlLogicFault (n : Fin 66) (cause : BitVec 8) (unaccepted : List (BitVec 12))
  /-- REPLAY_DONE: R429 -/
  | replayDone (n : Fin 66)
  /-- REPLAY_OVERRUN: R431 -/
  | replayOverrun (n : Fin 66)
  /-- SLICE_LINK_CHANNEL_TIMEOUT: R441 -/
  | sliceLinkChannelTimeout (n : Fin 66)
  /-- SPARE_READY: R442 -/
  | spareReady
  /-- SUBSTITUTION_COPY_DONE: R442 -/
  | substitutionCopyDone
  /-- SUBSTITUTION_MAP_DONE: R442 -/
  | substitutionMapDone
  /-- SUBSTITUTION_REPLAY_DONE: R442 -/
  | substitutionReplayDone
  /-- RECOVER_END: R442 -/
  | recoverEnd
  /-- GLB_MODECMD_DRAIN: R319 -/
  | glbModecmdDrain (tag : BitVec 8) (confirm : BitVec 8)
  /-- GLB_MODECMD_RUN: R319 -/
  | glbModecmdRun (tag : BitVec 8) (confirm : BitVec 8)
  /-- GLB_MODECMD_DORMANT: R321 -/
  | glbModecmdDormant (tag : BitVec 8) (confirm : BitVec 8)
  /-- GLB_MODECMD_WARM: R337 -/
  | glbModecmdWarm (tag : BitVec 8) (confirm : BitVec 8)
  /-- DORMANT_DRAINED: R321 -/
  | dormantDrained
  /-- DORMANT_FLUSHED: R321 -/
  | dormantFlushed
  /-- SCENT_BUILT: R291 -/
  | scentBuilt
  /-- DORMANT_SETTLE_EXPIRY: R321 -/
  | dormantSettleExpiry
  /-- SLICE_POWER_CHANGE_DONE: R309 -/
  | slicePowerChangeDone (n : Fin 66)
  /-- WAKE_WAVE_START: R326 -/
  | wakeWaveStart (rail : Fin 4)
  /-- SLICE_FILL_DONE: R312 -/
  | sliceFillDone (n : Fin 66)
  /-- WAKE_COMPLETE: R326 -/
  | wakeComplete
  /-- WAKE_SLICE_TIMEOUT: R329 -/
  | wakeSliceTimeout (n : Fin 66)
  /-- KENNEL_REQUEST: R293 -/
  | kennelRequest (pkt : Pkt)
  /-- KENNEL_MEM_RSP: R294 -/
  | kennelMemRsp (pkt : Pkt)
  /-- DORMANT_RATE_WINDOW: R295 -/
  | dormantRateWindow
  /-- CONTROL_ISLAND_IDLE_OFF: R325 -/
  | controlIslandIdleOff
  /-- XJ_PWRGOOD_RISE: R331 -/
  | xjPwrgoodRise
  /-- XJ_PWRGOOD_FALL: R342 -/
  | xjPwrgoodFall
  /-- XJ_AON_RST_ASSERT: R339 -/
  | xjAonRstAssert
  /-- XJ_AON_RST_RELEASE: R339 -/
  | xjAonRstRelease
  /-- XJ_COLD_RST_ASSERT: R340 -/
  | xjColdRstAssert
  /-- XJ_COLD_RST_RELEASE: R332 -/
  | xjColdRstRelease
  /-- COLD_RESET_HELD: R340 -/
  | coldResetHeld
  /-- BOOT_ROM_DONE: R331 -/
  | bootRomDone
  /-- FUSE_MAP_READ: R403 -/
  | fuseMapRead
  /-- CALIBRATION_CHECK: R302 -/
  | calibrationCheck
  /-- PLATE_VERIFY_DONE: R369 -/
  | plateVerifyDone
  /-- POWER_WAVE_START: R331 -/
  | powerWaveStart (rail : Fin 4)
  /-- SELFTEST_DONE: R336 -/
  | selftestDone (failed : List (Fin 66 × Fin 30 × BitVec 12))
  /-- CREDIT_WAVE: R333 -/
  | creditWave
  /-- ISLAND_SLOW: R305 -/
  | islandSlow (isl : Fin 68) (mhz : BitVec 12)
  /-- PMBUS_POLL: R285 -/
  | pmbusPoll (r : Fin 4)
  /-- PMBUS_READ_DONE: R285 -/
  | pmbusReadDone (r : Fin 4) (ok : Bool) (word : BitVec 16)
  /-- THERMAL_CONVERSION: R284 -/
  | thermalConversion (i : Fin 24) (raw : BitVec 16)
  /-- THERM_TRIP_CROSSING: R545 -/
  | thermTripCrossing (up : Bool)
  /-- STORE_WORD_PROGRAMMED: R299 -/
  | storeWordProgrammed (ok : Bool)
  /-- CALIB_OVERWRITE: R364 -/
  | calibOverwrite
  /-- ADDI: R275 -/
  | addi (d a : BitVec 6) (imm : BitVec 19)
  /-- ALU_ADD: R275 -/
  | aluAdd (d a b c : BitVec 6)
  /-- ALU_SUB: R275 -/
  | aluSub (d a b c : BitVec 6)
  /-- ALU_AND: R275 -/
  | aluAnd (d a b c : BitVec 6)
  /-- ALU_OR: R275 -/
  | aluOr (d a b c : BitVec 6)
  /-- ALU_XOR: R275 -/
  | aluXor (d a b c : BitVec 6)
  /-- ALU_SHL: R275 -/
  | aluShl (d a b c : BitVec 6)
  /-- ALU_SHR: R275 -/
  | aluShr (d a b c : BitVec 6)
  /-- ALU_SAR: R275 -/
  | aluSar (d a b c : BitVec 6)
  /-- ALU_MUL: R275 -/
  | aluMul (d a b c : BitVec 6)
  /-- ALU_MIN: R275 -/
  | aluMin (d a b c : BitVec 6)
  /-- ALU_MAX: R275 -/
  | aluMax (d a b c : BitVec 6)
  /-- ALU_MINU: R275 -/
  | aluMinu (d a b c : BitVec 6)
  /-- ALU_MAXU: R275 -/
  | aluMaxu (d a b c : BitVec 6)
  /-- LUI: R275 -/
  | lui (d a : BitVec 6) (imm : BitVec 19)
  /-- LD: R271 -/
  | ld (d a : BitVec 6) (imm : BitVec 19)
  /-- ST: R272 -/
  | st (d a : BitVec 6) (imm : BitVec 19)
  /-- STP: R278 -/
  | stp (d a : BitVec 6) (imm : BitVec 19)
  /-- BCC: R275 -/
  | bcc (a b : BitVec 6) (cond : BitVec 3) (off : BitVec 16)
  /-- JAL: R275 -/
  | jal (d a : BitVec 6) (imm : BitVec 19)
  /-- SAMPLE: R283 -/
  | sample (d a : BitVec 6) (imm : BitVec 19)
  /-- MED3: R275 -/
  | med3 (d a b c : BitVec 6) (fn : BitVec 7)
  /-- IIR: R275 -/
  | iir (d a : BitVec 6) (imm : BitVec 19)
  /-- DEB: R277 -/
  | deb (d a : BitVec 6) (imm : BitVec 19)
  /-- RCHK: R275 -/
  | rchk (d a b c : BitVec 6) (fn : BitVec 7)
  /-- TMO: R275 -/
  | tmo (d a : BitVec 6) (imm : BitVec 19)
  /-- REG_READ: R275 -/
  | regRead (d a b c : BitVec 6)
  /-- REG_WRITE: R275 -/
  | regWrite (d a b c : BitVec 6)
  /-- GRANT: R286 -/
  | grant (d a b c : BitVec 6) (fn : BitVec 7)
  /-- PWR: R286 -/
  | pwr (d a : BitVec 6) (imm : BitVec 19)
  /-- CLK: R286 -/
  | clk (d a b c : BitVec 6) (fn : BitVec 7)
  /-- BARK: R275 -/
  | bark (d a : BitVec 6) (imm : BitVec 19)
  /-- LOG: R275 -/
  | log (d a : BitVec 6) (imm : BitVec 19)
  /-- KST_LOG: R287 -/
  | kstLog (d a : BitVec 6) (hi : BitVec 10) (typ : BitVec 8)
  /-- KST_SLOT: R287 -/
  | kstSlot (d a : BitVec 6) (hi : BitVec 10) (slot : BitVec 8)
  /-- MODE: R318 -/
  | mode (d a : BitVec 6) (imm : BitVec 19)
  /-- WAIT: R276 -/
  | wait (d a : BitVec 6) (imm : BitVec 19)
  /-- WAIT_END: R276 -/
  | waitEnd
  /-- WDT: R281 -/
  | wdt (d a : BitVec 6) (imm : BitVec 19)
  /-- WATCHDOG_EXPIRY: R281 -/
  | watchdogExpiry
  /-- SHEEPDOG_RESTART: R280 -/
  | sheepdogRestart
  /-- SHD_CMD_RESTART: R280 -/
  | shdCmdRestart (tag : BitVec 8)
  /-- SHD_CMD_SAFE: R282 -/
  | shdCmdSafe (tag : BitVec 8)
  /-- SHD_CTL_HALT: R281 -/
  | shdCtlHalt (tag : BitVec 8) (form : WrForm)
  /-- SHD_MBOX_WRITE: R276 -/
  | shdMboxWrite (tag : BitVec 8) (i : Fin 8) (form : WrForm)
  /-- KNL_PLCMD_INSTALL: R371 -/
  | knlPlcmdInstall (tag : BitVec 8) (confirm : BitVec 8)
  /-- PLATE_LINE_FETCHED: R372 -/
  | plateLineFetched (pkts : List Pkt)
  /-- PLATE_FETCH_TIMEOUT: R374 -/
  | plateFetchTimeout (k : BitVec 6)
  /-- PLATE_SLOT_WRITTEN: R371 -/
  | plateSlotWritten
  /-- KNL_PLCMD_RELOAD: R375 -/
  | knlPlcmdReload (tag : BitVec 8) (confirm : BitVec 8)
  /-- RELOAD_DONE: R375 -/
  | reloadDone
  /-- KNL_PLCMD_CHECK: R379 -/
  | knlPlcmdCheck (tag : BitVec 8) (confirm : BitVec 8)
  /-- GLB_LOCK_WRITE: R558 -/
  | glbLockWrite (tag : BitVec 8) (form : WrForm)
  /-- PRT_KEYR_WRITE: R39 -/
  | prtKeyrWrite (tag : BitVec 8) (a : Fin 512) (form : WrForm)
  /-- PCK_WIN_WRITE: R40 -/
  | pckWinWrite (tag : BitVec 8) (p : Fin 16) (w : Fin 8) (attr : Bool) (form : WrForm)
  /-- PCK_FENCE: R49 -/
  | pckFence (tag : BitVec 8) (p : Fin 16) (v : Word)
  /-- FENCE_DONE: R51 -/
  | fenceDone (p : Fin 16)
  /-- PCK_GATE_WRITE: R265 -/
  | pckGateWrite (tag : BitVec 8) (p : Fin 16) (form : WrForm)
  /-- PCK_SHAPE_WRITE: R259 -/
  | pckShapeWrite (tag : BitVec 8) (p : Fin 16) (form : WrForm)
  /-- PCK_RESV_WRITE: R184 -/
  | pckResvWrite (tag : BitVec 8) (p : Fin 16) (form : WrForm)
  /-- PCK_ORD_WRITE: R163 -/
  | pckOrdWrite (tag : BitVec 8) (p : Fin 16) (form : WrForm)
  /-- SLC_EGRANT_WRITE: R256 -/
  | slcEgrantWrite (tag : BitVec 8) (n : Fin 66) (form : WrForm)
  /-- PCK_RESET: R451 -/
  | pckReset (tag : BitVec 8) (p : Fin 16) (v : Word)
  /-- PACK_RESET_DRAINED: R451 -/
  | packResetDrained (p : Fin 16)
  /-- PACK_RESET_WALK_DONE: R451 -/
  | packResetWalkDone (p : Fin 16)
  /-- PRT_RETIRE: R450 -/
  | prtRetire (tag : BitVec 8) (a : Fin 512) (v : Word)
  /-- RETIREMENT_DONE: R450 -/
  | retirementDone (a : Fin 512)
  /-- SLC_RPL_CMD_FORCE: R427 -/
  | slcRplCmdForce (tag : BitVec 8) (n : Fin 66)
  /-- BRN_CMD_SUBMIT: R466 -/
  | brnCmdSubmit (tag : BitVec 8) (slot : Fin 16)
  /-- BRN_CMD_CANCEL: R468 -/
  | brnCmdCancel (tag : BitVec 8) (slot : Fin 16)
  /-- BRN_SUBMIT_CANCEL: R469 -/
  | brnSubmitCancel (tag : BitVec 8) (slot : Fin 16)
  /-- BURIN_JOB_START: R467 -/
  | burinJobStart
  /-- BURIN_CHUNK_ISSUE: R458 -/
  | burinChunkIssue
  /-- BURIN_CHUNK_COMPLETE: R458 -/
  | burinChunkComplete
  /-- LEDGER_TAKE_RECORD: R478 -/
  | ledgerTakeRecord
  /-- LEDGER_FLUSH_AGE: R477 -/
  | ledgerFlushAge
  /-- LDG_CMD_FLUSH: R477 -/
  | ldgCmdFlush (tag : BitVec 8)
  /-- LEDGER_SPILL_DONE: R480 -/
  | ledgerSpillDone (pkt : Pkt)
  /-- LEDGER_REFILL: R481 -/
  | ledgerRefill (pkts : List Pkt)
  /-- LEDGER_REFILL_TIMEOUT: R481 -/
  | ledgerRefillTimeout (k : BitVec 5)
  /-- LDG_HEAD_READ: R483 -/
  | ldgHeadRead (tag : BitVec 8)
  /-- LDG_RING_WRITE: R486 -/
  | ldgRingWrite (tag : BitVec 8) (form : WrForm)
  /-- LDG_CTL_WRITE: R486 -/
  | ldgCtlWrite (tag : BitVec 8) (form : WrForm)
  /-- BARK_COMMIT: R491 -/
  | barkCommit
  /-- MODERATION_EXPIRY: R494 -/
  | moderationExpiry (t : Fin 8)
  /-- BRK_SWSET_RAISE: R489 -/
  | brkSwsetRaise (tag : BitVec 8) (src : BitVec 10) (wdraw : Bool)
  /-- BRK_SWSET_WDRAW: R490 -/
  | brkSwsetWdraw (tag : BitVec 8) (src : BitVec 10)
  /-- BRK_PEND_CLEAR: R490 -/
  | brkPendClear (tag : BitVec 8) (k : Fin 16) (form : WrForm)
  /-- BRK_CLAIM_READ: R496 -/
  | brkClaimRead (tag : BitVec 8) (t : Fin 8)
  /-- IRQ_TRANSFER: R542 -/
  | irqTransfer
  /-- IRQ_DROP: R543 -/
  | irqDrop
  /-- REGISTER_WRITE: R556 -/
  | registerWrite (acc : RegAcc)
  /-- SECOND_BEAT_TIMEOUT: R540 -/
  | secondBeatTimeout (acc : RegAcc)
  /-- FRZ_CMD_FREEZE: R498 -/
  | frzCmdFreeze (tag : BitVec 8)
  /-- XJ_FREEZE_ASSERT: R498 -/
  | xjFreezeAssert
  /-- XJ_FREEZE_DEASSERT: R506 -/
  | xjFreezeDeassert
  /-- FROZEN: R499 -/
  | frozen
  /-- TAP_SETHOLD: R498 -/
  | tapSethold
  /-- TAP_CLRHOLD: R498 -/
  | tapClrhold
  /-- TAP_PRFPORT: R508 -/
  | tapPrfport (arrays scent : Bool)
  /-- TAP_PRFTAP: R508 -/
  | tapPrftap (arrays scent : Bool)
  /-- TAP_ABORT: R512 -/
  | tapAbort
  /-- READOUT_END: R511 -/
  | readoutEnd
  /-- THAW_COMPLETE: R506 -/
  | thawComplete
  /-- DBGDR_READ: R512 -/
  | dbgdrRead (off : BitVec 20)
  /-- DBGDR_WRITE_AADDR: R512 -/
  | dbgdrWriteAaddr (v : BitVec 63)
  /-- TAP_RESET: R548 -/
  | tapReset
  /-- FRZ_AADDR: R513 -/
  | frzAaddr (tag : BitVec 8) (v : Word)
  /-- DEBUG_ARRAY_READ: R513 -/
  | debugArrayRead
  /-- KENNEL_SCRUB: R392 -/
  | kennelScrub
  /-- LIFE_RECORD: R573 -/
  | lifeRecord
  /-- CONTROL_ISLAND_READY: R325 -/
  | controlIslandReady
  /-- NETWORK_INTERFACE_FAULT: R427 -/
  | networkInterfaceFault (n : Fin 66)
  /-- PLATE_CHECK_DONE: R379 -/
  | plateCheckDone
  /-- SL_TIMEOUT_REPLY: R214 -/
  | slTimeoutReply (n : Fin 66) (p : Fin 16)
  deriving DecidableEq, Repr

end Sys2Proof
end

