-- ==== Sys2Proof/Machine/State.lean ====
section
/-! DEFINITION. The state of the block, its faults and refusals, and the state after reset. -/

namespace Sys2Proof.Machine

/-- Why a step stops with a fault. -/
inductive Fault where
  /-- Raised by no command: the specification gives every command of the table an effect. Safe. -/
  | stuck
  deriving DecidableEq, Repr

/-- Why a step is refused. -/
inductive Refusal where
  /-- A command whose meaning is not written, by its mnemonic: raised by Dispatch alone. Safe. -/
  | notModelled (mnemonic : String)
  deriving DecidableEq, Repr

/-- A credit token sent: kind, source and receiver, running count (R523). -/
structure Token where
  ctl   : Bool
  from_ : Nat
  dest  : Nat
  count : BitVec 8
  deriving DecidableEq, Repr

/-- The pins that hold a level between commands (Table 18-8): inputs after their filters, and outputs. `sysIdleRaw`: XJ_SYS_IDLE
before its filter, and `sysIdleNs` for how long it has stood, up to the filter's 1 µs. -/
structure Pins where
  pwrgood : Bool := false
  aonRst  : Bool := false
  coldRst : Bool := false
  dormant : Bool := false
  thermTrip : Bool := false
  sysIdle : Bool := false
  sysIdleRaw : Bool := false
  sysIdleNs : Nat := 0
  deriving DecidableEq, Repr

/-- GLB_LOCK (Table 19-13). -/
structure LockReg where
  lock : Bool := false
  deriving DecidableEq, Repr

/-- Slices as after a reset; each keeps the counter of its free values (log entry 3), which start apart. -/
def blankSlices (fv : Nat → Nat) : Vector Slice 66 := Vector.ofFn fun n => { fv := fv n.val }

/-- The state of the block. `link`: messages in flight on the slice link; `out`, `tokens`, `irq`: what the block has sent
to the network, as credit tokens, and on the interrupt output, oldest first; `pending`: the commands waiting. -/
structure State where
  sh     : Shared := {}
  slices : Vector Slice 66 := blankSlices fun n => n * 2 ^ 64
  link   : List Link := []
  kn     : Kennel := {}
  ctl    : Control := {}
  lock   : LockReg := {}
  pins   : Pins := {}
  out    : List Msg := []
  tokens : List Token := []
  irq    : List IMsg := []
  pending : List Instr := []
  deriving DecidableEq, Repr

/-- The word index in the Kennel store of the calibration set's first half (Table 10-12). -/
def calBase : Nat := 0x410000 / 8

/-- The calibration set of the part the model starts from, words 2 to 306 (Table 12-7): particular to each part, so a
choice of the model (log entry 20). Energy costs are those of Table 9-4. -/
def factoryCalBody : List Word :=
  [0x200] ++ List.replicate 24 (0x80000000 : Word) ++ List.replicate 8 0 ++
  [0x030301010C020206, 0x0202060301180104] ++ List.replicate 270 0

/-- CRC-32C of `factoryCalBody` (R300); a test checks it. -/
def factoryCalCrc : BitVec 32 := 0xc463d762

/-- The factory calibration set as stored in the first half of its range (R300). -/
def factoryStore : KMem :=
  (((0x000100000001 : Word) :: (0x013300000000 ||| factoryCalCrc.setWidth 64) :: factoryCalBody).zipIdx.filter fun x => x.1 != 0).map
    fun x => (calBase + x.2, encode72 x.1 ((calBase + x.2) % 32768))

/-- The fuse map of the part the model starts from: a case that R584 names, 66 usable slices and no repair (log entry
20). The word at 4,096 + i is the second copy of word i (R402). -/
def factoryFuse : List (Nat × W72) :=
  let ws : List (Nat × Word) := [(0, 0x0512B00000000000), (3, factoryCalCrc.setWidth 64), (4, 0xFFFFFFFFFFFFFFFF), (5, 3)]
  let f := fun (o : Nat) => ws.map fun x => (o + x.1, encode72 x.2 0)
  f 0 ++ f 4096

/-- The block before XJ_PWRGOOD rises: no island on, every register at its reset value, the Kennel store and the fuse map
as a part is shipped (R584). Registers with Reset entry P read zero until a plate is applied (log entry 21). -/
def State.reset : State :=
  { kn := { store := factoryStore, fuse := factoryFuse, cal := { crc := factoryCalCrc, ver := 1 }, fv := 66 * 2 ^ 64 }
    ctl := { rcv := { spares := 2 }, ldg := { fv := 67 * 2 ^ 64 } } }

end Sys2Proof.Machine
end

