-- ==== Sys2Proof/Machine/Ops.lean ====
section
/-! DEFINITION. Named operations over the whole state: events to the Ledger, the Bark unit and the Kennel store, messages
to the network, credit tokens, and a slice operation lifted to the state with its effects. -/

namespace Sys2Proof.Machine

/-- The shared part changed. -/
def State.updSh (s : State) (f : Shared → Shared) : State := { s with sh := f s.sh }
/-- The Kennel changed. -/
def State.updKn (s : State) (f : Kennel → Kennel) : State := { s with kn := f s.kn }
/-- The Sheepdog changed. -/
def State.updSheep (s : State) (f : Sheep → Sheep) : State := { s with kn := { s.kn with sheep := f s.kn.sheep } }
/-- The plate status changed. -/
def State.updPlate (s : State) (f : PlateSt → PlateSt) : State := { s with kn := { s.kn with plate := f s.kn.plate } }
/-- The control island changed. -/
def State.updCtl (s : State) (f : Control → Control) : State := { s with ctl := f s.ctl }
/-- The mode progress changed. -/
def State.updMs (s : State) (f : ModeSt → ModeSt) : State := { s with ctl := { s.ctl with ms := f s.ctl.ms } }
/-- The substitution status changed. -/
def State.updRcv (s : State) (f : Rcv → Rcv) : State := { s with ctl := { s.ctl with rcv := f s.ctl.rcv } }
/-- The register port changed. -/
def State.updRp (s : State) (f : RegPort → RegPort) : State := { s with ctl := { s.ctl with rp := f s.ctl.rp } }
/-- The Ledger changed. -/
def State.updLdg (s : State) (f : Ledger → Ledger) : State := { s with ctl := { s.ctl with ldg := f s.ctl.ldg } }
/-- The Bark unit changed. -/
def State.updBrk (s : State) (f : Bark → Bark) : State := { s with ctl := { s.ctl with brk := f s.ctl.brk } }
/-- The Burin engine changed. -/
def State.updBrn (s : State) (f : Burin → Burin) : State := { s with ctl := { s.ctl with brn := f s.ctl.brn } }
/-- The freeze controller changed. -/
def State.updFrz (s : State) (f : Frz → Frz) : State := { s with ctl := { s.ctl with frz := f s.ctl.frz } }
/-- The pins changed. -/
def State.updPins (s : State) (f : Pins → Pins) : State := { s with pins := f s.pins }
/-- The slice link changed. -/
def State.updLink (s : State) (f : List Link → List Link) : State := { s with link := f s.link }
/-- One more message sent to the network. -/
def State.updOut (s : State) (f : List Msg → List Msg) : State := { s with out := f s.out }
/-- One more credit token sent. -/
def State.updTokens (s : State) (f : List Token → List Token) : State := { s with tokens := f s.tokens }
/-- One more message of the interrupt output. -/
def State.updIrq (s : State) (f : List IMsg → List IMsg) : State := { s with irq := f s.irq }
/-- A port's registers changed. -/
def Shared.updPort (g : Shared) (a : Nat) (f : Port → Port) : Shared :=
  if h : a < 512 then { g with ports := g.ports.set a (f g.ports[a]) } else g
/-- A pack's registers changed. -/
def Shared.updPack (g : Shared) (p : Nat) (f : Pack → Pack) : Shared :=
  if h : p < 16 then { g with packs := g.packs.set p (f g.packs[p]) } else g
/-- Physical slice `n`. -/
def State.slice (s : State) (n : Nat) : Slice := if h : n < 66 then s.slices[n] else {}
/-- Physical slice `n` changed. -/
def State.updSlice (s : State) (n : Nat) (f : Slice → Slice) : State :=
  if h : n < 66 then { s with slices := s.slices.set n (f s.slices[n]) } else s
/-- Every slice changed. -/
def State.mapSlices (s : State) (f : Nat → Slice → Slice) : State :=
  (List.range 66).foldl (fun s n => s.updSlice n (f n)) s
/-- The numbers of the slices that are active and on. -/
def State.liveSlices (s : State) : List Nat :=
  (List.range 66).filter fun n => (s.slice n).active && (s.slice n).pwr == .on
/-- An active slice is in replay. -/
def State.anyReplay (s : State) : Bool := s.liveSlices.any fun n => (s.slice n).replay

/-! ### The Ledger's and the Bark unit's inputs -/

/-- LDG_STAT.FULL: the tail holds 4 closed blocks (R484). -/
def Ledger.full (l : Ledger) : Bool := decide (4 ≤ l.tail.length)
/-- LDG_UEN (R473). -/
def Ledger.unitOn (l : Ledger) (u : Nat) : Bool := if u < 64 then l.uen0.getLsbD u else l.uen1.getLsbD (u - 64)
/-- The unit queue of unit `u`. -/
def Ledger.queue (l : Ledger) (u : Nat) : List LEvt := tget [] l.queues u
/-- The unit queue of unit `u` set. -/
def Ledger.setQueue (l : Ledger) (u : Nat) (q : List LEvt) : Ledger := { l with queues := tset [] l.queues u q }

/-- A source made pending (R489); one pending bit however often it is raised. -/
def Bark.raise (b : Bark) (now src : Nat) : Bark :=
  if b.pend.contains src then b
  else { b with pend := insSorted (fun x y => decide (x ≤ y)) src b.pend, since := tset 0 b.since src now }

/-- A raise noted with the party that made it, for withdrawals of the same cycle (R490, R8): `sw` for software. -/
def Bark.noted (b : Bark) (now src : Nat) (sw : Bool) : Bark :=
  { b with raised := (src, sw) :: (if b.raisedAt = now then b.raised else []), raisedAt := now }

/-- A party, software or the hardware, raised the source in the present cycle. -/
def Bark.raisedBy (b : Bark) (now : Nat) (sw : Bool) (src : Nat) : Bool := b.raisedAt == now && b.raised.contains (src, sw)

/-- A source raised by the hardware at the Bark unit. -/
def State.brkRaise (s : State) (src : Nat) : State := s.updBrk fun b => (b.raise s.sh.now src).noted s.sh.now src false

/-- An event discarded for want of room in its unit's queue (R472, R484). -/
def State.ledgerLost (s : State) (u : Nat) : State :=
  let full := s.ctl.ldg.full
  let s := s.updLdg fun l => { l with
    unitLost := tset 0 l.unitLost u (satInc (tget 0 l.unitLost u)), lost := l.lost + 1, ovr := l.ovr || full, ovrAt := if full then some s.sh.now else l.ovrAt }
  if full then s.brkRaise 861 else s

/-- A Bark source raised: at the Bark unit while the control island is on, otherwise in the Kennel queue (R287, R497). -/
def State.bark (s : State) (src : Nat) : State :=
  if s.ctl.on then s.brkRaise src
  else if 64 ≤ s.kn.evq.length then s.updKn fun k => { k with evLost := satInc k.evLost }
  else s.updKn fun k => { k with evq := k.evq ++ [{ at_ := s.sh.now, bark := some src }] }

/-- An event of this TYPE from unit `u` is discarded before its queue (R473, R486). -/
def Ledger.filters (l : Ledger) (u typ : Nat) : Bool := !l.ctl.getLsbD 0 || !l.unitOn u || !l.ten.getLsbD typ

/-- A Ledger event of unit `u`, its record or series (R472, R473, R475, R486): filtered, queued, or lost. The Kennel's queue is that of
R287. -/
def State.ledgerRecs (s : State) (u : Nat) (rs : List LRec) : State :=
  let l := s.ctl.ldg
  if rs.any (fun r => l.filters u r.typ) then s.updLdg fun l => { l with filt := l.filt + 1 }
  else if u = 68 then
    if 64 ≤ s.kn.evq.length then s.ledgerLost 68
    else s.updKn fun k => { k with evq := k.evq ++ [{ at_ := s.sh.now, recs := rs }] }
  else if 32 ≤ (l.queue u).length then s.ledgerLost u
  else s.updLdg fun l => l.setQueue u (l.queue u ++ [{ at_ := s.sh.now, recs := rs }])

/-- A Ledger event of one record. -/
def State.ledgerEv (s : State) (u typ sub : Nat) (data : List Word) : State := s.ledgerRecs u [{ typ := typ, sub := sub, data := data }]

/-- An event of the Kennel that raises a Bark source with its record: while the control island is off the two are one entry of the
Kennel's queue, and one loss when the queue is full (R287, R472, R497). -/
def State.knlEvent (s : State) (typ sub : Nat) (data : List Word) (src : Nat) : State :=
  if s.ctl.on || s.ctl.ldg.filters 68 typ then (s.ledgerEv 68 typ sub data).bark src
  else if 64 ≤ s.kn.evq.length then s.ledgerLost 68
  else s.updKn fun k => { k with evq := k.evq ++ [{ at_ := s.sh.now, bark := some src, recs := [{ typ := typ, sub := sub, data := data }] }] }

/-! ### The Kennel store's queue -/

/-- Words of a record at record index `i` of a range that starts at word `base` (R297): words 1 to 3 first, then word 0. -/
def recordWords (base i : Nat) (why : PWhy) (r : KRec) (seq : BitVec 32) (count : BitVec 24) : List PWord :=
  let a := base + 4 * i
  let w0 : Word := (r.typ.setWidth 64 <<< 56) ||| (count.setWidth 64 <<< 32) ||| seq.setWidth 64
  [{ idx := a + 1, data := r.at_, why := why }, { idx := a + 2, data := r.lo, why := why },
   { idx := a + 3, data := r.hi, why := why }, { idx := a, data := w0, why := why }]

/-- A record may be written now under the rates of R298. -/
def Kennel.mayWrite (k : Kennel) (now : Nat) (d : KDest) : Bool :=
  match d with
  | .log => decide ((k.logTimes.filter fun t => decide (now < t + 1000000000)).length < 1000)
  | .slot n => decide ((k.slotTimes.filter fun x => x.1 == n.toNat && decide (now < x.2 + 1000000000)).length < 10)

/-- Word index i lies in a block that has failed for good (R299). -/
def Kennel.blockDead (k : Kennel) (i : Nat) : Bool := k.dead.contains (i / 512)

/-- Where word i of the Kennel store lies: in its own block, or in the reserve block that stands for it (R299). -/
def Kennel.storeAt (k : Kennel) (i : Nat) : Nat :=
  match k.remap.find? (·.1 == i / 512) with
  | some r => (0x700000 / 8) + 512 * r.2 + i % 512
  | none => i

/-- The word programmed next: records, overlay and calibration before a plate's words, which they slow (R374). -/
def Kennel.nextWord (k : Kennel) : Option PWord :=
  match k.prog.find? (fun p => p.why != .plate) with
  | some p => some p
  | none => k.prog.head?

/-- First word of the record log. -/
def logBase : Nat := 0x500000 / 8
/-- First word of persistent slot n. -/
def slotWords (n : Nat) : Nat := 0x430000 / 8 + 416 * n

/-- The log position at or after `p` whose block can be written; failed blocks are skipped (R299). -/
def Kennel.logAt (k : Kennel) (p : Nat) : Option Nat :=
  ((List.range 513).map fun j => if j = 0 then p else (p / 128 + j) * 128 % 65536).find? fun q => !k.blockDead (logBase + 4 * q)

/-- The next record of the queue moves to programming when nothing is being programmed for a record (R297, R298). The log is a ring of
65,536 records and a slot a ring of 104. A slot whose block has failed keeps its last value (R299). -/
def Kennel.pump (k : Kennel) (now : Nat) : Kennel :=
  if k.prog.any (fun p => match p.why with | .log => true | .slot _ => true | _ => false) then k
  else match k.queue.find? (fun r => k.mayWrite now r.dest) with
    | none => k
    | some r =>
      let k := { k with queue := k.queue.erase r }
      match r.dest with
      | .log =>
        match k.logAt k.logPos with
        | none => k
        | some pos =>
          let seq : BitVec 32 := k.logSeq + 1
          { k with
            logSeq := seq, logPos := (pos + 1) % 65536, logLost := 0
            logTimes := now :: k.logTimes.filter (fun t => decide (now < t + 1000000000))
            prog := k.prog ++ recordWords logBase pos .log r seq k.logLost }
      | .slot n =>
        let seq : BitVec 32 := tget 0 k.slotSeq n.toNat + 1
        let i := (seq - 1).toNat % 104
        if k.blockDead (slotWords n.toNat + 4 * i) then k
        else
          { k with
            slotSeq := tset 0 k.slotSeq n.toNat seq
            slotTimes := (n.toNat, now) :: k.slotTimes.filter (fun x => decide (now < x.2 + 1000000000))
            prog := k.prog ++ recordWords (slotWords n.toNat) i (.slot n) r seq 0 }

/-- First word of the identity and life data area (Table 10-12). -/
def identBase : Nat := 0x400000 / 8

/-- A record of the identity and life data area begins to be programmed: slot records in ring 0, floor records in ring 1 and life
records in ring 2, of 256 records each (R297, R345, R346, R573; DESIGN CHOICE, log entry 73). -/
def Kennel.identWrite (k : Kennel) (now ring : Nat) (why : PWhy) (data : Word) (hi : Word := 0) : Kennel :=
  let seq : BitVec 32 := tget 0 k.idSeq ring + 1
  { k with
    idSeq := tset 0 k.idSeq ring seq
    prog := k.prog ++ recordWords (identBase + 1024 * ring) ((seq - 1).toNat % 256) why
      { dest := .log, typ := Config.kstType (32 + ring), at_ := BitVec.ofNat 64 now, lo := data, hi := hi } seq 0 }

/-- A record of the identity and life data area that cannot be written leaves the previous one valid. -/
def Kennel.identLost (k : Kennel) (ring : Nat) (why : PWhy) : Kennel :=
  { k with prog := k.prog.filter (·.why != why), idSeq := tset 0 k.idSeq ring (tget 0 k.idSeq ring - 1) }

/-- A record queued (R287): a slot record replaces a queued record of its slot; a log record that finds the queue full is
counted, and a slot record that finds it full is dropped (DESIGN CHOICE, log entry 91). -/
def Kennel.enqueue (k : Kennel) (now : Nat) (r : KRec) : Kennel :=
  let k := match r.dest with | .slot _ => { k with queue := k.queue.filter (·.dest != r.dest) } | .log => k
  let k := if 16 ≤ k.queue.length then (match r.dest with | .log => { k with logLost := satInc k.logLost } | .slot _ => k)
    else { k with queue := k.queue ++ [r] }
  k.pump now

/-- A record-log record of the Kennel's own, kind `typ` (R280, R299, R340, R341, R369, R444, R446, R449). -/
def State.kst (s : State) (typ : Nat) (data : List Word) : State :=
  s.updKn fun k => k.enqueue s.sh.now
    { dest := .log, typ := Config.kstType typ, at_ := BitVec.ofNat 64 s.sh.now, lo := data.getD 0 0, hi := data.getD 1 0 }

/-! ### The network -/

/-- Destination index of a route table (R356). -/
def routeIdx (dst : Nat) : Nat := if dst = kennelNode then 544 else if dst = ctlNode then 545 else if 640 ≤ dst then dst - 128 else dst

/-- The newest messages of a list within `lim` units (R534). -/
def keepUnits (lim : Nat) (ms : List Msg) : List Msg :=
  (ms.reverse.foldl (fun (x : Nat × List Msg) m =>
    let u := x.1 + 1 + m.units.length
    if u ≤ lim then (u, m :: x.2) else (lim + 1, x.2)) (0, [])).2

/-- W0 and W1 of a message's header unit (Table 18-1). -/
def Msg.header (m : Msg) : Word × Word :=
  (put m.cls.toNat 0 ||| put m.cmd.toNat 2 ||| put m.src.toNat 7 ||| put m.dst.toNat 17 ||| put m.txid.toNat 27 ||| put m.pack.toNat 39 |||
    put m.units.length 43 ||| put (fld m.f 17 0) 46,
   put m.line.toNat 0 ||| put m.route.toNat 42 ||| put (fld m.f 27 18) 54)

/-- Unit `u` of a packet as it is sent: each word with the check bits of its place (R514). -/
def unitOf (u : Nat) (w : Word × Word) : RawUnit := ⟨encode72 w.1 u, encode72 w.2 (u + 8)⟩

/-- The packet as which a message leaves: the header unit, then its parameter and data units (R514, R515, R517, R518). -/
def Msg.packet (m : Msg) : Pkt :=
  unitOf 0 m.header :: m.units.zipIdx.map fun (x, k) => unitOf (k + 1) (x.setWidth 64, (x >>> 64).setWidth 64)

/-- The native word as which a token travels (R523). -/
def Token.word (t : Token) : W72 :=
  encode72 (put (if t.ctl then 1 else 0) 0 ||| put t.from_ 2 ||| put t.dest 12 ||| put t.count.toNat 21) 0

/-- The packets that have left, in their order (R514). -/
def State.packets (s : State) : List Pkt := s.out.map Msg.packet

/-- The token words that have left, in their order (R523). -/
def State.tokenWords (s : State) : List W72 := s.tokens.map Token.word

/-- A message sent by interface `i` by a given route: it leaves, and its copy is kept (R534). -/
def State.sendBy (s : State) (i : Nat) (route : Word) (m : Msg) : State :=
  let m := { m with route := route.setWidth 12 }
  let s := s.updOut (· ++ [m])
  if i < 66 then s.updSlice i fun x => { x with copies := keepUnits 4096 (x.copies ++ [m]) }
  else if i = 66 then s.updKn fun k => { k with copies := keepUnits 128 (k.copies ++ [m]) }
  else s.updCtl fun c => { c with copies := keepUnits 512 (c.copies ++ [m]) }

/-- The route word for a packet of interface `i` to `dst` (R525): of its route table, or, at the Kennel with no plate in force, KNL_PLROUTE.
-/
def State.routeTo (s : State) (i dst : Nat) : Word :=
  if i = 66 ∧ !s.kn.plate.inf then s.kn.plate.route else tget 0 s.ctl.routes (546 * i + routeIdx dst)

/-- A message sent by interface `i` (0 to 65 a slice, 66 the Kennel, 67 the control island): its route is looked up
(R525), its copy is kept (R534), and nothing goes to an absent, dead or retired agent (R23, R447, R450). -/
def State.send (s : State) (i : Nat) (m : Msg) : State :=
  if m.dst.toNat < 512 && (s.sh.port m.dst.toNat).absent then s
  else s.sendBy i (s.routeTo i m.dst.toNat) m

/-- A credit token sent (R523, R524). -/
def State.token (s : State) (ctl : Bool) (from_ dst : Nat) (count : BitVec 8) : State :=
  if (s.sh.port dst).absent then s else s.updTokens (· ++ [{ ctl := ctl, from_ := from_, dest := dst, count := count }])

/-! ### Failed slices and dead agents, as far as one slice's operation can cause them -/

/-- Usable spares: slices that the fuse map marks usable, neither active nor failed (R352, R442). -/
def State.usable (s : State) (n : Nat) : Bool :=
  if n < 64 then (s.kn.fuseWord 4).getLsbD n else (s.kn.fuseWord 5).getLsbD (n - 64)

/-- The usable spares in ascending number. -/
def State.spares (s : State) : List Nat :=
  (List.range 66).filter fun n => s.usable n && !(s.slice n).active && !(s.slice n).failed && !(s.slice n).sink

/-- A message that its interface had not accepted after all (R423). -/
def State.withdraw (s : State) (n : Nat) (m : Msg) : State :=
  let drop := fun (l : List Msg) => (l.reverse.eraseP fun x => { x with route := m.route } == m).reverse
  (s.updOut drop).updSlice n fun x => { x with copies := drop x.copies }

/-- An effect of slice `n` on its network interface. -/
def State.applyNet (n : Nat) (s : State) (e : Eff) : State :=
  match e with
  | .send m => s.send n m
  | .again m => s.sendBy n (m.route.setWidth 64) m
  | .withdraw m => s.withdraw n m
  | .token ctl a c => s.token ctl (sliceNode n) a c
  | _ => s

/-- An operation of a failing slice, of which only the network sees the effects. -/
def State.onFailing (s : State) (n : Nat) (f : Work → Work) : State :=
  let w := f { n := n, sl := s.slice n }
  w.eff.foldl (State.applyNet n) (s.updSlice n fun _ => w.sl)

/-- The transition that brings a spare on (Table 11-5): one that is on already, or on its way, needs none (DEDUCED, log entry 52). -/
def Pwr.rising : Pwr → Pwr
  | .off | .toOff => .settling
  | .retained | .toRet => .fromRet
  | p => p

/-- A substitution begun for failed slice `n` (R442, Table 14-6 step 1), or its logical slice lost (R444). -/
def State.startSubst (s : State) (n : Nat) : State :=
  let x := s.slice n
  let s := s.updSlice n fun x => { x with failed := true, rplFail := true }
  match s.spares.head? with
  | some sp =>
    let s := if x.replay then s else s.onFailing n fun w =>
      let ts := w.sl.cutShort
      (w.unaccept ts).upd fun x => { x with unsent := x.unsent ++ ts, fv := x.fv + 1 }
    let s := s.updSlice n fun x => { x with sink := true, replay := false, emergency := true }
    let s := s.updSlice sp fun y => { y with pwr := y.pwr.rising, logical := x.logical }
    let left : Mode := if s.sh.mode = .dormant then .run else s.sh.mode
    let s := s.updSh fun g => { g with prev := if g.mode = .recover then g.prev else left, mode := .recover }
    let s := s.updMs fun m => { m with chg := false, stepAt := s.sh.now, phase := 0 }
    s.updRcv fun r => { r with
      step := 2, lslice := BitVec.ofNat 6 x.logical, newp := BitVec.ofNat 7 sp, oldp := BitVec.ofNat 7 n, spares := r.spares - 1 }
  | none =>
    let s := s.onFailing n fun w => w.loseSlice s.sh
    let s := s.updSlice n fun y => { y with
      dead := true, sink := false, replay := false, trk := [], rcl := [], owed := [], lsh := [], ent := [], agedq := [], jobs := [], jobq := [],
      collapses := [], stq := [], stwait := [], walks := [], bq := [], far := [], bar := [], coord := [], msync := [], lsync := [], emergency := false }
    ((s.ledgerEv 68 7 5 [put x.logical 0 ||| put n 8]).bark 878).kst 9 [put x.logical 0 ||| put n 8]

/-- A mode change ends in mode `m`, coming from `p`. -/
def State.enter (s : State) (m p : Mode) : State :=
  let s := s.updSh fun g => { g with mode := m, prev := p, settle := false }
  s.updMs fun x => { x with chg := false, phase := 0, step := 0 }

/-- A slice has failed (R441): substitution begins, unless a mode change, another substitution or RELOAD is in progress; then it waits
for its end (R316, Table 12-10). During steps 1 to 3 of a DORMANT entry the entry is abandoned (R322). In DORMANT itself it waits for
the wake, since no transition leads from there to RECOVER (R315; DEDUCED, log entry 87). -/
def State.failSlice (s : State) (n : Nat) : State :=
  if (s.slice n).failed then s
  else if !(s.slice n).active then (s.updSlice n fun x => { x with failed := true, rplFail := true }).updRcv
    fun r => { r with spares := BitVec.ofNat 2 (s.spares.filter (· != n)).length }
  else
    let entry := s.sh.mode == .dormant && s.ctl.ms.chg && decide (s.ctl.ms.phase < 2)
    let busy := (s.sh.mode == .dormant && !entry) || (s.ctl.ms.chg && !entry) || s.ctl.rcv.step != 0 || (match s.kn.plate.run with | some r => r.op == 2 | none => false)
    if busy then s.updCtl fun c => { c with ms := { c.ms with failAfter := if c.ms.failAfter.contains n then c.ms.failAfter else c.ms.failAfter ++ [n] } }
    else if entry then
      let s := s.updKn Kennel.clearScent
      (if s.spares.isEmpty then s.enter s.ctl.ms.from_ .dormant else s).startSubst n
    else s.startSubst n

/-- An agent declared dead (R445, R446): marked, recorded, and the walk of every directory begun. -/
def State.declareDead (s : State) (n a cmd : Nat) : State :=
  if (s.sh.port a).dead then s
  else
    let s := s.updSh fun g => { g.updPort a fun p => { p with life := p.life ||| 1 } with
      deadWins := g.deadWins ++ [(a, (g.pack (g.port a).packNo).wins)] }
    let s := ((s.ledgerEv n 7 6 [put a 0 ||| put cmd 16]).bark 858).kst 10 [put a 0 ||| put cmd 16]
    match s.sh.walk with
    | none => s.updSh fun g => { g with walk := some a }
    | some _ => s.updCtl fun c => { c with deadq := c.deadq ++ [a] }

/-! ### Slice operations lifted to the state -/

/-- An effect of slice `n` applied. A watch is installed and removed in every slice at the decision (DESIGN CHOICE, log entry 102). -/
def State.applyEff (n : Nat) (s : State) (e : Eff) : State :=
  match e with
  | .send m => s.send n m
  | .again m => s.sendBy n (m.route.setWidth 64) m
  | .withdraw m => s.withdraw n m
  | .token ctl a c => s.token ctl (sliceNode n) a c
  | .ledger rs => s.ledgerRecs n rs
  | .bark src => s.bark src
  | .kst typ data => s.kst typ data
  | .deny p i => s.updSh fun g => g.updPack p fun x => { x with deny := bump i x.deny }
  | .addWatch w => s.mapSlices fun _ x => if x.pwr == .on then
      { x with wat := (x.wat.filter fun y => !(y.agent == w.agent && y.thread == w.thread)) ++ [w], tabs := { x.tabs with wat := true, ver := x.tabs.ver + 1 } } else x
  | .delWatch a t => s.mapSlices fun _ x => { x with wat := x.wat.filter fun y => !(y.agent == a && y.thread == t), tabs := { x.tabs with ver := x.tabs.ver + 1 } }
  | .link m => s.updLink (· ++ [m])
  | .declareDead a c => s.declareDead n a c
  | .failSlice => s.failSlice n
  | .overlay b r sp => s.updKn fun k => { k with prog := k.prog ++
      [{ idx := 0x420000 / 8 + 64 + 4 * (30 * n + b) + (sp - 16),
         data := putB true 63 ||| put n 56 ||| put b 48 ||| put sp 40 ||| put r 0, why := .overlay n b r sp }] }
  | .fatal => s.bark 878

/-- The system barrier instance of pack `p` at barrier home `n` is released, or the notice of its timeout is on its way there: a drain
leaves it (R216). -/
def State.sysKeeps (s : State) (n p : Nat) : Bool :=
  ((s.slice (s.sh.phys p)).coord.any fun c => c.pack == p && c.released) ||
  s.link.any fun m => match m with
    | .barRelease d q => d == n && q == p
    | .barTimeout d q => d == n && q == p
    | _ => false

/-- An operation of slice `n`, with its effects in order. -/
def State.onSlice (s : State) (n : Nat) (f : Work → Work) : State :=
  let w := (f { n := n, sl := s.slice n }).close (s.slice n)
  w.eff.foldl (State.applyEff n) (s.updSlice n fun _ => w.sl)

/-- An operation of every active slice that is on, in ascending number. -/
def State.onAll (s : State) (f : Work → Work) : State := s.liveSlices.foldl (fun s n => s.onSlice n f) s

/-- An operation that slice `n` takes now, or at the end of its replay (R432, R560). -/
def State.whenReady (s : State) (n : Nat) (o : LateOp) (f : Work → Work) : State :=
  if (s.slice n).replay then s.updSlice n fun x => { x with late := x.late ++ [o] } else s.onSlice n f

/-- A drain of pack `p` at barrier home `n` (R216). -/
def State.drainAt (s : State) (p n : Nat) : State := s.onSlice n fun w => w.barDrain s.sh p (s.sysKeeps n p)

/-- A drain of pack `p` at every barrier home, and in a spare that holds the barrier state of a failed slice already: its unreleased
instances are discarded, with what still tells a coordinator of them (R216, Table 14-6); a slice in replay discards its own when that
ends (R432). -/
def State.drainBarriers (s : State) (p : Nat) : State :=
  let s := if s.ctl.rcv.step == 4 then s.onSlice s.ctl.rcv.newp.toNat fun w => w.barForget s.sh p (s.sysKeeps s.ctl.rcv.oldp.toNat p) else s
  (s.liveSlices.foldl (fun s n => s.whenReady n (.drain p) fun w => w.barDrain s.sh p (s.sysKeeps n p)) s).updLink (·.filter fun m => !m.tells p)

/-- No island runs: each stops when the freeze level reaches it, before FROZEN is set, and restarts with the thaw (R499, R506). -/
def State.frozen (s : State) : Bool := s.ctl.frz.st != .running

/-- What a command does while the block runs; a frozen block does nothing (R500, R504). -/
def State.unlessFrozen (s : State) (f : State → State) : State := if s.frozen then s else f s

end Sys2Proof.Machine
end

