-- ==== Sys2Proof/Machine/LedgerBark.lean ====
section
/-! DEFINITION. The Ledger's FIFO and the Bark unit as operations over the state (R473 to R497, R542, R543). -/

namespace Sys2Proof.Machine

/-! ### Blocks (R477 to R481) -/

/-- LDG_CTL.CUT, 0 standing for 16. -/
def Ledger.cut (l : Ledger) : Nat := let c := fld l.ctl 11 8; if c = 0 then 16 else c
/-- LDG_RING.REN. -/
def Ledger.ren (l : Ledger) : Bool := l.ring.getLsbD 63
/-- Blocks in the head and the ring together (R485). -/
def Ledger.level (l : Ledger) : Nat := l.head.length + l.rblk.length
/-- No ring access is outstanding (R486, R487). -/
def Ledger.still (l : Ledger) : Bool := l.rblk.all fun b => b.done && b.rd.isNone
/-- Refill reads outstanding. -/
def Ledger.reads (l : Ledger) : Nat := (l.rblk.filter fun b => b.rd.isSome).length

/-- The message of a source in commit in this cycle carries 1023 once the source is withdrawn (R495). -/
def Bark.spurious (b : Bark) (now src : Nat) : Bark :=
  match b.commit with
  | some (x, t) =>
    if x = src ∧ t = now ∧ (b.mq.getLast?.map (·.src)) = some src then
      { b with commit := none, spur := satInc b.spur,
               mq := b.mq.dropLast ++ (b.mq.getLast?.map fun m => { m with src := 1023, val := (m.val &&& ~~~0x3FF) ||| 1023 }).toList }
    else b
  | none => b

/-- A source no longer pending. -/
def Bark.drop (b : Bark) (src : Nat) : Bark := { b with pend := b.pend.filter (· != src), burst := b.burst.filter (· != src) }

/-- A withdrawal by software (`sw`) or by the hardware (R490, R495): a source that the other party raised in the same cycle stays pending
(R8). -/
def Bark.withdrawBy (b : Bark) (now : Nat) (sw : Bool) (src : Nat) : Bark :=
  (if b.raisedBy now (!sw) src then b else b.drop src).spurious now src

/-- The threshold source raised or withdrawn on a change of the level (R485, R490). -/
def State.ldgLevel (s : State) (before : Nat) : State :=
  let n := s.ctl.ldg.level
  let k := fld s.ctl.ldg.thr 14 0
  if before < k ∧ k ≤ n then s.bark 860
  else if k ≤ before ∧ n < k then s.updBrk (·.withdrawBy s.sh.now false 860)
  else s

/-- The ring address of block `b`: the line of the 64 bytes at BASE + 64b (R480). -/
def ringLine (l : Ledger) (b : Nat) : Line := BitVec.ofNat 42 ((fld l.ring 47 12) * 64 + b)

/-- Check byte address of word k of ring block b: R480. -/
def ringWaddr (b k : Nat) (lap : Bool) : Nat := (7 * b + k) % 2 ^ 17 + (if lap then 2 ^ 19 else 0)

/-- The eight words of a ring block (R480). -/
def ringWords (b : Nat) (lap : Bool) (ws : List Word) : List Word :=
  let used : List Word := (List.range 7).map fun k => ws.getD k 0
  let w7 := (used.zipIdx.map fun x => (checkBits x.1 (ringWaddr b x.2 lap)).setWidth 64 <<< (8 * x.2 + 8)).foldl (· ||| ·) (put (8 * ws.length) 0)
  used ++ [w7]

/-- Eight words as four data units (R518). -/
def unitsOfWords (ws : List Word) : List Unit128 :=
  (List.range 4).map fun i => (ws.getD (2 * i) 0).setWidth 128 ||| ((ws.getD (2 * i + 1) 0).setWidth 128 <<< 64)

/-- Four data units as eight words, by the CRIT order of chunks starting at 0. -/
def wordsOfUnits (us : List Unit128) : List Word := us.flatMap fun (u : Unit128) => [BitVec.setWidth 64 u, BitVec.setWidth 64 (u >>> 64)]

/-- A memory message of the control island. -/
def ctlMem (g : Shared) (cmd : BitVec 5) (txid : Nat) (line : Line) (f : BitVec 28) (units : List Unit128) : Option Msg :=
  (g.target line).map fun t =>
    { cls := clsReq, cmd := cmd, src := BitVec.ofNat 10 ctlNode, dst := BitVec.ofNat 10 (memNode t),
      txid := BitVec.ofNat 12 txid, pack := 0, line := line, f := f, units := units }

/-- Ring TXIDs in use (R480). -/
def Ledger.txids (l : Ledger) : List Nat :=
  l.rblk.flatMap fun b => (if b.done then [] else [b.txid]) ++ (match b.rd with | some t => [t] | none => [])

/-- A waiting LDG_RING change takes effect when the ring is empty (R486). -/
def Ledger.takeRing (l : Ledger) : Ledger :=
  match l.pendRing with
  | some v => if l.rblk.isEmpty then { l with ring := v, pendRing := none, rnext := 0, rlap := false } else l
  | none => l

/-- One move of a closed block out of the tail: cut-through, spill or plain (R479). -/
def State.ldgMove1 (s : State) : Option State :=
  let l := s.ctl.ldg
  match l.tail with
  | [] => none
  | b :: rest =>
    if !l.ren then
      if l.head.length < 16 ∧ l.rblk.isEmpty then some (s.updLdg fun l => { l with tail := rest, head := l.head ++ [b] }) else none
    else if l.rblk.isEmpty ∧ l.head.length < l.cut then
      some (s.updLdg fun l => { l with tail := rest, head := l.head ++ [b] })
    else if l.pendRing.isSome ∨ l.rblk.length ≥ 2 ^ (fld l.ring 3 0) ∨ 16 ≤ (l.rblk.filter fun x => !x.done).length then none
    else match pick l.fv (freeNos 0 32 l.txids) with
      | none => none
      | some tx =>
        match ctlMem s.sh 0x11 tx (ringLine l l.rnext) 0
            ((beAll.setWidth 128) :: unitsOfWords (ringWords l.rnext l.rlap b.words)) with
        | none => none
        | some m =>
          let s := s.updLdg fun l => { l with
            tail := rest, fv := l.fv + 1,
            rblk := l.rblk ++ [{ bseq := b.bseq, idx := l.rnext, lap := l.rlap, txid := tx }],
            rnext := if l.rnext + 1 = 2 ^ (fld l.ring 3 0) then 0 else l.rnext + 1,
            rlap := if l.rnext + 1 = 2 ^ (fld l.ring 3 0) then !l.rlap else l.rlap }
          some (s.send 67 m)

/-- One refill read of the oldest block not yet being read (R479, R480). -/
def State.ldgRead1 (s : State) : Option State :=
  let l := s.ctl.ldg
  if l.head.length + l.reads < l.cut ∧ l.reads < 4 then
    match l.rblk.find? (fun b => b.rd.isNone) with
    | none => none
    | some b =>
      if !b.done then none
      else match pick l.fv (freeNos 0 32 l.txids) with
        | none => none
        | some tx =>
          match ctlMem s.sh 0x10 tx (ringLine l b.idx) (fPut ctlNode 1) [] with
          | none => none
          | some m =>
            let s := s.updLdg fun l => { l with
              fv := l.fv + 1,
              rblk := l.rblk.map fun x => if x.bseq == b.bseq then { x with rd := some tx, rdAt := s.sh.now } else x }
            some (s.send 67 m)
  else none

/-- The Ledger's moves for as long as one applies: at most the blocks of the tail and four reads. -/
def State.ldgPump (s : State) : State :=
  let before := s.ctl.ldg.level
  let go := fun (s : State) (_ : Nat) =>
    let s := s.updLdg Ledger.takeRing
    let s := match s.ldgMove1 with | some s => s | none => s
    match s.ldgRead1 with | some s => s | none => s
  ((List.range 8).foldl go s).ldgLevel before

/-- The open block closes and takes its BSEQ (R477); an empty one never closes. -/
def Ledger.close (l : Ledger) : Ledger :=
  if l.open_.isEmpty ∨ l.full then l
  else { l with tail := l.tail ++ [{ bseq := l.bseq, words := l.open_ }], bseq := l.bseq + 1, open_ := [] }

/-- The open block closes and closed blocks move on. -/
def State.ldgClose (s : State) : State := (s.updLdg Ledger.close).ldgPump

/-- The open block closes when `n` words do not fit in it (R477). -/
def State.ldgFit (s : State) (n : Nat) : State := if 7 < s.ctl.ldg.open_.length + n then s.ldgClose else s

/-- A record's words placed in the open block (R477, R485). -/
def Ledger.place (l : Ledger) (now : Nat) (ws : List Word) : Ledger :=
  { l with openAt := if l.open_.isEmpty then now else l.openAt, open_ := l.open_ ++ ws, count := l.count + 1 }

/-- The words of a record (R474, Table 16-2). -/
def recWords (u at_ : Nat) (r : LRec) (more : Bool) (lost : BitVec 32) : List Word :=
  (put u 57 ||| put (2 + r.data.length) 54 ||| putB more 53 ||| put r.typ 40 ||| put r.sub 32 ||| lost.setWidth 64) ::
    BitVec.ofNat 64 at_ :: r.data

/-- The records of an event (R475): MORE on all but the last, the lost count in the first. -/
def evWords (u : Nat) (e : LEvt) (lost : BitVec 32) : List (List Word) :=
  e.recs.zipIdx.map fun x => recWords u e.at_ x.1 (decide (x.2 + 1 < e.recs.length)) (if x.2 = 0 then lost else 0)

/-- The unit that wrote a record. -/
def recUnit (ws : List Word) : Nat := fld (ws.headD 0) 63 57

/-- A slice unit may write a record in the present microsecond (R473). -/
def Ledger.paceOk (l : Ledger) (now u : Nat) : Bool :=
  let k := fld l.pace 7 0
  let (w, c) := tget (0, 0) l.paced u
  u ≥ 66 || k = 0 || w ≠ now / 1000 + 1 || decide (c < k)

/-- A record of unit `u` counted in its microsecond (R473). -/
def Ledger.charge (l : Ledger) (now u : Nat) : Ledger :=
  let (w, c) := tget (0, 0) l.paced u
  { l with paced := if u < 66 then tset (0, 0) l.paced u (now / 1000 + 1, if w = now / 1000 + 1 then c + 1 else 1) else l.paced }

/-- Records placed in turn, each whole in one block (R477), for as long as the tail has room (R484) and the pace allows (R473); the rest of
the series waits, and nothing falls between (R475; DEDUCED, log entry 92). The block closes when fewer than two words remain. -/
def State.ldgPlace : List (List Word) → State → State
  | [], s => s.updLdg fun l => { l with series := [] }
  | ws :: rest, s =>
    let s := s.ldgFit ws.length
    if s.ctl.ldg.full ∨ !s.ctl.ldg.paceOk s.sh.now (recUnit ws) then s.updLdg fun l => { l with series := ws :: rest }
    else ldgPlace rest ((s.updLdg fun l => (l.place s.sh.now ws).charge s.sh.now (recUnit ws)).ldgFit 2)

/-- The events of a unit's queue: the Kennel's is the queue of R287 (R472). -/
def State.unitQueue (s : State) (u : Nat) : List LEvt :=
  if u = 68 then s.kn.evq.filterMap fun e => if e.bark.isNone then some { at_ := e.at_, recs := e.recs } else none
  else s.ctl.ldg.queue u

/-- The unit whose turn it is: the next after the last one served with something to write (R478). -/
def State.ldgNext (s : State) : Option Nat :=
  ((List.range 73).map fun i => (s.ctl.ldg.turn + i) % 73).find? fun u =>
    !(s.unitQueue u).isEmpty && s.ctl.ldg.paceOk s.sh.now u

/-- The oldest event of unit `u` leaves its queue; the lost count starts anew (R472). -/
def State.ldgServe (s : State) (u : Nat) : State :=
  let s := if u = 68 then s.updKn fun k => { k with evq := k.evq.eraseP fun e => e.bark.isNone, evLost := 0 }
    else s.updLdg fun l => l.setQueue u ((l.queue u).drop 1)
  s.updLdg fun l => { l with turn := (u + 1) % 73, unitLost := tset 0 l.unitLost u 0 }

/-- The events that unit `u` discarded since its last record: the Kennel's refused BARKs among them (R287, R472). -/
def State.lostOf (s : State) (u : Nat) : BitVec 32 :=
  if u = 68 then satAdd (tget 0 s.ctl.ldg.unitLost u) s.kn.evLost.toNat else tget 0 s.ctl.ldg.unitLost u

/-- One record or series taken from the next unit into the open block (R478), unless the tail is full (R484): what is left of the last
series goes first. A series that does not fit whole starts a new block (R477). -/
def State.ldgTake (s : State) : State :=
  if s.ctl.ldg.full then s
  else if !s.ctl.ldg.series.isEmpty then s.ldgPlace s.ctl.ldg.series
  else if !s.ctl.ldg.ctl.getLsbD 0 then s
  else match s.ldgNext with
    | none => s
    | some u => match s.unitQueue u with
      | [] => s
      | e :: _ =>
        let ws := evWords u e (s.lostOf u)
        ((s.ldgServe u).ldgFit (ws.map List.length).sum).ldgPlace ws

/-- The head block removed (R483), or nothing when the head is empty. -/
def State.ldgPop (s : State) : State :=
  let before := s.ctl.ldg.level
  match s.ctl.ldg.head with
  | [] => s
  | _ :: rest => ((s.updLdg fun l => { l with head := rest }).ldgLevel before).ldgPump

/-- LDG_HEAD[w] (R483). -/
def Ledger.headWord (l : Ledger) (w : Nat) : Word :=
  match l.head with
  | b :: _ => if w < 7 then b.words.getD w 0 else (b.bseq.setWidth 64 <<< 32) ||| put (8 * b.words.length) 0
  | [] => if w < 7 then 0
    else
      let n : BitVec 32 := match l.rblk with | b :: _ => b.bseq | [] => match l.tail with | b :: _ => b.bseq | [] => l.bseq
      n.setWidth 64 <<< 32

/-- A ring block dropped: counted, recorded, its source raised; its BSEQ is consumed (R481). -/
def State.ldgDrop (s : State) (b : RBlk) (why : Nat) : State :=
  let before := s.ctl.ldg.level
  let s := s.updLdg fun l => { l with rblk := l.rblk.filter (·.bseq != b.bseq), drop := satInc l.drop }
  (((s.ledgerEv 71 12 1 [b.bseq.setWidth 64 ||| put why 32]).bark 862).ldgLevel before).ldgPump

/-- A block read back whose data and MemRsp are both in: checked, corrected and used, or dropped (R481). -/
def State.ldgArrive (s : State) (b : RBlk) (us : List Unit128) : State :=
  if b.poison then s.ldgDrop b 2
  else
    let ws := wordsOfUnits us
    let w7 := ws.getD 7 0
    let vb := fld w7 7 0
    let rd := (List.range 7).map fun k => classify ⟨ws.getD k 0, (w7 >>> (8 * k + 8)).setWidth 8⟩ (ringWaddr b.idx k b.lap)
    if rd.any (fun r => !r.1.usable) then s.ldgDrop b 1
    else if vb % 8 ≠ 0 ∨ vb < 16 ∨ 56 < vb then s.ldgDrop b 3
    else
      let before := s.ctl.ldg.level
      let s := s.updLdg fun l => { l with
        rblk := l.rblk.filter (·.bseq != b.bseq), head := l.head ++ [{ bseq := b.bseq, words := (rd.map (·.2)).take (vb / 8) }] }
      (s.ldgLevel before).ldgPump

/-- The read of a ring block has both its answers. -/
def RBlk.whole (b : RBlk) : Bool := b.rsp && b.data.isSome

/-- Ring blocks read back enter the head in BSEQ order: each once it is the oldest of the ring (R479). At most four reads are
outstanding. -/
def State.ldgSettle (s : State) : State :=
  (List.range 4).foldl (fun s _ => match s.ctl.ldg.rblk with
    | b :: _ => if b.whole then s.ldgArrive b (b.data.getD []) else s
    | [] => s) s

/-! ### The Bark unit -/

/-- The block of a source. -/
def brkBlock (src : Nat) : Nat := src / 32
/-- PRIO of a block (R491). -/
def Bark.prio (b : Bark) (blk : Nat) : Nat := fld (b.pri.getD (blk / 8) 0) (8 * (blk % 8) + 7) (8 * (blk % 8))
/-- The target of a source (R492). -/
def Bark.target (b : Bark) (src : Nat) : Nat :=
  let k := brkBlock src
  fld (b.route.getD (k / 16) 0) (4 * (k % 16) + 2) (4 * (k % 16))
/-- A defined source number (R488). -/
def isSource (x : Nat) : Bool :=
  (x < 768 && decide (x % 96 < 66)) || (768 ≤ x && decide (x < 863)) || x == 878 || x == 879 || (896 ≤ x && decide (x < 1023))
/-- The two sources that are always enabled and never held. -/
def isFatal (x : Nat) : Bool := x == 878 || x == 879
/-- A source is enabled (R489). -/
def Bark.enabled (b : Bark) (src : Nat) : Bool := isFatal src || (b.en.getD (src / 64) 0).getLsbD (src % 64)
/-- BRK_TGT[t].EN. -/
def Bark.tgtOn (b : Bark) (t : Nat) : Bool := (b.tgt.getD t 0).getLsbD 53
/-- The moderation interval of target t in ns; 0 when off (R494). -/
def Bark.interval (b : Bark) (t : Nat) : Nat := let i := fld b.mod (8 * t + 7) (8 * t + 4); if i = 0 then 0 else 100 * 2 ^ (i - 1)
/-- The group of a source (R491). -/
def Bark.group (b : Bark) (src : Nat) : Nat := b.prio (brkBlock src) / 2 ^ (8 - fld b.ctl 11 8)
/-- A pending source is eligible (R489, R493). -/
def Bark.eligible (b : Bark) (x : Nat) : Bool := b.enabled x && (isFatal x || b.tgtOn (b.target x))
/-- Target t is idle: no commit within its last interval (R494). -/
def Bark.idle (b : Bark) (now t : Nat) : Bool :=
  match b.last.find? (·.1 == t) with | some x => decide (x.2 + b.interval t ≤ now) | none => true
/-- The order of R491: fatal sources, group, sub-priority, number. -/
def Bark.before (b : Bark) (x y : Nat) : Bool :=
  let f := fun z => (if isFatal z then 0 else 1)
  if f x ≠ f y then decide (f x < f y)
  else
    let px := b.prio (brkBlock x); let py := b.prio (brkBlock y)
    decide (px < py) || (px == py && decide (x ≤ y))
/-- The first of several sources in the order of R491. -/
def Bark.first (b : Bark) (l : List Nat) : Option Nat := (sortBy b.before l).head?

/-- Moderation lets a source be committed now (R494). -/
def Bark.released (b : Bark) (now src : Nat) : Bool :=
  let t := b.target src
  isFatal src || b.interval t == 0 || b.idle now t || b.burst.contains src || decide (b.group src < fld b.ctl 23 16)

/-- The source committed next, if any (R491 to R494). -/
def Bark.next (b : Bark) (now : Nat) : Option Nat :=
  if !b.ctl.getLsbD 0 ∨ 16 ≤ b.mq.length then none
  else b.first (b.pend.filter fun x => b.eligible x && b.released now x)

/-- A message (R492). -/
def Bark.message (b : Bark) (t src : Nat) : IMsg :=
  let w := b.tgt.getD t 0
  { addr := (w >>> 2).setWidth 46, val := BitVec.ofNat 32 (fld w 63 54 * 2 ^ 10 + src), src := src }

/-- The moderation interval of target t has passed since its last commit: the sources held until then are released (R494; DEDUCED,
log entry 93). -/
def Bark.expire (b : Bark) (now t : Nat) : Bark :=
  match b.last.find? (·.1 == t) with
  | some x =>
    let due := x.2 + b.interval t
    if b.interval t ≠ 0 ∧ due ≤ now then
      { b with burst := (b.burst ++ (b.pend.filter fun y => b.eligible y && b.target y == t && decide (tget 0 b.since y < due))).eraseDups } else b
  | none => b

/-- Every interval that has passed by now. -/
def Bark.expireAll (b : Bark) (now : Nat) : Bark := (List.range 8).foldl (fun b t => b.expire now t) b

/-- A commit of the Bark unit in one control-island cycle (R491 to R495). -/
def Bark.commit1 (b : Bark) (now : Nat) : Bark :=
  let b := b.expireAll now
  match b.next now with
  | none => { b with commit := none }
  | some x =>
    let t := b.target x
    { b.drop x with
      mqAt := if b.mq.isEmpty then now else b.mqAt,
      mq := b.mq ++ [b.message t x], sent := b.sent + 1, commit := some (x, now),
      last := (t, now) :: b.last.filter (·.1 != t) }

/-- A write of a Bark register: intervals that have passed count under the old values, and a source that it makes eligible, or gives another
target, is eligible there from now on and part of no burst (R489, R494). -/
def State.brkPut (s : State) (f : Bark → Bark) : State :=
  s.updBrk fun b =>
    let b := b.expireAll s.sh.now
    let b' := f b
    let fresh := fun x => (!b.eligible x || b.target x != b'.target x) && b'.eligible x
    { b' with
      since := (b.pend.filter fresh).foldl (fun l x => tset 0 l x s.sh.now) b'.since
      burst := b'.burst.filter fun x => !fresh x && b.target x == b'.target x }

/-- The source that a claim of target t returns (R496). -/
def Bark.claim (b : Bark) (t : Nat) : Option Nat := b.first (b.pend.filter fun x => b.enabled x && b.target x == t)

/-- The message at the head of the queue leaves it. -/
def Bark.popMq (b : Bark) (now : Nat) : Bark := { b with mq := b.mq.drop 1, mqAt := now }

/-- The Kennel's queued Bark events delivered once the control island is on (R287, R497). -/
def State.deliverBarks (s : State) : State :=
  let es := s.kn.evq.filterMap (·.bark)
  es.foldl State.brkRaise (s.updKn fun k => { k with
    evq := (k.evq.filter fun e => !e.recs.isEmpty).map fun e : KEvt => { e with bark := none } })

end Sys2Proof.Machine
end

