-- ==== Sys2Proof/Machine/Burin.lean ====
section
/-! DEFINITION. The Burin engine (R455 to R471): submission, the order of jobs, chunks, and the ends of jobs. -/

namespace Sys2Proof.Machine

/-- A command register's write: the state, or the code of its refusal (Table 19-3). -/
abbrev CmdRes := Except Nat State

/-- STATUS codes of Table 15-10. -/
def Job.live (j : Job) : Bool := j.status == 1 || j.status == 2
/-- The job in slot `i`. -/
def Burin.job (b : Burin) (i : Nat) : Job := b.jobs.getD i {}
/-- The job in slot `i` changed. -/
def Burin.setJob (b : Burin) (i : Nat) (f : Job → Job) : Burin := { b with jobs := b.jobs.modify i f }
/-- Word k of the descriptor that the job copied at its SUBMIT. -/
def Job.word (j : Job) (k : Nat) : Word := j.job.getD k 0
/-- OP of a job (Table 15-1). -/
def Job.op (j : Job) : Nat := fld (j.word 0) 3 0
/-- The pack of a job with PKEN 1 (R456). -/
def Job.owner (j : Job) : Option Nat := if (j.word 0).getLsbD 4 then some (fld (j.word 0) 11 8) else none
/-- PACE of a job. -/
def Job.pace (j : Job) : Nat := fld (j.word 0) 19 16
/-- First and last page, or first and last patrol row. -/
def Job.lo (j : Job) : Nat := if j.op = 4 then fld (j.word 1) 16 0 else fld (j.word 1) 47 12
/-- Last page or row. -/
def Job.hi (j : Job) : Nat := if j.op = 4 then fld (j.word 2) 16 0 else fld (j.word 2) 47 12
/-- Whether the job uses a directory walk (R457). -/
def jobWalks (op lo hi : Nat) : Bool := (op == 1 || op == 2 || op == 3) && decide (32768 < hi - lo + 1)
/-- The chunks of a job (R458). -/
def Job.chunkCount (j : Job) : Nat :=
  if j.op = 4 then (j.hi - j.lo + 64) / 64 else if j.walk then 512 else j.hi - j.lo + 1
/-- The tag of the engine's present work in the slices. -/
def BJob.tag : BJob → Nat
  | .slot s => 544 + s
  | .fence p => p
  | .preset p => 16 + p
/-- BRN_STAT.BUSY. -/
def Burin.busy (b : Burin) : Bool := b.run.isSome
/-- The slices that take part in a job: active, and not lost (R444, R471). -/
def State.burinSlices (s : State) : List Nat := (List.range 66).filter fun n => (s.slice n).active && !(s.slice n).dead
/-- An active slice whose logical slice is lost. -/
def State.sliceLost (s : State) : Bool := (List.range 66).any fun n => (s.slice n).active && (s.slice n).dead

/-- Reserved bits of the descriptor words that R466 requires to be zero. -/
def descOk (op : Nat) (d0 d1 d2 : Word) : Bool :=
  fld d0 63 20 == 0 && fld d0 15 12 == 0 && fld d0 7 5 == 0 && fld d1 63 48 == 0 && fld d2 63 48 == 0 &&
  (op == 4 || (fld d1 11 0 == 0 && fld d2 11 0 == 0))

/-- A page lies in the scratch range (R86). -/
def Shared.scratchPage (g : Shared) (pg : Nat) : Bool := g.isScratch (BitVec.ofNat 42 (pg * 64)) && g.isScratch (BitVec.ofNat 42 (pg * 64 + 63))

/-- The refusal of a SUBMIT of slot `i`, if any (R466). -/
def State.submitRefusal (s : State) (i : Nat) : Option Nat :=
  let j := s.ctl.brn.job i
  let op := fld j.d0 3 0
  let lo := if op = 4 then fld j.d1 16 0 else fld j.d1 47 12
  let hi := if op = 4 then fld j.d2 16 0 else fld j.d2 47 12
  if !(s.sh.mode == .run || s.sh.mode == .drain || s.sh.mode == .recover) || s.sh.stop || j.live then some 8
  else if op = 0 ∨ 5 < op ∨ !descOk op j.d0 j.d1 j.d2 ∨ 12 < fld j.d0 19 16 ∨ hi < lo then some 9
  else if op = 4 ∧ 78103 < hi then some 9
  else if op = 5 ∧ (s.sh.scrw = 0 ∨ !s.sh.scratchPage lo ∨ !s.sh.scratchPage hi) then some 9
  else none

/-- What the engine's steps have done so far, taken from every slice into the job (R458, Tables 15-11 to 15-13). -/
def State.gather (s : State) (i : Nat) : State :=
  let tag := 544 + i
  (List.range 66).foldl (fun s n =>
    let x : BSum := tget {} (s.slice n).bsum tag
    (s.updSlice n fun y => { y with bsum := tdel y.bsum tag }).updBrn fun b => b.setJob i fun j =>
      { j with visited := j.visited + BitVec.ofNat 64 x.visited, wb := j.wb + x.wb, drop := j.drop + x.drop }) s

/-- The counters whose difference a SCRUB reports, summed over the active slices (R464). -/
def State.scrubBase (s : State) : List Nat :=
  let sum := fun (f : Slice → Nat) => (s.burinSlices.map fun n => f (s.slice n)).foldl (· + ·) 0
  [sum fun x => x.ce.toNat, sum fun x => (x.cenc.getD 3 0).toNat, sum fun x => (x.repair.filter fun r => decide (16 ≤ r.2.2)).length]

/-- The end of a software job (R470): status, WHY, elapsed time, the Ledger record and the Burin-done source; the engine
is free for the next work. -/
def State.endJob (s : State) (i status why : Nat) : State :=
  let s := s.gather i
  let j := s.ctl.brn.job i
  let d := fun k => ((s.scrubBase.getD k 0) - (j.base.getD k 0))
  let scrub := j.op = 4 ∧ !j.base.isEmpty
  let s := s.updBrn fun b =>
    let b := b.setJob i fun j => { j with
      status := status, why := why, out := [], cancel := false,
      wb := if scrub then d 0 else j.wb, drop := if scrub then d 1 else j.drop, spare := if scrub then d 2 else 0,
      elapsed := if j.status = 2 then Nat.min ((s.sh.now - j.startAt) / 1000) (2 ^ 32 - 1) else 0 }
    { b with queue := b.queue.filter (· != .slot i), run := if b.run = some (.slot i) then none else b.run,
             paused := if b.paused = some (.slot i) then none else b.paused }
  let s := s.mapSlices fun _ x => { x with
    walks := x.walks.filter (·.why != .job i), bq := x.bq.filter (·.tag != 544 + i), bcens := x.bcens.filter (·.1 != 544 + i) }
  let j := s.ctl.brn.job i
  (s.ledgerEv 69 11 1 [put i 0 ||| put j.op 4 ||| put status 8 ||| put why 12, j.visited,
    put (j.wb % 2 ^ 32) 32 ||| put (j.drop % 2 ^ 32) 0, put (j.spare % 2 ^ 16) 48 ||| put j.elapsed 0]).bark 855

/-- SUBMIT accepted: the descriptor is copied, the summary cleared, the slot QUEUED (R466). -/
def State.submit (s : State) (i : Nat) : State :=
  s.updBrn fun b =>
    let b := b.setJob i fun j => { j with
      job := [j.d0, j.d1, j.d2, j.d3], status := 1, why := 0, chunks := 0, next := 0, out := [], cancel := false,
      visited := 0, wb := 0, drop := 0, spare := 0, elapsed := 0, base := [],
      walk := jobWalks (fld j.d0 3 0) (fld j.d1 47 12) (fld j.d2 47 12) }
    { b with queue := b.queue ++ [.slot i] }

/-- CANCEL of slot `i` (R468): a queued job ends at once; a running one issues no further chunk; otherwise no effect. -/
def State.cancelJob (s : State) (i why : Nat) : State :=
  let j := s.ctl.brn.job i
  if j.status = 1 then s.endJob i 4 why
  else if j.status = 2 then
    let s := s.updBrn fun b => b.setJob i fun j => { j with cancel := true, why := why }
    if j.out.isEmpty then s.endJob i 4 why else s
  else s

/-- A write of BRN_CMD (Table 15-5). -/
def State.brnCmd (s : State) (v : Word) : CmdRes :=
  let i := fld v 11 8
  match fld v 7 0 with
  | 1 =>
    match s.submitRefusal i with
    | some c => .error c
    | none =>
      let s := s.submit i
      .ok (if v.getLsbD 16 then s.endJob i 4 0 else s)
  | 2 => .ok (s.cancelJob i 0)
  | _ => .error 9

/-- The walk that the engine gives each slice for a directory walk (R457). -/
def BJob.walkOf (s : State) : BJob → Option Walk
  | .slot i =>
    let j := s.ctl.brn.job i
    if j.walk then some { why := .job i, stop := 0, op := j.op, pack := j.owner, range := some (j.lo, j.hi), pace := j.pace } else none
  | .fence p => some { why := .fence p, stop := 0, pack := some p }
  | .preset p => some { why := .packReset p, stop := 0, pack := some p }

/-- A job or walk becomes the engine's running work. -/
def State.startWork (s : State) (x : BJob) : State :=
  let s := s.updBrn fun b => { b with run := some x, queue := b.queue.erase x, iNext := 0, iOut := false }
  let s := match x with
    | .slot i => s.updBrn fun b => b.setJob i fun j => { j with status := 2, startAt := s.sh.now, base := s.scrubBase }
    | _ => s
  match BJob.walkOf s x with
  | some w => s.burinSlices.foldl (fun s n => s.updSlice n fun y => { y with walks := y.walks ++ [w] }) s
  | none => s

/-- A PRESET, which starts as soon as a running chunk is complete (R467). -/
def BJob.isPreset : BJob → Bool
  | .preset _ => true
  | _ => false

/-- The running job or fence has no chunk outstanding (R467). -/
def Burin.atChunkEnd (b : Burin) : Bool :=
  match b.run with
  | some (.slot i) => (b.job i).out.isEmpty
  | some (.fence _) => !b.iOut
  | some (.preset _) => false
  | none => true

/-- BURIN_JOB_START (R467): a PRESET when the running job or fence has no chunk outstanding, which pauses; otherwise, with nothing
running, the paused job or fence or the first of the queue. -/
def State.burinStart (s : State) : State :=
  let b := s.ctl.brn
  match b.queue.find? BJob.isPreset with
  | some x =>
    if !b.atChunkEnd then s
    else (if b.run.isSome then s.updBrn fun b => { b with paused := b.run, pausedNext := b.iNext } else s).startWork x
  | none =>
    match b.run with
    | some _ => s
    | none =>
      match b.paused with
      | some x => s.updBrn fun b => { b with run := some x, paused := none, iNext := b.pausedNext, iOut := false }
      | none => match b.queue with | x :: _ => s.startWork x | [] => s

/-- The steps of chunk `k` of a job given to the slices (R458). -/
def State.giveChunk (s : State) (i k : Nat) : State :=
  let j := s.ctl.brn.job i
  let tag := 544 + i
  if j.walk then s.mapSlices fun _ x => { x with walks := x.walks.map fun w => if w.why == .job i then { w with stop := 64 * (k + 1) } else w }
  else if j.op = 4 then
    let rows := (List.range 64).filterMap fun r => let row := j.lo + 64 * k + r; if row ≤ j.hi then some row else none
    s.burinSlices.foldl (fun s n => s.updSlice n fun x =>
      { x with bq := x.bq ++ rows.map fun r => { tag := tag, op := 4, pace := j.pace, work := .row r } }) s
  else
    (List.range 64).foldl (fun s l =>
      let line : Line := BitVec.ofNat 42 ((j.lo + k) * 64 + l)
      let w : BWork := if j.op = 5 then .fill line (j.word 3) else .line line
      s.updSlice (s.sh.home line) fun x =>
        { x with bq := x.bq ++ [{ tag := tag, op := j.op, pack := if j.op = 5 then none else j.owner, pace := j.pace, work := w }] }) s

/-- BURIN_CHUNK_ISSUE: the next chunk of the running work, while fewer than its bound are outstanding (R458), no PRESET waits (R467), and,
of a job, no slice is lost (R471). -/
def State.burinIssue (s : State) : State :=
  let b := s.ctl.brn
  match b.run with
  | none => s
  | some (.slot i) =>
    let j := b.job i
    let lim := if j.walk ∨ j.op = 4 then 1 else 16
    if j.next < j.chunkCount ∧ j.out.length < lim ∧ !j.cancel ∧ !b.queue.any BJob.isPreset ∧ !s.sliceLost then
      (s.giveChunk i j.next).updBrn fun b => b.setJob i fun j => { j with out := j.out ++ [j.next], next := j.next + 1 }
    else s
  | some x =>
    if b.iOut ∨ 512 ≤ b.iNext ∨ (!x.isPreset && b.queue.any BJob.isPreset) then s
    else (s.mapSlices fun _ y => { y with walks := y.walks.map fun w => if w.why.tag == x.tag then { w with stop := 64 * (b.iNext + 1) } else w }).updBrn
      fun b => { b with iOut := true, iNext := b.iNext + 1 }

/-- Chunk `k` of job `i` is complete in slice `x`. -/
def Slice.jobChunkOver (x : Slice) (j : Job) (tag k : Nat) : Bool :=
  if j.walk ∨ j.op = 4 then x.chunkOver tag
  else
    let here := fun (l : Line) => linePage l == j.lo + k
    !x.bq.any (fun b => b.tag == tag && (match b.work with | .line l => here l | .fill l _ => here l | .row _ => false | .repair => false)) &&
    !x.rcl.any fun r => r.fence == some tag && here r.line

/-- The census jobs that a SCRUB's findings started are over (R464). -/
def State.scrubCensusOver (s : State) (tag : Nat) : Bool :=
  s.burinSlices.all fun n =>
    let x := s.slice n
    x.bcens.all fun c => c.1 != tag || (!x.jobs.any (·.cjob == c.2) && !x.jobq.any (·.cjob == c.2))

/-- BURIN_CHUNK_COMPLETE: an outstanding chunk whose every step is complete counts; the job ends with its last chunk, as
CANCELLED after its outstanding chunks when cancelled, as FAILED when a slice is lost (R458, R468, R470, R471). -/
def State.burinComplete (s : State) : State :=
  let b := s.ctl.brn
  match b.run with
  | none => s
  | some (.slot i) =>
    let j := b.job i
    let s := match j.out.find? (fun k => s.burinSlices.all fun n => (s.slice n).jobChunkOver j (544 + i) k) with
      | some k => (s.updBrn fun b => b.setJob i fun j => { j with out := j.out.erase k, chunks := j.chunks + 1 }).gather i
      | none => s
    let j := s.ctl.brn.job i
    if !j.out.isEmpty then s
    else if j.cancel then s.endJob i 4 j.why
    else if s.sliceLost then s.endJob i 5 5
    else if j.chunkCount ≤ j.next ∧ (j.op ≠ 4 ∨ s.scrubCensusOver (544 + i)) then s.endJob i 3 0
    else s
  | some x =>
    if b.iOut && s.burinSlices.all (fun n => (s.slice n).chunkOver x.tag) then s.updBrn fun b => { b with iOut := false } else s

/-- The engine's fence or PRESET has read every set of every slice, and every recall is retired (R51). -/
def State.walkDone (s : State) (x : BJob) : Bool :=
  s.ctl.brn.run == some x && !s.ctl.brn.iOut && decide (512 ≤ s.ctl.brn.iNext) &&
  s.burinSlices.all fun n => (s.slice n).chunkOver x.tag

/-- The engine leaves a fence or PRESET that is over. -/
def State.leaveWalk (s : State) (x : BJob) : State :=
  let s := s.mapSlices fun _ y => { y with walks := y.walks.filter (·.why.tag != x.tag), bsum := tdel y.bsum x.tag }
  s.updBrn fun b => { b with run := none, queue := b.queue.erase x }

/-- Every queued and running job ends at once with a status and WHY, as at a domain stop or a warm reset (Table 15-3). -/
def State.burinEndAll (s : State) (status why : Nat) : State :=
  let s := (List.range 16).foldl (fun s i => if (s.ctl.brn.job i).live then s.endJob i status why else s) s
  let s := s.mapSlices fun _ y => { y with walks := y.walks.filter fun w => match w.why with | .retire _ => true | _ => false }
  s.updBrn fun b => { b with queue := [], run := none, paused := none, iOut := false }

/-- The jobs of a pack under reset (Table 14-8 step 2, Table 15-3). -/
def State.burinPackReset (s : State) (p : Nat) : State :=
  let s := (List.range 16).foldl (fun s i =>
    let j := s.ctl.brn.job i
    if j.live && j.owner == some p then s.cancelJob i 2 else s) s
  if s.ctl.brn.queue.contains (.fence p) then
    (s.updBrn fun b => { b with queue := b.queue.erase (.fence p) }).updSh fun g => g.updPack p fun x => { x with fenceBusy := false }
  else s

/-- A write of PCK_FENCE of pack p (R49, R52, Table 2-8). -/
def State.fence (s : State) (p : Nat) (v : Word) : CmdRes :=
  let x := s.sh.pack p
  if x.fenceBusy || x.resetBusy && decide (4 ≤ x.resetStep) then .error 8
  else
    let m := bits v 7 0
    let snap := ((List.range 8).zip x.wins).filterMap fun iw => if m.getLsbD iw.1 then some (iw.2.lo, iw.2.hi) else none
    .ok (if m = 0 then s
      else (s.updSh fun g => g.updPack p fun x => { x with fenceMask := m, fenceSnap := snap, fenceBusy := true }).updBrn
        fun b => { b with queue := b.queue ++ [.fence p] })

end Sys2Proof.Machine
end

