-- ==== Sys2Proof/Machine/RegMap.lean ====
section
/-! DEFINITION. The register map (Tables 19-1 to 19-12): which register lies at an offset, its writable and locked bits,
the legal values of its fields, and what a read returns. -/

namespace Sys2Proof.Machine

/-- The registers of an SLC block (Table 19-6). -/
inductive SlcReg where
  | info | split | stnStat | stnCtl | dcnt (i : Nat) | trkStat | psn | ageStat | race (i : Nat) | busy | atmCtl | atmCnt (i : Nat)
  | alStat | sync (i : Nat) | arb | egrant | estat | adm (i : Nat) | isl | ecc | prot | scrub | spare | cen | cenCnt (i : Nat)
  | rpl | rplCmd | net (i : Nat)
  deriving DecidableEq, Repr

/-- The registers of a PRT block (Table 19-7). -/
inductive PrtReg where
  | cfg | keyr | leash | bar | stash | arb | life | retire
  deriving DecidableEq, Repr

/-- The registers of a PCK block (Table 19-8). -/
inductive PckReg where
  | gate | arb | heel | ord | resv | bar | shape | shstat | winBase (w : Nat) | winAttr (w : Nat) | fence | reset | deny (i : Nat)
  deriving DecidableEq, Repr

/-- The registers of the block (Tables 19-5 and 19-9 to 19-12 by name). -/
inductive Reg where
  | glbId | glbLock | scrBase | serial | rpStat | mode | modeCmd | boot | isl | glbArb | ecost0 | ecost1 | epoch | esafe | tmo
  | scrub | rcv | lsmap (j : Nat) | stop | glbNet (i : Nat) | irqStat
  | slc (n : Nat) (r : SlcReg)
  | prt (a : Nat) (r : PrtReg)
  | pck (p : Nat) (r : PckReg)
  | shdCtl | shdStat | shdCmd | shdWdt | mbox (i : Nat) | temp (i : Nat) | vrcfg (r : Nat) | vr (r : Nat) | dsrv | scent | dorm
  | knlStore | knlCal | knlRst | plstat | plinfo | pladdr | plroute | plcmd | knlNet (i : Nat) | knlTime
  | brnStat | brnCmd | jdesc (s k : Nat) | jstat (s : Nat) | jsum (s k : Nat)
  | ldgCtl | ldgRing | ldgUen (i : Nat) | ldgTen | ldgThr | ldgFlush | ldgPace | ldgStat | ldgCount | ldgLost | ldgFilt | ldgCmd
  | ldgHead (w : Nat)
  | brkCtl | brkMod | brkPri (i : Nat) | brkRoute (i : Nat) | brkTgt (t : Nat) | brkEn (k : Nat) | brkPend (k : Nat) | brkSwset
  | brkStat | brkClaim (t : Nat) | brkSent
  | frzCmd | frzStat | frzLast | frzPcfg | frzAaddr | frzAdata | frzAstat
  deriving DecidableEq, Repr

/-- Element i of an array of registers at `base` with `n` elements of 8 bytes, if `o` lies in it. -/
def arr (o base n : Nat) : Option Nat := if base ≤ o ∧ o < base + 8 * n then some ((o - base) / 8) else none

/-- Table 19-6. -/
def slcRegAt (o : Nat) : Option SlcReg :=
  match o with
  | 0x000 => some .info | 0x100 => some .split | 0x108 => some .stnStat | 0x110 => some .stnCtl | 0x180 => some .trkStat
  | 0x188 => some .psn | 0x190 => some .ageStat | 0x1B8 => some .busy | 0x1C0 => some .atmCtl | 0x208 => some .alStat
  | 0x240 => some .arb | 0x248 => some .egrant | 0x250 => some .estat | 0x2A0 => some .isl | 0x2C0 => some .ecc
  | 0x2C8 => some .prot | 0x2D0 => some .scrub | 0x2D8 => some .spare | 0x2E0 => some .cen | 0x320 => some .rpl
  | 0x328 => some .rplCmd
  | _ => (((((((arr o 0x140 8).map .dcnt <|> (arr o 0x198 4).map .race) <|> (arr o 0x1C8 8).map .atmCnt) <|>
      (arr o 0x210 6).map .sync) <|> (arr o 0x258 8).map .adm) <|> (arr o 0x2E8 6).map .cenCnt) <|> (arr o 0x340 8).map .net)

/-- Table 19-7. -/
def prtRegAt (o : Nat) : PrtReg :=
  match o / 8 with
  | 0 => .cfg | 1 => .keyr | 2 => .leash | 3 => .bar | 4 => .stash | 5 => .arb | 6 => .life | _ => .retire

/-- Table 19-8. -/
def pckRegAt (o : Nat) : Option PckReg :=
  match o with
  | 0x00 => some .gate | 0x08 => some .arb | 0x10 => some .heel | 0x18 => some .ord | 0x20 => some .resv | 0x28 => some .bar
  | 0x30 => some .shape | 0x38 => some .shstat | 0xC0 => some .fence | 0xC8 => some .reset
  | _ =>
    if 0x40 ≤ o ∧ o < 0xC0 then some (if o % 16 = 0 then .winBase ((o - 0x40) / 16) else .winAttr ((o - 0x40) / 16))
    else (arr o 0xD0 5).map .deny

/-- The GLB registers (Table 19-5). -/
def glbRegAt (o : Nat) : Option Reg :=
  match o with
  | 0x000 => some .glbId | 0x008 => some .glbLock | 0x010 => some .scrBase | 0x018 => some .serial | 0x020 => some .rpStat
  | 0x100 => some .mode | 0x108 => some .modeCmd | 0x110 => some .boot | 0x118 => some .isl | 0x200 => some .glbArb
  | 0x208 => some .ecost0 | 0x210 => some .ecost1 | 0x218 => some .epoch | 0x220 => some .esafe | 0x300 => some .tmo
  | 0x400 => some .scrub | 0x500 => some .rcv | 0x548 => some .stop | 0x640 => some .irqStat
  | _ => (arr o 0x508 8).map .lsmap <|> (arr o 0x600 8).map .glbNet

/-- The SHD and KNL registers (Table 19-9), by offset from 0x7_0000. -/
def shdRegAt (o : Nat) : Option Reg :=
  match o with
  | 0x000 => some .shdCtl | 0x008 => some .shdStat | 0x010 => some .shdCmd | 0x018 => some .shdWdt | 0x300 => some .dsrv
  | 0x308 => some .scent | 0x310 => some .dorm | 0x400 => some .knlStore | 0x408 => some .knlCal | 0x410 => some .knlRst
  | 0x418 => some .plstat | 0x420 => some .plinfo | 0x428 => some .pladdr | 0x430 => some .plroute | 0x438 => some .plcmd
  | 0x480 => some .knlTime
  | _ => ((((arr o 0x020 8).map .mbox <|> (arr o 0x100 24).map .temp) <|> (arr o 0x200 4).map .vrcfg) <|> (arr o 0x220 4).map .vr) <|>
      (arr o 0x440 8).map .knlNet

/-- The BRN registers (Table 19-10), by offset from 0x7_8000. -/
def brnRegAt (o : Nat) : Option Reg :=
  if o = 0 then some .brnStat else if o = 8 then some .brnCmd
  else if 0x100 ≤ o ∧ o < 0x500 then
    let s := (o - 0x100) / 0x40
    match (o % 0x40) / 8 with
    | 4 => some (.jstat s)
    | k => if k < 4 then some (.jdesc s k) else some (.jsum s (k - 5))
  else none

/-- The LDG registers (Table 19-11), by offset from 0x7_9000. -/
def ldgRegAt (o : Nat) : Option Reg :=
  match o with
  | 0x00 => some .ldgCtl | 0x08 => some .ldgRing | 0x10 => some (.ldgUen 0) | 0x18 => some (.ldgUen 1) | 0x20 => some .ldgTen
  | 0x28 => some .ldgThr | 0x30 => some .ldgFlush | 0x38 => some .ldgPace | 0x40 => some .ldgStat | 0x48 => some .ldgCount
  | 0x50 => some .ldgLost | 0x58 => some .ldgFilt | 0x60 => some .ldgCmd
  | _ => (arr o 0x100 8).map .ldgHead

/-- The BRK registers (Table 19-11), by offset from 0x7_A000. -/
def brkRegAt (o : Nat) : Option Reg :=
  match o with
  | 0x000 => some .brkCtl | 0x008 => some .brkMod | 0x300 => some .brkSwset | 0x308 => some .brkStat | 0x350 => some .brkSent
  | _ => (((((arr o 0x010 4).map .brkPri <|> (arr o 0x030 2).map .brkRoute) <|> (arr o 0x040 8).map .brkTgt) <|>
      (arr o 0x100 16).map .brkEn) <|> (arr o 0x200 16).map .brkPend) <|> (arr o 0x310 8).map .brkClaim

/-- The FRZ registers (Table 19-12), by offset from 0x7_C000. -/
def frzRegAt (o : Nat) : Option Reg :=
  match o with
  | 0x00 => some .frzCmd | 0x08 => some .frzStat | 0x10 => some .frzLast | 0x18 => some .frzPcfg | 0x20 => some .frzAaddr
  | 0x28 => some .frzAdata | 0x30 => some .frzAstat
  | _ => none

/-- The register at an 8-byte aligned offset below 0x8_0000 (Table 19-1), if one is defined (R10, R552). -/
def regAt (o : Nat) : Option Reg :=
  if o % 8 ≠ 0 then none
  else if o < 0x1000 then glbRegAt o
  else if o < 0x10000 then none
  else if o < 0x52000 then (slcRegAt (o % 0x1000)).map (.slc (o / 0x1000 - 0x10))
  else if o < 0x60000 then none
  else if o < 0x68000 then some (.prt ((o - 0x60000) / 0x40) (prtRegAt (o % 0x40)))
  else if o < 0x69000 then (pckRegAt (o % 0x100)).map (.pck ((o - 0x68000) / 0x100))
  else if o < 0x70000 then none
  else if o < 0x71000 then shdRegAt (o % 0x1000)
  else if o < 0x78000 then none
  else if o < 0x79000 then brnRegAt (o % 0x1000)
  else if o < 0x7A000 then ldgRegAt (o % 0x1000)
  else if o < 0x7B000 then brkRegAt (o % 0x1000)
  else if o < 0x7C000 then none
  else if o < 0x7D000 then frzRegAt (o % 0x1000)
  else none

/-- A command register (R553). -/
def Reg.isCmd : Reg → Bool
  | .modeCmd | .slc _ .rplCmd | .prt _ .retire | .pck _ .fence | .pck _ .reset | .shdCmd | .plcmd | .brnCmd | .ldgCmd | .brkSwset
  | .frzCmd | .frzAaddr => true
  | _ => false

/-- A side-effecting register (R553). -/
def Reg.isSide : Reg → Bool
  | .ldgHead 7 | .brkClaim _ => true
  | _ => false

/-- The write-whole register (R553). -/
def Reg.isWhole : Reg → Bool
  | .pck _ .shape => true
  | _ => false

/-- `n` ones from bit `lo`. -/
def ones (n lo : Nat) : Word := BitVec.ofNat 64 ((2 ^ n - 1) <<< lo)

/-- The bits of sources 64k to 64k + 63 that `f` selects. -/
def srcMask (k : Nat) (f : Nat → Bool) : Word :=
  ((List.range 64).filter fun m => f (64 * k + m)).foldl (fun w m => w ||| (1#64 <<< m)) 0

/-- The bits that a write can change: RW, RWL, WO, W1C and W1S fields. -/
def Reg.wmask : Reg → Word
  | .glbLock => 1
  | .glbArb => ones 4 0
  | .ecost0 | .ecost1 => ones 64 0
  | .epoch => ones 32 24 ||| ones 7 0
  | .esafe => ones 24 0
  | .tmo => ones 10 32 ||| ones 20 0
  | .scrub => ones 16 32 ||| ones 17 0
  | .slc _ .stnCtl => ones 1 16 ||| ones 15 0
  | .slc _ .atmCtl => ones 16 16 ||| ones 2 8 ||| ones 3 4 ||| ones 2 0
  | .slc _ .arb => ones 13 32 ||| ones 16 16 ||| ones 11 0
  | .slc _ .egrant => ones 24 0
  | .prt _ .keyr => ones 32 0
  | .prt _ .leash => ones 9 0
  | .prt _ .bar => ones 1 0
  | .prt _ .stash => ones 2 0
  | .prt _ .arb => ones 8 32 ||| ones 10 16 ||| ones 1 8 ||| ones 8 0
  | .pck _ .gate => ones 1 0
  | .pck _ .arb => ones 8 0
  | .pck _ .heel => ones 8 0
  | .pck _ .ord => ones 1 0
  | .pck _ .resv => ones 3 0
  | .pck _ .bar => ones 20 32
  | .pck _ .shape => ones 2 62 ||| ones 12 32 ||| ones 16 0
  | .pck _ (.winBase _) => ones 36 12
  | .pck _ (.winAttr _) => ones 36 12 ||| ones 4 4 ||| ones 1 2 ||| ones 1 0
  | .shdCtl => ones 1 8 ||| ones 1 0
  | .shdWdt => ones 17 0
  | .mbox _ => ones 64 0
  | .vrcfg _ => ones 8 16 ||| ones 5 8 ||| ones 8 0
  | .dsrv => ones 16 32 ||| ones 12 8 ||| ones 4 0
  | .dorm => ones 16 32 ||| ones 1 0
  | .pladdr => ones 5 48 ||| ones 42 6
  | .plroute => ones 64 0
  | .jdesc _ 0 => ones 4 16 ||| ones 4 8 ||| ones 5 0
  | .jdesc _ 3 => ones 64 0
  | .jdesc _ _ => ones 48 0
  | .ldgCtl => ones 4 8 ||| ones 1 0
  | .ldgRing => ones 1 63 ||| ones 36 12 ||| ones 4 0
  | .ldgUen 0 => ones 64 0
  | .ldgUen _ => ones 9 0
  | .ldgTen => ones 5 8 ||| ones 6 1
  | .ldgThr => ones 15 0
  | .ldgFlush => ones 16 0
  | .ldgPace => ones 8 0
  | .ldgStat => ones 1 62
  | .brkCtl => ones 8 16 ||| ones 4 8 ||| ones 1 0
  | .brkMod => 0xF0F0F0F0F0F0F0F0
  | .brkPri _ => ones 64 0
  | .brkRoute _ => 0x7777777777777777
  | .brkTgt _ => ones 11 53 ||| ones 46 2
  | .brkEn k => srcMask k fun x => isSource x && !isFatal x
  | .brkPend k => srcMask k isSource
  | .frzPcfg => ones 1 8 ||| ones 2 0
  | _ => 0

/-- The bits of RWL fields (R558). -/
def Reg.lockMask : Reg → Word
  | .epoch => ones 7 0
  | .esafe => ones 24 0
  | .shdCtl => ones 1 0
  | .shdWdt => ones 17 0
  | _ => 0

/-- The bits whose Reset entry is P that a plate's register image loads (R359, R360). The bits of a field with Reset entry P that are RO 1, of
sources 878 and 879 in BRK_EN and of TYPE 7 in LDG_TEN, may have either value there, as the factory plate has them 1 (Table 12-18; DEDUCED,
log entry 101). -/
def Reg.pmask : Reg → Word
  | .glbArb => ones 31 32
  | .pck _ .gate => 0
  | .pck _ .shape => ones 1 63 ||| ones 12 32 ||| ones 16 0
  | .shdCtl => ones 1 8
  | .ldgTen => ones 12 1
  | .brkEn k => srcMask k isSource
  | .glbLock | .scrub | .slc _ .stnCtl | .slc _ .atmCtl | .slc _ .egrant | .prt _ .keyr | .mbox _ | .pladdr | .plroute
  | .jdesc _ _ | .ldgStat | .brkPend _ | .frzPcfg => 0
  | r => r.wmask

/-- The ranges of a register's fields, for the whole value `v`. -/
def Reg.rangeOk (r : Reg) (v : Word) : Bool :=
  match r with
  | .glbArb => decide (fld v 3 0 ≤ 8)
  | .epoch => decide (1 ≤ fld v 31 24) && decide (1 ≤ fld v 6 0) && decide (fld v 6 0 ≤ 100)
  | .tmo => decide (1 ≤ fld v 41 32) && decide (fld v 41 32 ≤ 1000) && decide (1 ≤ fld v 19 0) && decide (fld v 19 0 ≤ 1000000)
  | .scrub => decide (1 ≤ fld v 47 32) && decide (1 ≤ fld v 16 0) && decide (fld v 16 0 ≤ 86400)
  | .slc _ .atmCtl => decide (16 ≤ fld v 31 16) && decide (1 ≤ fld v 6 4) && decide (fld v 1 0 ≤ 2)
  | .slc _ .arb => decide (64 ≤ fld v 44 32) && decide (fld v 44 32 ≤ 4096) && decide (64 ≤ fld v 31 16) &&
      decide (8 ≤ fld v 10 0) && decide (fld v 10 0 ≤ 1024)
  | .prt _ .leash => decide (fld v 8 0 ≤ 256)
  | .prt _ .arb => decide (1 ≤ fld v 7 0) && decide (fld v 35 32 ≤ fld v 39 36) && decide (fld v 39 36 ≤ 8) &&
      !(v.getLsbD 8 && fld v 25 16 == 0)
  | .pck _ .arb => decide (1 ≤ fld v 7 0)
  | .pck _ .heel => decide (fld v 7 0 ≤ 250)
  | .pck _ .resv => decide (fld v 2 0 ≤ 6)
  | .pck _ .bar => decide (1 ≤ fld v 51 32) && decide (fld v 51 32 ≤ 1000000)
  | .pck _ .shape => decide (1 ≤ fld v 43 32)
  | .shdWdt => decide (10 ≤ fld v 16 0) && decide (fld v 16 0 ≤ 100000)
  | .vrcfg _ => decide (1 ≤ fld v 23 16) && (!v.getLsbD 7 || (decide (8 ≤ fld v 6 0) && decide (fld v 6 0 ≤ 0x77)))
  | .dsrv => decide (1 ≤ fld v 47 32) && decide (1 ≤ fld v 19 8) && decide (fld v 3 0 ≤ 8)
  | .dorm => decide (1 ≤ fld v 47 32)
  | .ldgRing => !v.getLsbD 63 || (decide (6 ≤ fld v 3 0) && decide (fld v 3 0 ≤ 14) && decide (fld v 47 12 % 2 ^ (fld v 3 0 - 6) = 0))
  | .ldgThr => decide (1 ≤ fld v 14 0) && decide (fld v 14 0 ≤ 16400)
  | .ldgFlush => decide (1 ≤ fld v 15 0)
  | .brkCtl => decide (fld v 11 8 ≤ 8)
  | _ => true

/-- A ring of LDG_RING lies wholly in one enabled interleave region and apart from the scratch range (Table 16-8). -/
def ringPlaced (regs : List Region) (scrw : Nat) (scrBase : Nat) (v : Word) : Bool :=
  !v.getLsbD 63 ||
    let a := fld v 47 12 * 64
    let n := 2 ^ (fld v 3 0)
    (regs.any fun r => r.en && decide (r.base * 2 ^ 24 ≤ a) && decide (a + n ≤ (r.limit + 1) * 2 ^ 24)) &&
      (scrw == 0 || decide (a + n ≤ scrBase) || decide (scrBase + 2 ^ (18 + scrB scrw) ≤ a))

/-! ### Reads -/

/-- The encoding of a mode (Table 11-6). -/
def Mode.code : Mode → Nat
  | .dormant => 0 | .engrave => 1 | .run => 2 | .drain => 3 | .recover => 4 | .freeze => 5

/-- A list of trackers, entries and aged places holds no request that `f` selects. -/
def Slice.noReq (x : Slice) (f : Nat → Bool) : Bool :=
  !x.trk.any (fun t => f t.req.port) && !x.ent.any (fun e => f e.port) && !x.agedq.any (fun q => f q.1.port)

/-- Every active slice holds no request of pack `p` (R264). -/
def State.packIdle (s : State) (p : Nat) : Bool := s.liveSlices.all fun n => (s.slice n).noReq fun a => (s.sh.port a).packNo == p
/-- No active slice holds a request. -/
def State.allIdle (s : State) : Bool := s.liveSlices.all fun n => (s.slice n).noReq fun _ => true
/-- PCK_GATE.DRAINED (R264). -/
def State.packDrained (s : State) (p : Nat) : Bool := (s.sh.pack p).drain && s.packIdle p
/-- GLB_MODE.DRAINED (R319). -/
def State.drained (s : State) : Bool := s.sh.mode == .drain && s.allIdle
/-- The pack is drained for a write that needs it: by its own gate or by the block's (R134, R163, R216). -/
def State.drainedFor (s : State) (p : Nat) : Bool := s.packDrained p || s.drained

/-- A power state as SLC_ISL.PWR and SAMPLE class 0x5 show it. -/
def Pwr.code : Pwr → Nat
  | .off => 0 | .retained => 1 | .on => 2 | _ => 3

/-- A thermal reading is VALID (Table 10-7 class 0x0). -/
def Reading.fresh (r : Reading) (now : Nat) : Bool := r.ok && decide (now ≤ r.at_ + 50000)

/-- A value reduced to its field. -/
def clip (v n : Nat) : Nat := v % 2 ^ n

/-- What an SLC register of slice n reads as (chapters 3 to 14, 18, 19). -/
def State.slcRead (s : State) (n : Nat) (r : SlcReg) : Word :=
  let x := s.slice n
  let g := s.sh
  match r with
  | .info => put (if x.active then 0 else if x.failed then 2 else if !s.usable n then 3 else 1) 48 |||
      put (if x.active then x.logical else 0) 32 ||| put n 0
  | .split => put g.scrw 10 ||| put g.stnw 8 ||| put g.dirw 0
  | .stnStat =>
    let used := (List.range g.rows).filter fun k => !x.rowFree k
    put x.single.length 45 ||| put (used.filter fun k => mValid (x.rowMeta k) && !mIdx (x.rowMeta k)).length 30 |||
      put (g.rows - used.length) 15 ||| put g.rows 0
  | .stnCtl => x.stnCtl
  | .dcnt i => x.dcnt.getD i 0
  | .trkStat =>
    let bkg := x.bgNos.length + x.claim
    put x.hwm 48 ||| put (x.rcl.filter fun r => decide (256 ≤ r.no)).length 32 ||| put bkg 24 |||
      put (x.trk.filter fun t => decide (224 ≤ t.no)).length 16 ||| put (x.trk.length + bkg) 0
  | .psn => x.psn
  | .ageStat => put x.qhwm 32 ||| put (x.prt.filter fun p => p.2.loss == 6).length 16 ||| put x.agedq.length 0
  | .race i => x.race.getD i 0
  | .busy => x.busy
  | .atmCtl => x.atmCtl
  | .atmCnt i => x.atmc.getD i 0
  | .alStat => put x.far.length 24 ||| put x.lsh.length 16 ||| put x.wat.length 0
  | .sync i => x.sync.getD i 0
  | .arb => x.arb
  | .egrant => x.egrant
  | .estat => put x.stale 32 ||| (BitVec.ofInt 25 x.remain).setWidth 64
  | .adm i => x.adm.getD i 0
  | .isl => put x.pwr.code 48 ||| put (s.ctl.ceil.getD n 2000) 32 ||| ((s.ctl.slow.getD n 0).setWidth 64 <<< 16) |||
      (if x.pwr == .on then put (Nat.min (s.ctl.ceil.getD n 2000) (Config.freeMhz (128 * g.now + n)).toNat) 0 else 0)
  | .ecc => (x.ue.setWidth 64 <<< 32) ||| x.ce.setWidth 64
  | .prot => (x.par.setWidth 64 <<< 32) ||| (x.psnrd.setWidth 64 <<< 16) ||| x.stuckc.setWidth 64
  | .scrub => (x.scPasses.setWidth 64 <<< 32) ||| putB x.scLate 31 ||| (x.scLatep.setWidth 64 <<< 17) ||| put x.scPos 0
  | .spare => (x.exh.setWidth 64 <<< 34) ||| put (x.repair.filter fun r => decide (16 ≤ r.2.2)).length 16 |||
      put (x.repair.filter fun r => decide (r.2.2 < 16)).length 0
  | .cen => (x.cjob.setWidth 64 <<< 32) ||| putB x.slcp 16 ||| put x.jobq.length 8 ||| put x.jobs.length 0
  | .cenCnt i => x.cenc.getD i 0
  | .rpl => (x.rcount.setWidth 64 <<< 48) ||| (x.rdup.setWidth 64 <<< 32) ||| (x.rlast.setWidth 64 <<< 16) |||
      (x.rcause.setWidth 64 <<< 8) ||| putB x.rplFail 1 ||| putB x.replay 0
  | .rplCmd => 0
  | .net i => x.netc.getD i 0

/-- What a PRT register of agent a reads as. -/
def State.prtRead (s : State) (a : Nat) (r : PrtReg) : Word :=
  let p := s.sh.port a
  let act := fun (slot : Bool) => s.liveSlices.any fun n => (s.slice n).lsh.any fun l => l.agent == a && l.slot == slot
  match r with
  | .cfg => p.cfg
  | .keyr => p.keyr
  | .leash => (p.leash &&& ones 9 0) ||| putB (act true) 17 ||| putB (act false) 16
  | .bar => p.bar
  | .stash => p.stash
  | .arb => p.arb
  | .life => (p.life &&& 3) ||| putB (s.ctl.retiring.contains a) 2
  | .retire => 0

/-- What a PCK register of pack p reads as. -/
def State.pckRead (s : State) (p : Nat) (r : PckReg) : Word :=
  let x := s.sh.pack p
  match r with
  | .gate => (x.gate &&& 1) ||| putB (s.packDrained p) 1
  | .arb => x.arb
  | .heel => x.heel
  | .ord => x.ord
  | .resv => x.resv
  | .bar => x.bar ||| put (s.liveSlices.map fun n => ((s.slice n).bar.filter fun b =>
      b.scope == 2 && b.stage != 2 && (s.sh.port b.port).packNo == p).length).sum 0
  | .shape => x.shape &&& ~~~(1#64 <<< 62)
  | .shstat => put (s.liveSlices.filter fun n => decide ((s.slice n).level p < 0)).length 0
  | .winBase w => (x.wins.getD w {}).base
  | .winAttr w => (x.wins.getD w {}).attr
  | .fence => putB x.fenceBusy 63 ||| x.fenceMask.setWidth 64
  | .reset => putB x.resetBusy 63
  | .deny i => x.deny.getD i 0

/-- SHD_STAT.STATE (Table 10-14). -/
def Sheep.stateCode (h : Sheep) : Nat := if h.halted then 3 else h.runState

/-- A record whose word 0 is still to be programmed is not valid yet (R297). -/
def Kennel.logTorn (k : Kennel) : Bool := k.prog.any fun p => p.why == .log

/-- A Kennel register's value. -/
def State.knlRead (s : State) (r : Reg) : Word :=
  let k := s.kn
  let now := s.sh.now
  match r with
  | .shdCtl => (k.ctl &&& ones 1 8) ||| putB (k.sheep.halted || k.sheep.haltWanted) 0
  | .shdStat => (k.sheep.faults.setWidth 64 <<< 56) ||| (k.sheep.corr.setWidth 64 <<< 48) ||| (k.sheep.code.setWidth 64 <<< 40) |||
      put k.sheep.stateCode 32 ||| (k.sheep.fpc.setWidth 64 <<< 16) ||| k.sheep.pc.setWidth 64
  | .shdWdt => k.wdt
  | .mbox i => k.mbox.getD i 0
  | .temp i =>
    let t := k.temps.getD i {}
    putB (t.fresh now) 63 ||| (t.stamp.setWidth 64 <<< 32) ||| (t.val.setWidth 16).setWidth 64
  | .vrcfg i => (k.regs.getD i {}).cfg
  | .vr i =>
    let x := k.regs.getD i {}
    let rd := fun j => x.rd.getD j {}
    putB (rd 0).ok 63 ||| putB (rd 1).ok 62 ||| putB (rd 2).ok 61 ||| (x.fails.setWidth 64 <<< 48) |||
      (((rd 0).val.setWidth 16).setWidth 64 <<< 32) ||| (((rd 1).val.setWidth 16).setWidth 64 <<< 16) ||| ((rd 2).val.setWidth 16).setWidth 64
  | .dsrv => k.dsrv
  | .scent => putB k.built 63 ||| put (clip k.entries 26) 32 ||| (k.psn.setWidth 64 <<< 16) ||| k.wakes.setWidth 64
  | .dorm => k.dorm
  | .knlStore => put k.remap.length 40 ||| put k.queue.length 32 ||| (k.logSeq - (if k.logTorn then 1 else 0)).setWidth 64
  | .knlCal => (k.cal.crc.setWidth 64 <<< 32) ||| (k.cal.ver.setWidth 64 <<< 16) ||| putB k.cal.romdef 2 ||| putB k.cal.fact 1 |||
      putB k.cal.pend 0
  | .knlRst =>
    let held : BitVec 32 := match k.rst.heldAt with | some t => BitVec.ofNat 32 (Nat.min ((now - t) / 1000000) (2 ^ 32 - 1)) | none => k.rst.heldms
    (k.rst.cause.setWidth 64 <<< 61) ||| putB s.pins.coldRst 60 ||| (k.rst.ncold.setWidth 64 <<< 32) ||| held.setWidth 64
  | .plstat =>
    let p := k.plate
    (p.state.setWidth 64 <<< 32) ||| putB (match p.run with | some o => o.op != 0 | none => false) 31 ||| putB p.cur 30 ||| putB p.fbv 29 |||
      putB p.inf 28 ||| (p.lastop.setWidth 64 <<< 24) ||| (p.fcode.setWidth 64 <<< 20) ||| (p.vcode.setWidth 64 <<< 8) ||| p.stype.setWidth 64
  | .plinfo => (k.plate.floor.setWidth 64 <<< 32) ||| k.plate.fword.setWidth 64
  | .pladdr => k.plate.addr
  | .plroute => k.plate.route
  | .knlNet i => k.netc.getD i 0
  | .knlTime => BitVec.ofNat 64 now
  | _ => 0

/-- Jobs, fences and PRESETs queued or running (BRN_STAT.QLEN): its field of 5 bits holds at its largest value what goes beyond it (R9;
DESIGN CHOICE, log entry 84). -/
def Burin.qlen (b : Burin) : Nat :=
  Nat.min (b.queue.length + (if b.run.isSome then 1 else 0) + (if b.paused.isSome then 1 else 0)) 31

/-- FRZ_STAT. -/
def Frz.stat (f : Frz) : Word :=
  let st : Nat := match f.st with | .running => 0 | .stopping => 1 | .frozen => 2 | .reading => 3 | .thawing => 4
  putB (2 ≤ st) 63 ||| put st 60 ||| putB f.hold 59 ||| putB f.pin 58 ||| (f.src.setWidth 64 <<< 56) ||| putB f.incon 32 ||| f.count.setWidth 64

/-- A plate RELOAD counts as a change in progress (Table 12-10). -/
def State.reloading (s : State) : Bool := match s.kn.plate.run with | some r => r.op == 2 | none => false

/-- A change is in progress (R316). -/
def State.changing (s : State) : Bool := s.ctl.ms.chg || s.reloading

/-- What a register reads as, without its side effect (R6, R557). -/
def State.regRead (s : State) (r : Reg) : Word :=
  let g := s.sh
  let c := s.ctl
  match r with
  | .glbId => put 0x0512 48 ||| put 66 32 ||| put 1 24 ||| put (fld (s.kn.fuseWord 0) 47 40) 0
  | .glbLock => putB s.lock.lock 0
  | .scrBase => g.scrBase.setWidth 64
  | .serial => s.kn.fuseWord 1
  | .rpStat => (c.rp.errs.setWidth 64 <<< 32) ||| (c.rp.code.setWidth 64 <<< 24) ||| (c.rp.src.setWidth 64 <<< 20) ||| c.rp.off.setWidth 64
  | .mode => put c.ms.waves 48 ||| putB s.drained 44 ||| putB s.changing 43 ||| put c.ms.phase 36 ||| put g.prev.code 4 ||| put g.mode.code 0
  | .boot => putB c.ms.st 63 ||| putB c.ms.slot 62 ||| (c.ms.rdy.setWidth 64 <<< 32) ||| c.ms.plt.setWidth 64
  | .isl =>
    let mhz := fun (i : Nat) => put (Nat.min (c.ceil.getD i 1000) ((Config.freeMhz (128 * g.now + i)).toNat % 1024)) 0
    if c.on then ((if c.lnk then mhz 66 else 0) <<< 32) ||| mhz 67 else 0
  | .glbArb => g.glbArb
  | .ecost0 => g.ecost0
  | .ecost1 => g.ecost1
  | .epoch => g.epoch
  | .esafe => g.esafe
  | .tmo => g.tmo
  | .scrub => g.scrub
  | .rcv => (c.rcv.spares.setWidth 64 <<< 32) ||| (c.rcv.step.setWidth 64 <<< 24) ||| (c.rcv.lslice.setWidth 64 <<< 16) |||
      (c.rcv.newp.setWidth 64 <<< 8) ||| c.rcv.oldp.setWidth 64
  | .lsmap j => ((List.range 8).map fun i => put (g.lsmap.getD (8 * j + i) 0) (8 * i)).foldl (· ||| ·) 0
  | .stop => putB g.stop 63 ||| (c.stopAgent.setWidth 64 <<< 32) ||| c.stopLines.setWidth 64
  | .glbNet i => c.netc.getD i 0
  | .irqStat => (c.brk.irqDrop.setWidth 64 <<< 32) ||| putB (!c.brk.mq.isEmpty) 0
  | .slc n r => s.slcRead n r
  | .prt a r => s.prtRead a r
  | .pck p r => s.pckRead p r
  | .brnStat => putB c.brn.busy 63 ||| put c.brn.qlen 16 ||| (match c.brn.run with
      | some (.slot i) => put i 8 | some (.fence p) => put p 8 ||| put 1 12 | some (.preset p) => put p 8 ||| put 1 12 | none => 0)
  | .jdesc i 0 => (c.brn.job i).d0
  | .jdesc i 1 => (c.brn.job i).d1
  | .jdesc i 2 => (c.brn.job i).d2
  | .jdesc i _ => (c.brn.job i).d3
  | .jstat i => let j := c.brn.job i; put (clip j.chunks 24) 40 ||| put j.why 4 ||| putB j.walk 3 ||| put j.status 0
  | .jsum i 0 => (c.brn.job i).visited
  | .jsum i 1 => put (clip (c.brn.job i).wb 32) 32 ||| put (clip (c.brn.job i).drop 32) 0
  | .jsum i _ => put (clip (c.brn.job i).spare 16) 48 ||| put (c.brn.job i).elapsed 0
  | .ldgCtl => c.ldg.ctl
  | .ldgRing => c.ldg.pendRing.getD c.ldg.ring
  | .ldgUen 0 => c.ldg.uen0
  | .ldgUen _ => c.ldg.uen1
  | .ldgTen => c.ldg.ten ||| 0x80
  | .ldgThr => c.ldg.thr
  | .ldgFlush => c.ldg.flush
  | .ldgPace => c.ldg.pace
  | .ldgStat => putB c.ldg.full 63 ||| putB c.ldg.ovr 62 ||| putB c.ldg.pendRing.isSome 61 ||| (c.ldg.drop.setWidth 64 <<< 48) |||
      put c.ldg.rblk.length 32 ||| put c.ldg.head.length 24 ||| put c.ldg.tail.length 16
  | .ldgCount => c.ldg.count
  | .ldgLost => c.ldg.lost
  | .ldgFilt => c.ldg.filt
  | .ldgHead w => c.ldg.headWord w
  | .brkCtl => c.brk.ctl
  | .brkMod => c.brk.mod
  | .brkPri i => c.brk.pri.getD i 0
  | .brkRoute i => c.brk.route.getD i 0
  | .brkTgt t => c.brk.tgt.getD t 0
  | .brkEn k => c.brk.en.getD k 0 ||| srcMask k isFatal
  | .brkPend k => srcMask k fun x => c.brk.pend.contains x
  | .brkStat => (c.brk.spur.setWidth 64 <<< 48) ||| put c.brk.mq.length 32
  | .brkClaim t => put ((c.brk.claim t).getD 1023) 0
  | .brkSent => c.brk.sent
  | .frzStat => c.frz.stat
  | .frzLast => c.frz.dur.setWidth 64
  | .frzPcfg => c.frz.pcfg
  | .frzAdata => c.frz.adata
  | .frzAstat => putB c.frz.aslot.isSome 63 ||| (c.frz.aclass.setWidth 64 <<< 16) ||| (c.frz.asyn.setWidth 64 <<< 8) ||| c.frz.achk.setWidth 64
  | .modeCmd | .brnCmd | .ldgCmd | .brkSwset | .frzCmd | .frzAaddr => 0
  | r => s.knlRead r

end Sys2Proof.Machine
end

