-- ==== Sys2Proof/Machine/Modes.lean ====
section
/-! DEFINITION. Mode changes (R312 to R330), the waves of start-up (R331 to R336), the resets (R337 to R342) and the freeze
(R498 to R507). `ms.step` in ENGRAVE: 1 boot code, 2 fuse map, 3 calibration, 4 plate verification, 5 waves and fill,
7 self-test, 8 second fill, 9 ready for credit wave 0, 20 a warm reset waiting for the Ledger, 21 no valid plate; in
DORMANT: 1 to 5 the steps of Table 11-11, 6 the wake. -/

namespace Sys2Proof.Machine

/-- The agents that are not absent. -/
def Shared.present (g : Shared) : List Nat := (List.range 512).filter fun a => !(g.port a).absent

/-- The rail of a slice (Table 11-3). -/
def railOf (n : Nat) : Nat := if n < 17 then 0 else if n < 34 then 1 else if n < 50 then 2 else 3

/-- The active slices, on or not. -/
def State.actives (s : State) : List Nat := (List.range 66).filter fun n => (s.slice n).active

/-! ### The end of a change, and failed slices that waited for it -/

/-- A change in progress has ended: the first failed slice that waited enters substitution, and without a spare for it the next one (R316,
R444). -/
def State.takeFailed (s : State) : State :=
  (List.range 66).foldl (fun s _ => match s.ctl.ms.failAfter with
    | [] => s
    | n :: rest =>
      if s.ctl.ms.chg || s.ctl.rcv.step != 0 then s
      else (s.updMs fun m => { m with failAfter := rest }).startSubst n) s

/-! ### DRAIN and RUN -/

/-- The unreleased barrier instances of every pack are discarded (R216, R319). -/
def State.discardBarriers (s : State) : State :=
  (List.range 16).foldl State.drainBarriers s

/-- RUN to DRAIN. -/
def State.toDrain (s : State) : State := (s.enter .drain .run).discardBarriers

/-! ### DORMANT entry (Table 11-11) -/

/-- A request for DORMANT is refused (R320). -/
def State.dormantRefused (s : State) : Bool :=
  s.anyReplay || s.ctl.brn.busy || (List.range 16).any (fun p => (s.sh.pack p).fenceBusy) || s.sh.stop

/-- Step 1 begins. -/
def State.dormantStart (s : State) : State :=
  let was := s.sh.mode
  let s := s.updSh fun g => { g with mode := .dormant, prev := was }
  (s.updMs fun m => { m with chg := true, phase := 0, step := 1, from_ := was, stepAt := s.sh.now, wakeWanted := false }).discardBarriers

/-- An entry abandoned (R322): back to the mode it began in. -/
def State.dormantAbandon (s : State) : State :=
  let m := s.ctl.ms.from_
  (s.updKn Kennel.clearScent).enter m .dormant

/-- Step 1 ends: every pack is drained and no entry is in L; step 2 begins (R179, R187, R189). -/
def State.dormantDrained (s : State) : State :=
  if s.sh.mode == .dormant && s.ctl.ms.chg && s.ctl.ms.step == 1 && s.allIdle && s.liveSlices.all (fun n => (s.slice n).lsh.isEmpty) then
    let g := s.sh
    let s := s.onAll fun w =>
      let w := w.sl.far.foldl (fun w f => w.farWriteBack g f.no) w
      (List.range 16).foldl (fun w p => w.killPackWatches g p) w
    let s := s.mapSlices fun _ x => { x with wat := [], tabs := { x.tabs with ver := x.tabs.ver + 1 } }
    s.updMs fun m => { m with step := 2, stepAt := s.sh.now }
  else s

/-- Step 2 ends: every MemRsp and AckInval is in. -/
def State.dormantFlushed (s : State) : State :=
  if s.sh.mode == .dormant && s.ctl.ms.chg && s.ctl.ms.step == 2 &&
      s.liveSlices.all (fun n => (s.slice n).far.isEmpty && (s.slice n).loose.isEmpty && (s.slice n).rcl.isEmpty && (s.slice n).owed.isEmpty) then
    (s.updMs fun m => { m with step := 3, phase := 1, stepAt := s.sh.now }).updKn Kennel.clearScent
  else s

/-- The three Scent indices of a region (R290). -/
def scentIdx (region : Nat) : List Nat :=
  (List.range 3).map fun j => fld (crc32c (bytesOf 4 (region + j * 2 ^ 28))) 19 0

/-- A Scent counter; an uncorrectable word reads as all ones (R292). -/
def Kennel.scentCtr (k : Kennel) (i : Nat) : Nat :=
  let r := KMem.readC k.scent (i / 8)
  if r.1.usable then fld r.2 (8 * (i % 8) + 7) (8 * (i % 8)) else 255

/-- A Scent counter raised, saturating (R291). -/
def Kennel.scentInc (k : Kennel) (i : Nat) : Kennel :=
  let c := k.scentCtr i
  if c = 255 then k
  else { k with scent := KMem.writeD k.scent (i / 8) (setFld (KMem.readD k.scent (i / 8)) (8 * (i % 8) + 7) (8 * (i % 8)) (c + 1)) }

/-- The scent of a line's region: the least of its three counters (R290). -/
def Kennel.scentOf (k : Kennel) (l : Line) : Nat := ((scentIdx (l.toNat / 2 ^ 14)).map k.scentCtr).foldl Nat.min 255

/-- The lines of a slice's entries that are not in I. -/
def Slice.heldLines (x : Slice) (g : Shared) : List Line :=
  (x.entAddrs g).filterMap fun a =>
    if (x.effEnt g (a % 32768) (a / 32768)).st = .i then none else some (x.entLine g (a % 32768) (a / 32768))

/-- Steps 3 and 4: every active slice has reported its entries (R291); XJ_DORMANT is asserted. -/
def State.scentBuilt (s : State) : State :=
  if s.sh.mode == .dormant && s.ctl.ms.chg && s.ctl.ms.step == 3 then
    let lines := s.liveSlices.flatMap fun n => (s.slice n).heldLines s.sh
    let s := s.updKn fun k =>
      let k := lines.foldl (fun k l => (scentIdx (l.toNat / 2 ^ 14)).foldl Kennel.scentInc k) k
      { k with built := true, entries := lines.length, rate := [], rateAt := s.sh.now }
    let s := s.updSh fun g => { g with settle := true }
    let s := s.updPins fun p => { p with dormant := true }
    s.updMs fun m => { m with step := 4, phase := 2, stepAt := s.sh.now }
  else s

/-- A slice leaves the on state for the DORMANT stay (Table 11-11 step 5). -/
def Slice.sleep (x : Slice) (g : Shared) : Slice :=
  if x.active && x.pwr == .on then
    { x with pwr := if g.scrw != 0 || !(x.heldLines g).isEmpty then .toRet else .toOff, epOn := false }
  else x

/-- The slice holds nothing that Table 11-5 forbids it to leave the on state with. -/
def Slice.quiet (x : Slice) : Bool := x.trk.isEmpty && x.ent.isEmpty && x.rcl.isEmpty && x.owed.isEmpty && x.far.isEmpty

/-- The word of the register save area for the k-th register of slice n (R382; DESIGN CHOICE, log entry 33). -/
def saveIdx (n k : Nat) : Nat := 128 * n + k

/-- The registers of the slices that leave the on state are written to the save area (R310). -/
def State.saveRegs (s : State) : State :=
  s.updKn fun k => { k with save := k.save.filter fun x => !((s.slice (x.1 / saveIdx 1 0)).active && (s.slice (x.1 / saveIdx 1 0)).pwr == .on) }

/-- The control island switches off; the Ledger keeps its blocks and the age of the open one (R487). -/
def State.islandOff (s : State) : State := (s.updCtl fun c => { c with on := false }).updLdg fun l => { l with offAt := s.sh.now }

/-- Step 4 ends after 2 µs; step 5 begins, once every active slice has answered what arrived (R323, Table 11-5; log entry 69) and no ring
access is outstanding (R487). -/
def State.dormantSettled (s : State) : State :=
  if s.sh.mode == .dormant && s.ctl.ms.chg && s.ctl.ms.step == 4 && decide (s.ctl.ms.stepAt + 2000 ≤ s.sh.now) &&
      s.liveSlices.all (fun n => (s.slice n).quiet) && s.ctl.ldg.still then
    let g := s.sh
    let s := s.saveRegs.mapSlices fun _ x => x.sleep g
    let s := s.updSh fun g => { g with settle := false }
    let s := s.updMs fun m => { m with step := 5, phase := 3, stepAt := s.sh.now }
    (s.updCtl fun c => { c with lnk := false, idleAt := s.sh.now }).islandOff
  else s

/-! ### The wake (R326) -/

/-- A wake begins: the slice link switches on with the control island, retained slices return to on; the off ones follow in waves. -/
def State.wakeStart (s : State) : State :=
  let s := s.updMs fun m => { m with chg := true, phase := 4, step := 6, stepAt := s.sh.now, rails := [], wakeWanted := false }
  let s := s.updCtl fun c => { c with lnk := c.on }
  s.mapSlices fun _ x => if x.active && x.pwr == .retained then { x with pwr := .fromRet } else x

/-- The entry's step 5 ends once every active slice has reported (R321); a RUN that came meanwhile is carried out (R322). -/
def State.entryEnd (s : State) : State :=
  if s.sh.mode == .dormant && s.ctl.ms.chg && s.ctl.ms.step == 5 &&
      s.actives.all (fun n => (s.slice n).pwr == .retained || (s.slice n).pwr == .off) then
    let s := s.updMs fun m => { m with chg := false, step := 0 }
    if s.ctl.ms.wakeWanted then s.wakeStart else s
  else s

/-- A wave of rail `k` in order: the active slices of the rail that are off settle. -/
def State.wave (s : State) (k : Nat) : State :=
  if s.ctl.ms.rails.length = k then
    let s := s.mapSlices fun n x => if x.active && x.pwr == .off && railOf n == k then { x with pwr := .settling } else x
    s.updMs fun m => { m with rails := m.rails ++ [s.sh.now] }
  else s

/-- WAKE_WAVE_START: the wave of VDD_Sk, 10 × k µs after the wake began. -/
def State.wakeWave (s : State) (k : Nat) : State :=
  if s.sh.mode == .dormant && s.ctl.ms.step == 6 && decide (s.ctl.ms.stepAt + 10000 * k ≤ s.sh.now) then s.wave k else s

/-- A slice's arrays filled with zero payload and valid check bits, and the state that follows them (R312, R320). The journal's SEQ goes on
(R420). -/
def Slice.filled (x : Slice) : Slice :=
  { x with
    mem := [], nru := [], pred := [], hint := [], parErr := [], stq := [], stwait := [], single := [], used := [], freeWalk := 0, compPos := 0,
    deepPos := none, collapses := [], wat := [], tabs := { ver := x.tabs.ver + 1 }, jrn := [], jpos := 0, marks := [], unsent := [], claim := 0, dslot := 0, far := []
    filling := false
    lostWords := x.lostWords.map fun y => (y.1, .write) }

/-- The slice comes on: its registers are restored and REMAIN is its saved grant (R310, R326). -/
def Slice.restored (x : Slice) : Slice :=
  { x with pwr := .on, remain := (fld x.egrant 23 0 : Int), grantE := fld x.egrant 23 0, epOn := false, chgE := 0, defE := 0 }

/-- A wake finds an active slice retained, or off with the wave of its rail begun, only when a change of its power ends (R326): it returns
to on then. -/
def State.wakeLate (s : State) (n : Nat) : State :=
  if s.sh.mode == .dormant && s.ctl.ms.step == 6 then s.updSlice n fun x =>
    if !x.active then x
    else if x.pwr == .retained then { x with pwr := .fromRet }
    else if x.pwr == .off && decide (railOf n < s.ctl.ms.rails.length) then { x with pwr := .settling }
    else x
  else s

/-- SLICE_POWER_CHANGE_DONE of slice n (Table 11-5); the spare of a substitution has a command of its own. -/
def State.powerDone (s : State) (n : Nat) : State :=
  if s.ctl.rcv.step != 0 && s.ctl.rcv.newp.toNat == n then s
  else
    match (s.slice n).pwr with
    | .settling =>
      let s := s.updSlice n fun x => { x with pwr := .filling }
      if s.sh.mode == .engrave && s.ctl.ms.step == 5 then s.updMs fun m => { m with phase := 5 } else s
    | .toRet => ((s.updSlice n fun x => { x with pwr := .retained }).entryEnd).wakeLate n
    | .toOff => ((s.updSlice n fun x => { x with pwr := .off }).entryEnd).wakeLate n
    | .fromRet => s.updSlice n Slice.restored
    | _ => s

/-- Every active slice is on and filled, a slice that R329 gave up apart. -/
def State.allOn (s : State) : Bool :=
  s.actives.all fun n => ((s.slice n).pwr == .on && !(s.slice n).filling) || s.ctl.ms.failAfter.contains n

/-- SLICE_FILL_DONE of slice n: the fill of its arrays has ended (R312); in ENGRAVE the last one goes on to self-test, when the
plate asks for it, or to credit wave 0. -/
def State.fillDone (s : State) (n : Nat) : State :=
  if ((s.slice n).pwr != .filling && !(s.slice n).filling) || (s.ctl.rcv.step != 0 && s.ctl.rcv.newp.toNat == n) then s
  else
    let s := s.updSlice n fun x => x.filled.restored
    if s.sh.mode == .engrave && s.allOn then
      match s.ctl.ms.step with
      | 5 => if s.ctl.ms.selftest && !s.ctl.ms.warm then s.updMs fun m => { m with step := 7, phase := 6 } else s.updMs fun m => { m with step := 9 }
      | 8 => s.updMs fun m => { m with step := 9 }
      | _ => s
    else s

/-- WAKE_COMPLETE (R326 step 5, R329). -/
def State.wakeDone (s : State) : State :=
  if s.sh.mode == .dormant && s.ctl.ms.step == 6 && s.ctl.on && s.ctl.lnk && s.allOn && s.kn.trk.isEmpty then
    let s := s.updPins fun p => { p with dormant := false }
    let s := s.updKn fun k => { k with rateEnd := BitVec.ofNat 31 (s.sh.now / 1024) }
    let s := (s.updKn Kennel.clearScent).enter .run .dormant
    let failed := !s.ctl.ms.failAfter.isEmpty
    let s := s.takeFailed
    if failed && s.sh.mode == .recover then s.updSh fun g => { g with prev := .dormant } else s
  else s

/-- WAKE_SLICE_TIMEOUT of slice n (R329): 200 µs after the start of its wave. -/
def State.wakeTimeout (s : State) (n : Nat) : State :=
  let x := s.slice n
  let began := match x.pwr with
    | .fromRet => some s.ctl.ms.stepAt
    | .settling => s.ctl.ms.rails[railOf n]?
    | .filling => s.ctl.ms.rails[railOf n]?
    | _ => none
  match began with
  | some t =>
    if s.sh.mode == .dormant && s.ctl.ms.step == 6 && x.active && decide (t + 200000 ≤ s.sh.now) && !s.ctl.ms.failAfter.contains n then
      s.updMs fun m => { m with failAfter := m.failAfter ++ [n] }
    else s
  | none => s

/-- CONTROL_ISLAND_IDLE_OFF (R325): 1 ms without a register access in DORMANT. -/
def State.idleOff (s : State) : State :=
  if s.sh.mode == .dormant && !s.ctl.ms.chg && s.ctl.on && decide (s.ctl.idleAt + 1000000 ≤ s.sh.now) && s.ctl.ldg.still then s.islandOff
  else s

/-- The control island is wanted on: start-up from step 5, a wake, or an access waiting in DORMANT (R325, R331, R585). -/
def State.islandWanted (s : State) : Bool :=
  s.kn.on && !s.pins.coldRst && !s.ctl.on &&
  ((s.sh.mode == .engrave && decide (4 ≤ s.ctl.ms.step)) || (s.sh.mode == .dormant && (s.ctl.ms.step == 6 || !s.ctl.rp.held.isEmpty ||
    s.kn.sheep.regWait.isSome || s.ctl.frz.dbgWait.isSome)))

/-! ### Mode commands -/

/-- A request for RUN: accepted, and what it does (R315, R316, R322). -/
def State.wantRun (s : State) : Option State :=
  if s.sh.mode = .dormant then
    if s.ctl.ms.chg then
      if s.ctl.ms.step = 6 then none
      else if s.ctl.ms.step ≤ 3 then some s.dormantAbandon
      else some (s.updMs fun m => { m with wakeWanted := true })
    else some s.wakeStart
  else none

/-- The warm reset's Ledger record enters the FIFO before any other step (R337): the block that has no room for it closes. -/
def State.warmFit (s : State) : State := s.ldgFit 3

/-- The record finds room: after what is left of a series (R475). -/
def State.warmRoom (s : State) : Bool := !s.ctl.ldg.full && s.ctl.ldg.series.isEmpty

/-- The credits that have been returned, counted since the last cold reset (R523), and nothing else of the ports' state. -/
def keepCounts (l : List (Nat × PortAdm)) : List (Nat × PortAdm) :=
  (l.map fun p => (p.1, ({ reqTok := p.2.reqTok, ctlTok := p.2.ctlTok } : PortAdm))).filter (·.2 != {})

/-- A slice after a warm reset: on, with the fill of its arrays under way; P fields, counters and the part's rows kept, every other
register at its reset value (R337). -/
def Slice.warm (x : Slice) : Slice :=
  { x with
    filling := x.pwr == .on
    nru := [], pred := [], hint := [], parErr := [], stq := [], stwait := [], single := [], used := [], freeWalk := 0, compPos := 0, deepPos := none, collapses := []
    trk := [], rcl := [], owed := [], rend := none, rpt := [], lsh := [], bar := [], coord := [], msync := [], lsync := [], wat := [], far := [], loose := []
    stashLast := [], ent := [], agedq := [], prt := keepCounts x.prt, shape := [], lfsr := 1, remain := 0, grantE := 0, grantW := false, stale := 0
    bgCount := 0, bgTurn := 0, qwin := 0, qpos := 0, emergency := false, chgE := 0, defE := 0, epOn := false
    jseq := 0, jpos := 0, jrn := [], marks := [], rseq := 0, claim := 0, dslot := 0, rplFail := false, exh := 0, hwm := 0, qhwm := 0, egrantAt := none,
    replay := false, rcause := 0, rlast := 0, unsent := [], heldRx := [], rsends := [], copies := []
    cjob := 0, jobs := [], jobq := [], slcp := false, sliceCensusAfter := false, walks := [], bq := [], bsum := [], bcens := []
    scPos := 0, scPer := 0, scDue := 0, scLate := false, scCE := 0, scRows := [], weak := [], lostWords := x.lostWords.map fun y => (y.1, .write)
    stnCtl := 0x10100, atmCtl := 0x1000240 }

/-- The entries not in I (R337). -/
def State.entriesHeld (s : State) : Nat := (s.liveSlices.map fun n => ((s.slice n).heldLines s.sh).length).sum

/-- The warm reset's steps, its record first (R337, Tables 11-14, 15-3). A domain stop and its cause stay until a cold or always-on reset
(R449; log entry 85); a failed slice that waits goes on waiting (R316). The Kennel's queue of events is kept, and the count of unit 68's
lost records cleared (DEDUCED, log entry 105). -/
def State.warmGo (s : State) : State :=
  let l := s.ctl.ldg
  let s := if !l.filters 67 8 then
      let ws := recWords 67 s.sh.now { typ := 8, sub := 2, data := [put (clip s.entriesHeld 26) 0] } false (tget 0 l.unitLost 67)
      (s.updLdg fun l => { l.place s.sh.now ws with unitLost := tset 0 l.unitLost 67 0 }).ldgFit 2
    else s.updLdg fun l => { l with filt := l.filt + 1 }
  let s := s.burinEndAll 4 3
  let g := s.sh
  let s := s.mapSlices fun _ x => { x.warm with
    shape := (List.range 16).foldl (fun t p => if (g.pack p).shEn then tset 0 t p ((16 * (g.pack p).burst : Nat) : Int) else t) [] }
  let s := s.updSh fun g =>
    let g := (List.range 16).foldl (fun g p => g.updPack p fun k => { k with gate := 0, fenceMask := 0, fenceBusy := false, resetBusy := false, resetStep := 0 }) g
    let g := (List.range 512).foldl (fun g a => g.updPort a fun p => { p with life := 0 }) g
    { g with mode := .engrave, prev := .drain, walk := none, deadWins := [], glbArb := setFld g.glbArb 3 0 6, scrub := 0x40_0000_0E10 }
  let s := s.updLink fun _ => []
  let s := s.updLdg fun l => { l with ovr := false, ovrAt := none, queues := [], unitLost := [], paced := [] }
  let s := s.updBrk fun b => { b with pend := [], since := [], burst := [], mq := [], commit := none, raised := [] }
  let s := s.updBrn fun b => { b with jobs := List.replicate 16 {} }
  let s := s.updRcv fun r => { spares := r.spares }
  let s := s.updFrz fun f => { f with pcfg := 0, dur := 0, src := 0, incon := false, adata := 0, aslot := none, aclass := 0, asyn := 0, achk := 0 }
  let s := s.updCtl fun c => { c with
    rp := { c.rp with code := 0, src := 0, off := 0 }, ceil := List.replicate 66 2000 ++ [1000, 1000]
    retiring := [], deadq := [], copies := [], rsends := [], epLen := 0 }
  let s := s.updKn fun k => { k with rst := { k.rst with cause := 3 }, prt := keepCounts k.prt }
  s.updMs fun m => { phase := 5, chg := true, step := 5, startAt := if m.step = 20 then m.startAt else s.sh.now, warm := true, stepAt := s.sh.now,
                      failAfter := m.failAfter }

/-- A warm reset that waits for the Ledger goes on when its record finds room. -/
def State.warmPoll (s : State) : State := if s.ctl.ms.step = 20 ∧ s.warmFit.warmRoom then s.warmFit.warmGo else s

/-- An accepted WARM. -/
def State.warmStart (s : State) : State :=
  let s := s.warmFit
  if s.warmRoom then s.warmGo else s.updMs fun m => { m with chg := true, step := 20, phase := 0, startAt := s.sh.now }

/-- A command of GLB_MODECMD (Table 11-16, R315, R316, R319 to R322, R337). -/
def State.modeWant (s : State) (v : Word) : CmdRes :=
  let op := fld v 7 0
  let conf := fld v 15 8
  let abandon := s.sh.mode == .dormant && op == 2
  if s.changing && !abandon then .error 8
  else
    let want := if op = 4 then 0xA5 else 0
    match op with
    | 1 => if s.sh.mode = .run then (if conf = want then .ok s.toDrain else .error 9) else .error 8
    | 2 =>
      if s.sh.mode = .drain then (if conf = want then .ok (s.enter .run .drain) else .error 9)
      else match s.wantRun with
        | some t => if conf = want then .ok t else .error 9
        | none => .error 8
    | 3 =>
      if (s.sh.mode = .run ∨ s.sh.mode = .drain) ∧ !s.dormantRefused then (if conf = want then .ok s.dormantStart else .error 9)
      else .error 8
    | 4 => if s.drained then (if conf = want then .ok s.warmStart else .error 9) else .error 8
    | _ => .error 9

/-- A write of GLB_MODECMD. A change that it causes has its time noted, since a request of the Sheepdog in the same cycle falls behind it
(R316). -/
def State.modeCmd (s : State) (v : Word) : CmdRes :=
  match s.modeWant v with
  | .ok t => .ok (t.updMs fun m => { m with cmdAt := some s.sh.now })
  | .error e => .error e

/-- The Sheepdog's MODE: its status and effect (R318, R275, Table 10-8). One that falls in the cycle of a software command is refused
(R316; log entry 68); a request of another mode has status 1 even during a change (DEDUCED, log entry 98). -/
def State.sheepMode (s : State) (m : Nat) : Nat × State :=
  if m ≠ 0 ∧ m ≠ 2 then (1, s)
  else if s.ctl.ms.cmdAt = some s.sh.now then (if s.changing then 2 else 1, s)
  else if m = 0 then
    if s.changing then (2, s)
    else if (s.sh.mode = .run ∨ s.sh.mode = .drain) ∧ !s.dormantRefused then (0, s.dormantStart)
    else (1, s)
  else
    match s.wantRun with
    | some t => (0, t)
    | none => (if s.changing then 2 else 1, s)

/-! ### Resets -/

/-- A record still to be completed has not advanced its ring when power goes (R297). -/
def Kennel.tornSeqs (k : Kennel) : Kennel :=
  let slots := (k.prog.filterMap fun p => match p.why with | .slot n => some n.toNat | _ => none).eraseDups
  { k with
    logSeq := if k.logTorn then k.logSeq - 1 else k.logSeq
    logPos := if k.logTorn then (k.logPos + 65535) % 65536 else k.logPos
    slotSeq := slots.foldl (fun t n => tset 0 t n (tget 0 t n - 1)) k.slotSeq
    idSeq := [0, 1, 2].foldl (fun t i => if k.prog.any (fun p => p.why.idRing == some i) then tset 0 t i (tget 0 t i - 1) else t) k.idSeq }

/-- The word being programmed when power goes may be torn: it then holds a value that nothing states (R342; log entry 70). A torn header of
a calibration set leaves the previous set current (R301). -/
def Kennel.tear (k : Kennel) : Kennel :=
  match k.nextWord with
  | none => k
  | some p =>
    if k.blockDead p.idx then k
    else
      let a := k.fv * 2 ^ 34 + 2 ^ 33
      { k with
        store := KMem.write k.store (k.storeAt p.idx) ⟨Config.freeWord (a + 4), (Config.freeWord (a + 5)).setWidth 8⟩, fv := k.fv + 1
        cal := if p.why == .calibHead then { k.cal with torn := some !k.cal.half } else k.cal }

/-- The data of a life record: the power-on time in ns, and the words programmed so far as its wear count (R573; log entry 99). -/
def Kennel.lifeNow (k : Kennel) (now : Nat) : Kennel := { k with poweredNs := k.poweredNs + (now - k.lifeAt), lifeAt := now }

/-- A life record begins to be programmed, in the ring of 256 (R573). -/
def Kennel.lifeWrite (k : Kennel) (now : Nat) : Kennel :=
  let k := k.lifeNow now
  k.identWrite now 2 .life (BitVec.ofNat 64 k.poweredNs) k.wear

/-- A life record at a reset that the Kennel sees: its words are in the store when the reset acts (R573). -/
def Kennel.lifeLast (k : Kennel) (now : Nat) : Kennel :=
  let k := { k with prog := [] }.lifeWrite now
  k.prog.foldl (fun k p => if k.blockDead p.idx then k else
    { k with store := KMem.write k.store (k.storeAt p.idx) (encode72 p.data (k.storeAt p.idx % 32768)), wear := k.wear + 1 }) { k with prog := [] }

/-- What an always-on reset keeps: the Kennel store and the fuses (Table 11-14), and the set that KNL_CAL names, whose trims the boot code
applies again. No word is being programmed while Xejan is frozen (R499). -/
def Kennel.kept (k : Kennel) (now : Nat) (frozen : Bool) : Kennel :=
  let k := if k.on then ((if frozen then k else k.tear).tornSeqs).lifeLast now else k
  { store := k.store, remap := k.remap, dead := k.dead, logSeq := k.logSeq, logPos := k.logPos, slotSeq := k.slotSeq, idSeq := k.idSeq,
    wear := k.wear, poweredNs := k.poweredNs
    substRec := k.substRec, substFailed := k.substFailed, fuse := k.fuse, cal := { k.cal with due := [], sens := [], delay := [] }
    plate := { cur := k.plate.cur, floor := k.plate.floor }, fv := k.fv }

/-- Slices as after an always-on reset: those that the substitution record replaced are failed (R352; log entry 86). -/
def State.partSlices (s : State) : Vector Slice 66 :=
  Vector.ofFn fun n => { fv := (s.slice n.val).fv, failed := s.kn.substFailed.contains n.val }

/-- GLB_RCV.SPARES as the fuse map and the substitution record give it (Table 0-3, K). -/
def State.partSpares (s : State) : BitVec 2 :=
  BitVec.ofNat 2 (((List.range 66).filter fun n => s.usable n && !s.kn.substFailed.contains n).length - 64)

/-- An always-on reset, or the fall of XJ_PWRGOOD (R339, R342): the life record of R573, and no island runs. -/
def State.aonReset (s : State) (pwr held : Bool) : State :=
  { s with
    sh := {}, slices := s.partSlices, link := [], kn := s.kn.kept s.sh.now (s.frozen && !s.ctl.frz.word)
    ctl := { rcv := { spares := s.partSpares }, frz := { pin := s.ctl.frz.pin }, ldg := { fv := s.ctl.ldg.fv } }
    lock := {}, pins := { s.pins with pwrgood := pwr, aonRst := held, dormant := false } }

/-- Slices as after a cold reset: the role of one that has failed and is no longer active is kept, with GLB_RCV.SPARES (Table 0-3, K), and
so is what the Kennel has read of it (R268, R283). -/
def State.coldSlices (s : State) : Vector Slice 66 :=
  Vector.ofFn fun n => { fv := (s.slice n.val).fv, failed := (s.slice n.val).failed && !(s.slice n.val).active,
                            epRead := { (s.slice n.val).epRead with ok := false } }

/-- Everything that a cold reset clears (Table 11-14), the Kennel and the responses of its front end apart (R585). -/
def State.coldClear (s : State) : State :=
  { s with
    sh := { now := s.sh.now }, slices := s.coldSlices, link := []
    ctl := { rcv := { spares := s.ctl.rcv.spares }, frz := { pin := s.ctl.frz.pin, ir := s.ctl.frz.ir }, ldg := { fv := s.ctl.ldg.fv },
             rp := { held := s.ctl.rp.held, owed := s.ctl.rp.owed, rsp := s.ctl.rp.rsp } }
    lock := {}, pins := { s.pins with dormant := false } }

/-- The assertion of XJ_COLD_RST_N is taken by a running Kennel (R340, R341): its record, and the source after 16 within a second, which
the count then begins anew (DEDUCED, log entry 90). -/
def State.coldTaken (s : State) : State :=
  let now := s.sh.now
  let s := s.updKn fun k =>
    let times := now :: k.rst.times.filter fun t => decide (now < t + 1000000000)
    { k with rst := { k.rst with cause := 2, ncold := satInc k.rst.ncold, heldAt := some now, recAt := now, times := times } }
  let s := s.kst 1 []
  if 16 ≤ s.kn.rst.times.length then
    ((s.updKn fun k => { k with rst := { k.rst with times := [] } }).kst 4 [put s.kn.rst.ncold.toNat 0]).bark 853
  else s

/-- The Kennel starts: boot code runs (Table 11-10 steps 2 and 3). A cold reset that is held already is then taken (R340). -/
def State.kennelStart (s : State) (cause : BitVec 3) : State :=
  let s := s.updKn fun k => { k with on := true, rst := { k.rst with cause := cause } }
  let s := s.updMs fun m => { m with step := if s.pins.coldRst then 0 else 1, phase := if s.pins.coldRst then 0 else 1, startAt := s.sh.now }
  if s.pins.coldRst then s.coldTaken else s

/-- XJ_COLD_RST_N asserted (R268, R340, R341, R345). Start-up is abandoned (R339); a CHECK of a plate slot goes on in the Kennel (R268). -/
def State.coldAssert (s : State) : State :=
  let now := s.sh.now
  let dormant := s.pins.dormant
  let s := s.coldClear
  let s := s.updPins fun p => { p with coldRst := true }
  let s := s.updKn fun k =>
    { k with
      plate := { k.plate with inf := false, state := 0, first := none, run := k.plate.run.filter (·.op == 3) }
      prt := [], rateEnd := if dormant then BitVec.ofNat 31 (now / 1024) else k.rateEnd
      prog := k.prog.filter fun p => !p.why.ofPlate
      idSeq := if k.prog.any (fun p => p.why.idRing == some 0) then tset 0 k.idSeq 0 (tget 0 k.idSeq 0 - 1) else k.idSeq
      scent := [], built := false }
  s.coldTaken

/-- The duration of the present cold-reset assertion in ms. -/
def State.heldMs (s : State) : BitVec 32 :=
  match s.kn.rst.heldAt with | some t => BitVec.ofNat 32 (Nat.min ((s.sh.now - t) / 1000000) (2 ^ 32 - 1)) | none => s.kn.rst.heldms

/-- XJ_COLD_RST_N released: start-up from step 6 (R332, R339). A Kennel whose own boot the assertion cut short makes it up first (log
entry 52). -/
def State.coldRelease (s : State) : State :=
  if s.pins.coldRst then
    let ms := s.heldMs
    let s := s.updPins fun p => { p with coldRst := false }
    let s := s.updKn fun k => { k with rst := { k.rst with heldms := ms, heldAt := none } }
    let s := s.kst 3 [ms.setWidth 64]
    if !s.kn.on then s
    else s.updMs fun _ =>
      if s.kn.booted then { step := 4, phase := 3, startAt := s.sh.now }
      else { step := 1, phase := 1, startAt := s.sh.now }
  else s

/-- COLD_RESET_HELD: one record every 60 s (R340). -/
def State.coldHeld (s : State) : State :=
  if s.pins.coldRst && s.kn.on && decide (s.kn.rst.recAt + 60000000000 ≤ s.sh.now) then
    (s.updKn fun k => { k with rst := { k.rst with recAt := s.sh.now } }).kst 2 [s.heldMs.setWidth 64]
  else s

/-- CREDIT_WAVE: wave 0 with step 11 of Table 11-10, or the next one 0.1 ms later (R331, R333). -/
def State.kennelCredits (s : State) (a : Nat) : State :=
  let p : PortAdm := tget {} s.kn.prt a
  let s := s.updKn fun k => { k with prt := tset {} k.prt a { p with reqTok := p.reqTok + 1, ctlTok := p.ctlTok + 1 } }
  (s.token false kennelNode a (p.reqTok + 1)).token true kennelNode a (p.ctlTok + 1)

/-- The Kennel's present counts sent again, once per epoch (R524). -/
def State.kennelTokens (s : State) : State :=
  s.sh.present.foldl (fun s a =>
    let p : PortAdm := tget {} s.kn.prt a
    (s.token false kennelNode a p.reqTok).token true kennelNode a p.ctlTok) s

/-- One request credit and one control credit of every active slice and of the Kennel for each present agent of wave k. -/
def State.releaseWave (s : State) (k : Nat) : State :=
  let as := s.sh.present.filter fun a => a / 64 == k
  let s := s.onAll fun w => as.foldl (fun w a => (w.credit a).ctlCredit a) w
  as.foldl State.kennelCredits s

/-- The Sheepdog starts a program at instruction 0 (R270, R276, R281, R362): 1 the plate's, 2 the ROM's. -/
def Sheep.start (h : Sheep) (now : Nat) (prog : Nat) : Sheep :=
  { h with
    g := Vector.replicate 64 0, pc := 0, wait := none, latch := 0, wdtAt := now, haltAt := now, runState := prog, regWait := none,
    dmem := if prog = 1 then h.image.foldl (fun m x => KMem.writeD m x.1 x.2) [] else h.dmem
    romDeb := 0, romMiss := List.replicate 24 0 }

/-- An instruction as stored, its parity good, in one copy of the program store. -/
def PIns.good (i : PIns) : Bool := parity64 (i.code.setWidth 64) == i.par

/-- The instruction at the program counter fetched (R273). -/
def Sheep.fetch (h : Sheep) : Sheep :=
  let i := h.pc.toNat
  let a : PIns := tget {} h.prog0 i
  let b : PIns := tget {} h.prog1 i
  if a.good && b.good then (if a == b then { h with ir := a.code, irBad := false } else { h with irBad := true })
  else if a.good then { h with ir := a.code, irBad := false, prog1 := tset {} h.prog1 i a, corr := satInc h.corr }
  else if b.good then { h with ir := b.code, irBad := false, prog0 := tset {} h.prog0 i b, corr := satInc h.corr }
  else { h with irBad := true }

/-- The Sheepdog halts (R281). -/
def Sheep.halt (h : Sheep) (now : Nat) : Sheep := { h with halted := true, haltAt := now }
/-- Whether the Sheepdog halts at the end of the WAIT or REG under way. -/
def Sheep.setHalt (h : Sheep) (b : Bool) : Sheep :=
  { h with wait := h.wait.map fun w => { w with halt := b }, regWait := h.regWait.map fun r => { r with halt := b } }

/-- A program started, its first instruction fetched. -/
def State.startSheep (s : State) (prog : Nat) : State :=
  s.updSheep fun h => let h := h.start s.sh.now prog; if prog = 1 then h.fetch else h

/-- Step 11 of Table 11-10: LFSR, grants (R254), backoff exponents (R244) and ceilings (R304) take the values of the end of ENGRAVE. A warm
reset has no SHEEP section applied, and leaves the count of the Sheepdog's faults (R268, R280, R362). -/
def State.beginRun (s : State) : State :=
  let g := s.sh
  let s := s.mapSlices fun n x => if x.active then
      let x : Slice := { x with
        lfsr := lfsrSeed (bits g.glbArb 62 32) n, egrant := put (fld g.esafe 23 0) 0, remain := (fld g.esafe 23 0 : Int), grantW := false,
        grantE := fld g.esafe 23 0, prt := (List.range 512).map fun a => (a, { x.port a with exp := (g.port a).bkmin }),
        stale := 0, epOn := false, qpos := 0, qwin := fld x.arb 31 16, shTick := g.now, scStart := g.now }
      x
    else { x with egrant := put (fld g.esafe 23 0) 0, scStart := g.now }
  let s := s.updCtl fun c => { c with epochAt := s.sh.now, epLen := fld g.epoch 6 0, ceil := List.replicate 66 2000 ++ [1000, 1000] }
  let warm := s.ctl.ms.warm
  ((s.enter .run .engrave).updSheep fun h => { h with hist := if warm then h.hist else [] }).startSheep 1

/-- CREDIT_WAVE. A wave that falls due while an active slice is not on waits for it (R333; log entry 71). -/
def State.creditWave (s : State) : State :=
  let k := s.ctl.ms.waves
  if k = 0 then
    if s.sh.mode == .engrave && s.ctl.ms.step == 9 then
      let s := s.beginRun
      let s := s.releaseWave 0
      (s.updMs fun m => { m with waves := 1, stepAt := s.sh.now }).takeFailed
    else s
  else if k < 8 && s.sh.mode != .engrave && decide (s.ctl.ms.stepAt + 100000 ≤ s.sh.now) && s.allOn then
    let s := s.releaseWave k
    s.updMs fun m => { m with
      waves := k + 1, stepAt := s.sh.now,
      rdy := if k = 7 then BitVec.ofNat 24 ((s.sh.now - m.startAt) / 1000) else m.rdy }
  else s

/-- SELFTEST_DONE: each failed row repaired as R399 states, a slice without a spare left failed (R401); the second fill.
A weak row is no failed one (DESIGN CHOICE, log entry 106). -/
def State.selftestDone (s : State) (failed : List (Nat × Nat × Nat)) : State :=
  if s.sh.mode == .engrave && s.ctl.ms.step == 7 then
    let s := failed.foldl (fun s x =>
      if !(s.slice x.1).active || bankRows x.2.1 ≤ x.2.2 then s
      else if ((s.slice x.1).overlayUsed x.2.1).length < 4 then s.onSlice x.1 fun w => w.repairRow x.2.1 x.2.2
      else if s.ctl.ms.failAfter.contains x.1 then s
      else s.updMs fun m => { m with failAfter := m.failAfter ++ [x.1] }) s
    let s := s.mapSlices fun _ x => if x.active && x.pwr == .on then { x with filling := true } else x
    s.updMs fun m => { m with step := 8, st := true }
  else s

/-- POWER_WAVE_START of rail k in start-up (Table 11-10 steps 7 and 8). -/
def State.powerWave (s : State) (k : Nat) : State :=
  if s.sh.mode == .engrave && s.ctl.ms.step == 5 && !s.ctl.ms.warm then s.wave k else s

/-- XJ_SD_STATUS (R544, Table 18-9). -/
def State.sdStatus (s : State) : Nat :=
  if !s.kn.on then 0
  else if s.sh.stop then 0xF
  else if s.kn.fuseFault then 0xE
  else if (if s.sh.mode = .freeze then s.ctl.frz.left else s.sh.mode) == .engrave && s.ctl.ms.phase == 7 then 0xC
  else if s.pins.coldRst && decide (2000 ≤ s.heldMs.toNat) then 0xD
  else
    let m := if s.sh.mode = .freeze then s.ctl.frz.left else s.sh.mode
    match m with
    | .engrave => if s.ctl.ms.phase ≤ 2 then (if s.kn.booted || s.ctl.ms.phase ≥ 1 then 1 else 0) else if s.ctl.ms.phase = 3 then 2 else 3
    | .run => 4 | .drain => 5 | .dormant => 6 | .recover => 7 | .freeze => 0

/-! ### Freeze -/

/-- What of the frozen block the model does not hold as the image lays it out: flops that are no register, wires of a channel, and the words
of banks held as structures. One free value a place and a freeze (log entries 6 and 53). -/
def State.frozenWord (s : State) (place : Nat) : Word := Config.freeWord (68 * 2 ^ 64 + s.ctl.frz.count.toNat * 2 ^ 28 + place)

/-- State still holds what the sender of one-way channel j gives its receiver (Tables 11-2, 12-7): a message of the slice link, a unit's
events for the Ledger, the Kennel's, or an access for the register decoder. -/
def State.inFlight (s : State) (j : Nat) : Bool :=
  let c := j / 2
  if c < 198 then
    if c % 3 = 0 then s.link.any fun m => if j % 2 = 0 then m.from? == some (c / 3) else m.to == c / 3
    else c % 3 == 1 && j % 2 == 0 && !(tget [] s.ctl.ldg.queues (c / 3)).isEmpty
  else c == 198 && j % 2 == 1 && (!s.kn.evq.isEmpty || !s.ctl.rp.held.isEmpty)

/-- Channel j as the freeze finds it, by R306 in one of the states of Table 17-1: a transfer is on its way only where the sender still has
something to give, which the freeze leaves in State, and the command that delivers it after the thaw takes it once (R501). Which state,
which level and which bundle is free (log entry 53). -/
def State.chan (s : State) (j : Nat) : Chan :=
  let f := s.frozenWord (2 ^ 22 + 2 * j + 1)
  let b := f.getLsbD 8
  let levels : ChanLevels :=
    if f.getLsbD 9 && s.inFlight j then (if f.getLsbD 10 then ⟨!b, b, b, b⟩ else ⟨!b, b, !b, b⟩)
    else if f.getLsbD 10 then ⟨b, !b, b, b⟩ else ⟨b, b, b, b⟩
  { levels := levels, bundle := (s.frozenWord (2 ^ 22 + 2 * j), f.setWidth 8) }

/-- A proof marks some channel INCON (R502). -/
def State.proofIncon (s : State) : Bool := (List.range 402).any fun j => (s.chan j).levels.incon

/-- The freeze condition (R498). -/
def Frz.cond (f : Frz) : Bool := f.hold || f.pin

/-- The freeze level is raised when the condition begins (R498, R499). -/
def State.frzBegin (s : State) (src : BitVec 2) : State :=
  if s.ctl.frz.st == .running && s.ctl.frz.cond && s.kn.on && !s.pins.coldRst then
    s.updFrz fun f => { f with st := .stopping, src := src, word := s.kn.nextWord.isSome }
  else s

/-- A thaw begins when the condition has ended and no readout runs; the duration, counted since FROZEN, is held in µs, at most
what DUR can show (R506). -/
def State.frzEnd (s : State) : State :=
  match s.ctl.frz.st with
  | .stopping => if s.ctl.frz.cond then s else s.updFrz fun f => { f with st := .running, word := false }
  | .frozen => if s.ctl.frz.cond then s else s.updFrz fun f => { f with st := .thawing, dur := BitVec.ofNat 48 (Nat.min (f.frozenNs / 1000) (2 ^ 48 - 1)) }
  | _ => s

/-- Every island can report its stop: a freeze is due, the store word being programmed has been completed, and no power switch is in motion
(R499). -/
def State.canFreeze (s : State) : Bool :=
  s.ctl.frz.st == .stopping && !s.ctl.frz.word && (List.range 66).all fun n => (s.slice n).pwr.code != 3 || (s.slice n).pwr == .filling

/-- FROZEN: every island has stopped (R499); an automatic readout starts (R508). -/
def State.frzFrozen (s : State) : State :=
  if s.canFreeze then
    let s := s.updFrz fun f => { f with
      st := if f.pcfg.getLsbD 8 then .reading else .frozen, count := satInc f.count, left := s.sh.mode, prev := s.sh.prev,
      rdPort := f.pcfg.getLsbD 8, rdAuto := f.pcfg.getLsbD 8, rdArr := f.pcfg.getLsbD 8 && f.pcfg.getLsbD 0, rdScent := f.pcfg.getLsbD 8 && f.pcfg.getLsbD 1,
      frozenNs := 0 }
    let s := s.updSh fun g => { g with prev := g.mode, mode := .freeze }
    s.frzEnd
  else s

/-- The thaw is complete: the mode and phase left are resumed (R506), and a freeze condition that began meanwhile freezes again (Table
17-2). -/
def State.frzThaw (s : State) : State :=
  if s.ctl.frz.st == .thawing then
    let s := s.updSh fun g => { g with mode := s.ctl.frz.left, prev := s.ctl.frz.prev }
    let s := s.updFrz fun f => { f with st := .running }
    s.frzBegin (if s.ctl.frz.pin then 0 else 2)
  else s

/-- An update of the TAP freeze register (Table 17-6). -/
def State.frzdr (s : State) (v : Word) : State :=
  let s := if v.getLsbD 0 then (s.updFrz fun f => { f with hold := true }).frzBegin 2 else s
  let s := if v.getLsbD 1 then (s.updFrz fun f => { f with hold := false }).frzEnd else s
  let s := if (v.getLsbD 2 || v.getLsbD 3) && s.ctl.frz.st == .frozen then
      s.updFrz fun f => { f with st := .reading, rdPort := v.getLsbD 2, rdAuto := false, rdArr := v.getLsbD 5, rdScent := v.getLsbD 6 }
    else s
  if v.getLsbD 4 && s.ctl.frz.st == .reading && !(s.ctl.frz.rdAuto && s.ctl.frz.rdArr) then (s.updFrz fun f => { f with st := .frozen }).frzEnd else s

/-- A readout ends with the whole image read (R506, R511); INCON tells of it from then on (R502). -/
def State.readoutEnd (s : State) : State :=
  if s.ctl.frz.st == .reading then (s.updFrz fun f => { f with st := .frozen, incon := s.proofIncon }).frzEnd else s

end Sys2Proof.Machine
end

