-- ==== Sys2Proof/Machine/Recovery.lean ====
section
/-! DEFINITION. Substitution of a failed slice (R441 to R444, Table 14-6), the end of a dead-agent walk (R446 to R449),
retirement (R450) and pack reset (R451, Table 14-8). -/

namespace Sys2Proof.Machine

/-! ### Substitution -/

/-- The spare of the substitution in progress. -/
def State.spare (s : State) : Nat := s.ctl.rcv.newp.toNat
/-- The failed slice of the substitution in progress. -/
def State.failedOne (s : State) : Nat := s.ctl.rcv.oldp.toNat

/-- SPARE_READY: the spare has settled and filled (Table 14-6 step 2). -/
def State.spareReady (s : State) : State :=
  if s.sh.mode == .recover && s.ctl.rcv.step == 2 then
    let s := s.updSlice s.spare fun x => { x.filled with pwr := .on, epOn := false }
    s.updRcv fun r => { r with step := 3 }
  else s

/-- A message in the name of the slice that takes its sender's place: SRC, and REQR of a MemRd whose data come back to the home (R96). -/
def Msg.renamed (old new : Nat) (m : Msg) : Msg :=
  if m.src.toNat ≠ sliceNode old then m else
    { m with
      src := BitVec.ofNat 10 (sliceNode new)
      f := if m.cls = clsReq ∧ m.cmd = 0x10 ∧ !m.f.getLsbD 0 ∧ fld m.f 10 1 = sliceNode old then
        (m.f &&& ~~~fPut 1023 1) ||| fPut (sliceNode new) 1 else m.f }
/-- An expected answer, by the same change. -/
def Exp.renamed (old new : Nat) (e : Exp) : Exp := { e with msg := e.msg.renamed old new }
/-- A tracker. -/
def Tracker.renamed (old new : Nat) (t : Tracker) : Tracker := { t with exp := t.exp.map (Exp.renamed old new), done := t.done.map (Exp.renamed old new) }
/-- A recall buffer entry. -/
def Recall.renamed (old new : Nat) (r : Recall) : Recall := { r with exp := r.exp.map (Exp.renamed old new), done := r.done.map (Exp.renamed old new) }
/-- A leash table entry. -/
def Leash.renamed (old new : Nat) (l : Leash) : Leash := { l with cut := l.cut.map (Exp.renamed old new) }
/-- A far register. -/
def FarReg.renamed (old new : Nat) (f : FarReg) : FarReg := { f with wb := f.wb.map (Exp.renamed old new) }
/-- A journal record: what it describes, and its messages. -/
def JRec.renamed (old new : Nat) (r : JRec) : JRec :=
  { r with
    msgs := r.msgs.map (Msg.renamed old new)
    own := r.own.map fun o => match o with
      | .trk t => .trk (t.renamed old new)
      | .rcl x => .rcl (x.renamed old new)
      | .leash l => .leash (l.renamed old new)
      | .far f => .far (f.renamed old new)
      | o => o }

/-- The words of the scratch ways and the far-register bank copied into spare `x`, an uncorrectable one poisoned (R385, Table 14-6 step
3), and the journal words that cannot be read, as they are. -/
def Slice.copyFrom (x : Slice) (g : Shared) (old : Slice) : Slice :=
  let here := ((old.mem.map (·.1)) ++ old.stuck.map (·.1)).eraseDups.filterMap old.unplace
  let scr := here.filter fun a => decide (g.dirw + g.stnw ≤ a / 32768) && decide (a / 32768 < 16)
  let x := (scr ++ (List.range 64).map (bankAddr 28)).foldl (fun x a =>
    match old.readC a with
    | (.clean, d) => x.storeD a d
    | (.corrected, d) => x.storeD a d
    | (_, d) => x.store a (poison72 d a)) x
  (here.filter fun a => a / 32768 == 26 && !(old.readC a).1.usable).foldl (fun x a => x.store a (old.fetch a)) x

/-- What the spare `sp` takes over from the failed slice `n` (Table 14-6 step 3), its messages from here on sent by the spare. -/
def Slice.takeOver (x : Slice) (g : Shared) (n sp : Nat) (old : Slice) (wat : List Watch) : Slice :=
  { x.copyFrom g old with
    trk := old.trk.map (Tracker.renamed n sp)
    rcl := old.rcl.map fun r : Recall => { r.renamed n sp with row := none }
    collapses := old.collapses.map fun c : Collapse =>
      { c with taken := true, oldRow := none, exp := c.exp.map (Exp.renamed n sp), done := c.done.map (Exp.renamed n sp) }
    owed := old.owed, lsh := old.lsh.map (Leash.renamed n sp), bar := old.bar, coord := old.coord, msync := old.msync,
    lsync := old.lsync, far := old.far.map (FarReg.renamed n sp), loose := old.loose.map (Exp.renamed n sp)
    jrn := old.jrn.map (JRec.renamed n sp), jseq := old.jseq, jpos := old.jpos, marks := old.marks, seq := Nat.max x.seq old.seq
    heldRx := old.heldRx, unsent := old.unsent, cjob := old.cjob, jobs := old.jobs, jobq := old.jobq, wat := wat, stashLast := old.stashLast
    tabs := { ver := x.tabs.ver + 1, wat := x.tabs.wat || !wat.isEmpty, cen := x.tabs.cen || old.jobs.any fun j => !j.recs.isEmpty }
    late := old.late.filter fun o => match o with | .stnCtl _ | .atmCtl _ | .arb _ | .egrant _ => false | _ => true
    agedq := old.agedq, ent := old.ent, prt := old.prt.map fun p : Nat × PortAdm => (p.1, { p.2 with reqTok := 0, ctlTok := 0 }) }

/-- The map with logical slice `l` on physical slice `n`. -/
def setMap (m : List Nat) (l n : Nat) : List Nat := m.set l n

/-- The start of step 4: the map is exported in GLB_LSMAP, with the substitution record, the Ledger record and the Bark source (R442, R577).
-/
def State.exportMap (s : State) : State :=
  let l := s.ctl.rcv.lslice.toNat
  let s := s.updSh fun g => { g with lsmap := setMap g.lsmap l s.spare }
  let s := s.updKn fun k => { k with substRec := some s.sh.lsmap, substFailed := k.substFailed ++ [s.failedOne] }
  (s.ledgerEv 68 7 4 [put l 0 ||| put s.failedOne 8 ||| put s.spare 16]).bark 854

/-- SUBSTITUTION_COPY_DONE (step 3): what agents cannot report is copied from the failed slice; the watch table from another
active slice. The stencil unit's operations stay behind with the directory they would change; a collapse keeps the answers it awaits. Step 4
begins with the export of the map; the failed slice goes on in sink mode until it ends. -/
def State.copyDone (s : State) : State :=
  if s.sh.mode == .recover && s.ctl.rcv.step == 3 then
    let old := s.slice s.failedOne
    let wat := match s.liveSlices.find? (· != s.failedOne) with | some n => (s.slice n).wat | none => old.wat
    let s := s.updSlice s.spare fun x => x.takeOver s.sh s.failedOne s.spare old wat
    (s.updRcv fun r => { r with step := 4 }).exportMap
  else s

/-- A slice-link message between slices by the map that puts `new` in the place of `old` (R442). -/
def Link.renamed (old new : Nat) (m : Link) : Link :=
  let f := fun n => if n = old then new else n
  match m with
  | .barReport d s p g gen mem arr => .barReport (f d) (f s) p g gen mem arr
  | .barFirst d s p t u => .barFirst (f d) (f s) p t u
  | .barRelease d p => .barRelease (f d) p
  | .barMismatch d p => .barMismatch (f d) p
  | .barTimeout d p => .barTimeout (f d) p
  | .barReply d s p a k => .barReply (f d) (f s) p a k
  | .memSync d c sc k => .memSync (f d) (f c) sc k

/-- What a slice remembers of other slices, by the same map. -/
def Slice.renamed (old new : Nat) (x : Slice) : Slice :=
  let f := fun n => if n = old then new else n
  { x with
    coord := x.coord.map fun c : Coord => { c with
      firsts := c.firsts.map fun y : CoordFirst => { y with home := f y.home }
      syncs := c.syncs.map f
      replies := c.replies.map fun r => (f r.1, r.2) }
    lsync := x.lsync.map fun l => { l with syncs := l.syncs.map f }
    msync := x.msync.map fun m : MSync => { m with coord := f m.coord } }

/-- A walk in the rebuilt directory (Table 15-3): it goes on with the chunk that is not complete, `whole` saying which are; a retirement,
which has no chunks, starts again. -/
def Walk.again (whole : Nat → Bool) (w : Walk) : Walk :=
  match w.why with
  | .retire _ => { w with next := 0 }
  | _ => if whole w.why.tag then w else { w with next := w.stop - 64 }

/-- The Burin work of a failed slice given to its spare: its walks go on in the rebuilt directory, and the steps of the chunks that are
walked again with them are dropped, with the count of lines visited but for those that recalls still hold (DEDUCED, log entry 88). -/
def Slice.takeWork (x old : Slice) : Slice :=
  let mine := fun (t : Nat) => old.walks.any fun w => w.why.tag == t
  let redo := fun (t : Nat) => mine t && !old.chunkOver t
  { x with
    walks := old.walks.map (Walk.again old.chunkOver)
    bq := old.bq.filter fun b => !redo b.tag
    bsum := old.bsum.map fun (t, b) => (t, if redo t then { b with visited := (old.rcl.filter (·.fence == some t)).length } else b) }

/-- SUBSTITUTION_MAP_DONE (the end of step 4): the failed slice, which has answered with Retry until now, passes what it holds and is switched
off (R577); the spare takes its place and its Burin work, with a request and a
control credit for each present agent whose wave has come (log entry 40), the request credit of one whose entry it has taken over once that
is free (R229). -/
def State.mapDone (s : State) : State :=
  if s.sh.mode == .recover && s.ctl.rcv.step == 4 then
    let l := s.ctl.rcv.lslice.toNat
    let old := s.failedOne
    let sp := s.spare
    let held := (s.slice old).heldRx
    let was := s.slice old
    let s := s.updSlice old fun x => { x with
      active := false, sink := false, emergency := false, pwr := .off, heldRx := [], trk := [], rcl := [], owed := [], lsh := [], bar := [], coord := [],
      msync := [], lsync := [], far := [], loose := [], ent := [], agedq := [], jobs := [], jobq := [], collapses := [], stq := [],
      stwait := [], walks := [], bq := [], bsum := [], jrn := [], marks := [], unsent := [], late := [], slcp := false, wat := [] }
    let s := s.updSlice sp fun x => { x.takeWork was with
      active := true, logical := l, heldRx := held, replay := true, rcause := 0, rstart := s.sh.now, emergency := true,
      egrant := if x.egrantAt = some s.sh.now then x.egrant else put (fld s.sh.esafe 23 0) 0
      remain := (fld s.sh.esafe 23 0 : Int), grantE := fld s.sh.esafe 23 0, qpos := 0, qwin := fld x.arb 31 16, shTick := s.sh.now }
    let s := (s.updLink (·.map (Link.renamed old sp))).mapSlices fun _ x => x.renamed old sp
    let s := (s.sh.present.filter fun a => decide (a / 64 < s.ctl.ms.waves)).foldl (fun s a => s.onSlice sp fun w =>
      (if w.sl.ent.any (·.port == a) then w else w.credit a).ctlCredit a) s
    s.updRcv fun r => { r with step := 5 }
  else s

/-- SUBSTITUTION_REPLAY_DONE (steps 5 and 6): the spare's replay ends and a slice census begins; after a domain stop nothing is sent or
consumed any more (R449). -/
def State.substReplayDone (s : State) : State :=
  if s.sh.mode == .recover && s.ctl.rcv.step == 5 && !s.sh.stop then
    let g := s.sh
    let s := s.onSlice s.spare fun w => ((w.replaySteps g).upd fun x => { x with emergency := false }).census g .slice 0 0 0
    s.updRcv fun r => { r with step := 6 }
  else s

/-- RECOVER_END (step 7): the span of R439 begins for the spare, and barriers that were admitted meanwhile do not stay in DRAIN (R319). -/
def State.recoverEnd (s : State) : State :=
  if s.sh.mode == .recover && s.ctl.rcv.step == 6 && !(s.slice s.spare).slcp then
    let back : Mode := if s.sh.prev = .dormant then .run else s.sh.prev
    let s := s.updSlice s.spare fun x => { x with rend := some s.sh.now }
    let s := s.updRcv fun r => { r with step := 0, spares := BitVec.ofNat 2 s.spares.length }
    let s := s.enter back .recover
    (if back = .drain then s.discardBarriers else s).takeFailed
  else s

/-! ### Dead agents -/

/-- Agent a's walk has ended; the next declared agent's begins. -/
def State.nextWalk (s : State) (a : Nat) : State :=
  let s := s.updSh fun g => { g with deadWins := g.deadWins.filter (·.1 != a) }
  match s.ctl.deadq with
  | [] => s.updSh fun g => { g with walk := none }
  | b :: rest => (s.updCtl fun c => { c with deadq := rest }).updSh fun g => { g with walk := some b }

/-- The event of a domain stop: the count, then the first 16 lines found, five to a record (R449, R475). -/
def State.stopRecords (s : State) (a n : Nat) (lines : List Line) : State :=
  let l := (lines.take 16).map fun l => l.setWidth 64
  let pad := fun (ws : List Word) => ws ++ List.replicate (5 - ws.length) 0
  let parts := [l.take 5, (l.drop 5).take 5, (l.drop 10).take 5, l.drop 15].filter fun p => !p.isEmpty
  s.ledgerRecs 68 ({ typ := 7, sub := 8, data := [put a 0 ||| put n 32] } :: parts.map fun p => { typ := 7, sub := 9, data := pad p })

/-- The domain stops (R449): nothing is decided any more; every job ends. -/
def State.domainStop (s : State) (a count : Nat) (lines : List Line) : State :=
  let n := Nat.min count (2 ^ 32 - 1)
  let s := s.updSh fun g => { g with stop := true, walk := none, deadWins := [] }
  let s := s.updCtl fun c => { c with stopAgent := BitVec.ofNat 9 a, stopLines := BitVec.ofNat 32 n, deadq := [] }
  let s := ((s.bark 879).stopRecords a n lines).kst 11 [put a 0 ||| put n 32]
  s.burinEndAll 5 4

/-- An agent leaves barrier participation, unless software writes PRT_BAR in the same cycle (R447, R450, R8). -/
def Port.noPart (p : Port) (now : Nat) : Port := if p.barAt = some now then p else { p with bar := p.bar &&& ~~~1 }

/-- DEAD_WALK_DONE (R446, R447): with no line counted the agent is fenced in every slice, a spare that holds a failed slice's state
already among them; otherwise the domain stops. It waits for a slice in replay (R432). The words that the walk reads are read as any others
(R386, R394): one that cannot be read causes its set census before the ways are counted. -/
def State.deadWalkDone (s : State) : State :=
  match s.sh.walk with
  | none => s
  | some a =>
    if s.anyReplay then s else
    let s := s.onAll fun w => w.bgWords s.sh (w.sl.liveAddrs s.sh)
    let g := s.sh
    let found := s.liveSlices.map fun n => (s.slice n).deadLines g a
    let count := (found.map (·.1)).sum
    if count = 0 then
      let s := s.updSh fun g => g.updPort a (·.noPart g.now)
      let g := s.sh
      let s := if s.ctl.rcv.step == 4 then s.onSlice s.spare fun w => w.fenceAgent g a else s
      (s.onAll fun w => w.fenceAgent g a).nextWalk a
    else s.domainStop a count (found.flatMap (·.2))

/-! ### Retirement -/

/-- A write of PRT_RETIRE of agent a (Table 14-17, R450). -/
def State.retire (s : State) (a : Nat) (v : Word) : CmdRes :=
  if (s.sh.port a).absent || s.ctl.retiring.contains a then .error 8
  else if fld v 7 0 ≠ 1 then .error 9
  else
    let s := s.updCtl fun c => { c with retiring := c.retiring ++ [a] }
    .ok (s.mapSlices fun _ x => if x.active && !x.dead then { x with walks := x.walks ++ [{ why := .retire a }] } else x)

/-- RETIREMENT_DONE of agent a: every slice has recalled what it held, and nothing is awaited of it (R450 steps 3 and 4). During a
substitution the spare has still to do so; a slice in replay is waited for (R432). -/
def State.retireDone (s : State) (a : Nat) : State :=
  if s.ctl.retiring.contains a && s.ctl.rcv.step == 0 && !s.anyReplay &&
      s.actives.all (fun n => (s.slice n).dead || ((s.slice n).pwr == .on && (s.slice n).walkOver (.retire a) && !(s.slice n).awaits a)) then
    let s := s.mapSlices fun _ x => { x with walks := x.walks.filter (·.why != .retire a), bsum := tdel x.bsum (32 + a) }
    let s := s.updSh fun g => g.updPort a (·.noPart g.now)
    let g := s.sh
    let s := s.onAll fun w => w.dropAgent g a
    let s := s.updSh fun g => g.updPort a fun p => { p with life := p.life ||| 2 }
    s.updCtl fun c => { c with retiring := c.retiring.filter (· != a) }
  else s

/-! ### Pack reset -/

/-- A write of PCK_RESET of pack p (Table 14-18, R451): accepted in RUN and DRAIN while no pack reset runs. -/
def State.packReset (s : State) (p : Nat) (v : Word) : CmdRes :=
  if !(s.sh.mode == .run || s.sh.mode == .drain) || (List.range 16).any (fun q => (s.sh.pack q).resetBusy) then .error 8
  else if fld v 7 0 ≠ 1 then .error 9
  else
    let s := s.updSh fun g => g.updPack p fun x => { x with gate := x.gate ||| 1, resetBusy := true, resetStep := 1 }
    .ok ((s.drainBarriers p).burinPackReset p)

/-- No software job of pack p is running (Table 14-8 step 2). -/
def Burin.packQuiet (b : Burin) (p : Nat) : Bool :=
  b.jobs.all fun j => !(j.status == 2 && j.owner == some p)

/-- PACK_RESET_DRAINED (Table 14-8 steps 2 and 3): what of the pack the Burin engine has not started ends; leashes of its agents are cut and
their watches killed; the walk is queued. It waits for a slice in replay (R432), and nothing follows a domain stop (R449). -/
def State.packResetDrained (s : State) (p : Nat) : State :=
  let x := s.sh.pack p
  if x.resetBusy && x.resetStep == 1 && !s.sh.stop && !s.anyReplay && s.packIdle p && s.ctl.brn.packQuiet p && s.ctl.brn.run != some (.fence p) &&
      s.ctl.brn.paused != some (.fence p) then
    let s := s.burinPackReset p
    let g := s.sh
    let s := s.onAll fun w =>
      let w := (w.sl.lsh.filter fun l => (g.port l.agent).packNo == p).foldl (fun w l => w.cutLeash g l.no) w
      w.killPackWatches g p
    let s := s.updSh fun g => g.updPack p fun x => { x with resetStep := 4, fenceBusy := true, fenceMask := 0 }
    s.updBrn fun b => { b with queue := b.queue ++ [.preset p] }
  else s

/-- A port's admission state at its cold-reset value, the backoff exponent at BKMIN (R244), its credit counts kept (Table 14-8 step 5). -/
def PortAdm.cleared (p : PortAdm) (bkmin : Nat) : PortAdm := { exp := bkmin, reqTok := p.reqTok, ctlTok := p.ctlTok }

/-- PACK_RESET_WALK_DONE (Table 14-8 steps 4 to 6). -/
def State.packResetWalkDone (s : State) (p : Nat) : State :=
  let x := s.sh.pack p
  if x.resetBusy && x.resetStep == 4 && s.walkDone (.preset p) &&
      s.liveSlices.all (fun n => (s.slice n).lsh.all fun l => (s.sh.port l.agent).packNo != p) then
    let g := s.sh
    let s := s.leaveWalk (.preset p)
    let s := s.mapSlices fun _ y => { y with
      shape := tset 0 y.shape p ((16 * x.burst : Nat) : Int)
      prt := y.prt.map fun q : Nat × PortAdm => if (g.port q.1).packNo == p then (q.1, q.2.cleared (g.port q.1).bkmin) else q }
    let s := s.updSh fun g => g.updPack p fun x => { x with deny := List.replicate 5 0, resetBusy := false, resetStep := 0, fenceBusy := false }
    (s.ledgerEv 67 7 0xA [put p 0]).bark (768 + 48 + p)
  else s

/-- FENCE_DONE of pack p (R51). -/
def State.fenceDone (s : State) (p : Nat) : State :=
  if (s.sh.pack p).fenceBusy && s.walkDone (.fence p) then
    let s := s.leaveWalk (.fence p)
    (s.updSh fun g => g.updPack p fun x => { x with fenceBusy := false }).bark (768 + 16 + p)
  else s

end Sys2Proof.Machine
end

