-- ==== Sys2Proof/Machine/Crypto.lean ====
section
/-! DEFINITION. The signature arithmetic of R366: SHA-512 and Ed25519 verification (RFC 8032, section 5.1.7), cofactored, with
canonical encodings. -/

namespace Sys2Proof.Machine

/-- The primes below 410: the first 80. -/
def shaPrimes : List Nat :=
  (List.range 410).filter fun p => decide (2 ≤ p) && (List.range 19).all fun d => decide (p ≤ d + 2) || p % (d + 2) != 0

/-- The first 64 bits of the fraction of the `k`-th root of `p`, found bit by bit. -/
def shaRoot (k p : Nat) : BitVec 64 :=
  BitVec.ofNat 64 ((List.range 70).foldl (fun r i => if (r + 2 ^ (69 - i)) ^ k ≤ p * 2 ^ (64 * k) then r + 2 ^ (69 - i) else r) 0)

/-- The initial hash value: from the square roots of the first eight primes. -/
def shaInit : List (BitVec 64) := (shaPrimes.take 8).map (shaRoot 2)

/-- The round constants: from the cube roots of the first 80 primes. -/
def shaK : List (BitVec 64) := shaPrimes.map (shaRoot 3)

/-- A word rotated by each distance of `rs`, the results added without carry. -/
def shaMix (rs : List Nat) (x : BitVec 64) : BitVec 64 := (rs.map fun r => x.rotateRight r).foldl (· ^^^ ·) 0

/-- One round over the eight working variables, with its round constant and schedule word added beforehand: the variables move
down by one place, the fifth takes the sum `t` on its way, and the first is new. -/
def shaRound (s : List (BitVec 64)) (kw : BitVec 64) : List (BitVec 64) :=
  let v := fun i => s.getD i 0
  let t := kw + v 7 + shaMix [14, 18, 41] (v 4) + (v 6 ^^^ (v 4 &&& (v 5 ^^^ v 6)))
  (t + shaMix [28, 34, 39] (v 0) + ((v 0 &&& (v 1 ||| v 2)) ||| (v 1 &&& v 2))) :: (s.take 7).modify 3 (· + t)

/-- The next message schedule word from the last sixteen, the newest first. -/
def shaNext (w : List (BitVec 64)) : BitVec 64 :=
  let part := fun (i shift : Nat) (rs : List Nat) => shaMix rs (w.getD i 0) ^^^ (w.getD i 0 >>> shift)
  part 14 7 [1, 8] + part 1 6 [19, 61] + w.getD 15 0 + w.getD 6 0

/-- The message schedule of a block, newest first. -/
def shaSched : Nat → List (BitVec 64) → List (BitVec 64)
  | 0, w => w
  | k + 1, w => shaSched k (shaNext w :: w)

/-- One block of sixteen words. -/
def shaBlock (h : List (BitVec 64)) (m : List (BitVec 64)) : List (BitVec 64) :=
  let ws := (shaSched 64 m.reverse).reverse
  h.zipWith (· + ·) ((shaK.zipWith (· + ·) ws).foldl shaRound h)

/-- Bytes as big-endian 64-bit words. -/
def beWords : Nat → List (BitVec 8) → List (BitVec 64)
  | 0, _ => []
  | n + 1, bs => BitVec.ofNat 64 (ofBytes (bs.take 8).reverse) :: beWords n (bs.drop 8)

/-- The padded message of SHA-512. -/
def shaPad (bs : List (BitVec 8)) : List (BitVec 8) :=
  let n := bs.length
  bs ++ [0x80] ++ List.replicate ((239 - n % 128) % 128) 0 ++ (bytesOf 16 (8 * n)).reverse

/-- The blocks of a word list. -/
def shaGo : Nat → List (BitVec 64) → List (BitVec 64) → List (BitVec 64)
  | 0, h, _ => h
  | n + 1, h, ws => shaGo n (shaBlock h (ws.take 16)) (ws.drop 16)

/-- SHA-512 of a byte string. -/
def sha512 (bs : List (BitVec 8)) : List (BitVec 8) :=
  let p := shaPad bs
  (shaGo (p.length / 128) shaInit (beWords (p.length / 8) p)).flatMap fun w => (bytesOf 8 w.toNat).reverse

/-! ### Ed25519 -/

/-- The field prime. -/
def edP : Nat := 2 ^ 255 - 19
/-- The group order. -/
def edL : Nat := 2 ^ 252 + 27742317777372353535851937790883648493

/-- a to the power e modulo p, over the bits of e. -/
def powMod : Nat → Nat → Nat → Nat → Nat
  | 0, _, _, _ => 1
  | f + 1, a, e, p => let h := powMod f (a * a % p) (e / 2) p; if e % 2 = 1 then h * a % p else h

/-- The inverse modulo the field prime. -/
def edInv (a : Nat) : Nat := powMod 256 a (edP - 2) edP
/-- The curve constant d. -/
def edD : Nat := (edP - 121665) * edInv 121666 % edP
/-- A square root of minus one. -/
def edI : Nat := powMod 256 2 ((edP - 1) / 4) edP

/-- A point in extended coordinates. -/
structure EdPoint where
  x : Nat
  y : Nat
  z : Nat
  t : Nat
  deriving DecidableEq, Repr

/-- The neutral point. -/
def edZero : EdPoint := ⟨0, 1, 1, 0⟩

/-- Addition of points (RFC 8032, section 5.1.4). -/
def edAdd (p q : EdPoint) : EdPoint :=
  let a := (p.y + edP - p.x) * (q.y + edP - q.x) % edP
  let b := (p.y + p.x) * (q.y + q.x) % edP
  let c := p.t * 2 * edD * q.t % edP
  let d := p.z * 2 * q.z % edP
  let e := b + edP - a
  let f := d + edP - c
  let g := d + c
  let h := b + a
  ⟨e * f % edP, g * h % edP, f * g % edP, e * h % edP⟩

/-- k times a point, over the bits of k. -/
def edMul : Nat → Nat → EdPoint → EdPoint
  | 0, _, _ => edZero
  | f + 1, k, p => let h := edMul f (k / 2) (edAdd p p); if k % 2 = 1 then edAdd h p else h

/-- Two points are equal. -/
def edEq (p q : EdPoint) : Bool := p.x * q.z % edP == q.x * p.z % edP && p.y * q.z % edP == q.y * p.z % edP

/-- The x coordinate of a point from its y and sign (RFC 8032, section 5.1.3). -/
def edX (y sign : Nat) : Option Nat :=
  let u := (y * y + edP - 1) % edP
  let v := (edD * (y * y) + 1) % edP
  let x2 := u * edInv v % edP
  let x := powMod 256 x2 ((edP + 3) / 8) edP
  let x := if x * x % edP = x2 then x else x * edI % edP
  if x * x % edP ≠ x2 then none
  else if x = 0 ∧ sign = 1 then none
  else some (if x % 2 = sign then x else (edP - x) % edP)

/-- A point decoded; a non-canonical encoding is rejected (R366). -/
def edDecode (bs : List (BitVec 8)) : Option EdPoint :=
  let n := ofBytes bs
  let y := n % 2 ^ 255
  if edP ≤ y then none
  else (edX y (n / 2 ^ 255 % 2)).map fun x => ⟨x, y, 1, x * y % edP⟩

/-- The base point. -/
def edBase : EdPoint :=
  let y := 4 * edInv 5 % edP
  let x := (edX y 0).getD 0
  ⟨x, y, 1, x * y % edP⟩

/-- Signature verification under the restrictions of R366. -/
def edVerify (a r sb m : List (BitVec 8)) : Bool :=
  match edDecode a, edDecode r with
  | some pa, some pr =>
    let s := ofBytes sb
    let k := ofBytes (sha512 (r ++ a ++ m)) % edL
    !edEq (edMul 4 8 pa) edZero && decide (s < edL) &&
      edEq (edMul 4 8 (edMul 256 s edBase)) (edAdd (edMul 4 8 pr) (edMul 4 8 (edMul 256 k pa)))
  | _, _ => false

end Sys2Proof.Machine
end

