-- ==== Sys2Proof/Machine/Plate.lean ====
section
/-! DEFINITION. The validation of a plate (R343 to R368, Tables 12-1 to 12-8). -/

namespace Sys2Proof.Machine

/-- A word of the Kennel store read. -/
def Kennel.storeRead (k : Kennel) (i : Nat) : RdClass × Word := KMem.readC k.store (k.storeAt i)

/-- Word index of the first word of a plate slot (Table 12-10 of the store layout): A, or B. -/
def slotBase (b : Bool) : Nat := if b then 0x200000 / 8 else 0

/-- The result of a check: VCODE, STYPE and FWORD of the first failure. -/
abbrev Chk12 := Except (Nat × Nat × Nat)

/-- A condition of check `code` about a section type and word. -/
def need (c : Bool) (code typ word : Nat) : Chk12 Unit := if c then .ok () else .error (code, typ, word)

/-- Conditions on successive words from `word` on: the first that fails is reported. -/
def needAll (cs : List Bool) (code typ word : Nat) : Chk12 Unit :=
  match cs.findIdx? (!·) with
  | none => .ok ()
  | some i => .error (code, typ, word + i)

/-- The words of a section, from word `off` of the plate on, that break a condition: their type and place. -/
def badWords (typ off : Nat) (cs : List Bool) : List (Nat × Nat) := (cs.zipIdx.filter (!·.1)).map fun x => (typ, off + x.2)

/-- Of the words that fail a check the first one of the plate is reported (R368). -/
def firstBad (code : Nat) (l : List (Nat × Nat)) : Chk12 Unit :=
  match l.foldl (fun (b : Option (Nat × Nat)) x => match b with
    | none => some x
    | some y => if x.2 < y.2 then some x else some y) none with
  | none => .ok ()
  | some x => .error (code, x.1, x.2)

/-- Word i of the plate in a slot; an uncorrectable word is reported as soon as it is met (Table 12-8). -/
def plWord (k : Kennel) (b : Bool) (typ i : Nat) : Chk12 Word :=
  let r := k.storeRead (slotBase b + i)
  if r.1.usable then .ok r.2 else .error (0x0D, typ, i)

/-- Word i of a plate that was validated: every word of it could be read. -/
def plWordD (k : Kennel) (b : Bool) (typ i : Nat) : Word :=
  match plWord k b typ i with
  | .ok w => w
  | .error _ => 0

/-- `n` words from word i. -/
def plWords (k : Kennel) (b : Bool) (typ : Nat) : Nat → Nat → Chk12 (List Word)
  | 0, _ => .ok []
  | n + 1, i =>
    match plWord k b typ i with
    | .error e => .error e
    | .ok w => match plWords k b typ n (i + 1) with
      | .error e => .error e
      | .ok ws => .ok (w :: ws)

/-- The payload bytes of words (R347). -/
def wordBytes (ws : List Word) : List (BitVec 8) := ws.flatMap fun w => bytesOf 8 w.toNat
/-- CRC-32C of words. -/
def wordCrc (ws : List Word) : BitVec 32 := crc32c (wordBytes ws)

/-- An entry of the section table (R348). -/
structure Sect where
  typ : Nat
  off : Nat
  len : Nat
  crc : BitVec 32
  deriving DecidableEq, Repr

/-- The required sections (Table 12-2). -/
def sectTypes : List Nat := [0x01, 0x02, 0x03, 0x04, 0x10, 0x11, 0x12, 0x13, 0x14, 0x15, 0x16, 0x17, 0x18, 0x3F]

/-- A parsed plate: LENW and the section table. -/
structure PlateMap where
  lenw : Nat
  secs : List Sect
  deriving DecidableEq, Repr

/-- The words of section type `t`. -/
def PlateMap.sect (m : PlateMap) (k : Kennel) (b : Bool) (t : Nat) : Chk12 (List Word) :=
  match m.secs.find? (·.typ == t) with
  | some s => plWords k b t s.len s.off
  | none => .ok []

/-- The words of a section of a plate that has passed validation. -/
def PlateMap.words (m : PlateMap) (k : Kennel) (b : Bool) (t : Nat) : List Word :=
  match m.sect k b t with | .ok ws => ws | .error _ => []

/-- SHEEP's length by its word 0 (R361). -/
def sheepLen (w : Word) : Nat := 1 + 9 * ((fld w 12 0 + 15) / 16) + fld w 27 16 + 2 * fld w 39 32

/-- The length that Table 12-2 gives a section, or that its own layout gives; a register image's number of pairs is left to check 10 (DEDUCED,
log entry 72). -/
def lenOk (t len : Nat) (w0 : Word) : Bool :=
  match t with
  | 0x01 => len == 10 | 0x02 => len == 42 | 0x03 => len == 2 | 0x04 => len == 512 | 0x10 => len == 37192
  | 0x15 => len == sheepLen w0
  | 0x20 => len == 308 | 0x3F => len == 13
  | _ => len % 2 == 0

/-- Each entry begins where the one before it ends, the first at word `o` (R349). -/
def contiguous : Nat → List Sect → List Bool
  | _, [] => []
  | o, s :: l => (s.off == o) :: contiguous (s.off + s.len) l

/-- Which values of a list are new where they stand. -/
def newHere (l : List Nat) : List Bool := l.zipIdx.map fun x => !(l.take x.2).contains x.1

/-- Checks 1 to 6. `op`: 0 start-up, 1 INSTALL, 2 RELOAD, 3 CHECK. The entries of the section table are judged one after the other (R349), and
a missing section last, with word 8 (DEDUCED, log entry 72). The pairs of a register image are counted by check 10 (DEDUCED, log entry 72). -/
def checkTable (k : Kennel) (b : Bool) (op : Nat) (lenw : Option Nat) : Chk12 PlateMap := do
  let h ← plWords k b 0 8 0
  let w := fun i => h.getD i 0
  need (w 0 == 0x4942465000010008) 1 0 0
  need (fld (w 7) 31 0 == (wordCrc (h.take 7)).toNat) 2 0 7
  let n := fld (w 2) 51 32
  need (decide (64 ≤ n) && decide (n ≤ 262144) && (match lenw with | some l => l == n | none => true)) 3 0 2
  need (fld (w 3) 63 56 == fld (k.fuseWord 0) 47 40 && fld (w 3) 55 40 == 0x0512) 4 0 3
  let st := fld (w 1) 63 32
  need (decide (fld (w 1) 31 0 ≤ st) && decide (k.plate.floor.toNat ≤ st) &&
    (match op with | 1 => !k.plate.inf || decide (k.plate.state.toNat < st) | 2 => decide (k.plate.state.toNat ≤ st) | _ => true)) 5 0 1
  let nsec := fld (w 2) 31 16
  need (decide (13 ≤ nsec) && decide (nsec ≤ 15)) 6 0 2
  let t ← plWords k b 0 (2 * nsec + 1) 8
  need (fld (t.getD (2 * nsec) 0) 31 0 == (wordCrc (t.take (2 * nsec))).toNat) 6 0 (8 + 2 * nsec)
  let secs := (List.range nsec).map fun i =>
    let a := t.getD (2 * i) 0
    ({ typ := fld a 63 56, off := fld a 51 32, len := fld a 19 0, crc := (t.getD (2 * i + 1) 0).setWidth 32 } : Sect)
  let types := secs.map (·.typ)
  let m : PlateMap := { lenw := n, secs := secs }
  ((secs.zip (newHere types)).zip (contiguous (9 + 2 * nsec) secs)).zipIdx.forM fun x => do
    let e := x.1.1.1
    let at_ := 8 + 2 * x.2
    need ((sectTypes.contains e.typ || e.typ == 0x20) && x.1.1.2 && x.1.2) 6 e.typ at_
    let w0 ← if e.typ = 0x15 then plWord k b e.typ e.off else pure 0
    need (lenOk e.typ e.len w0 && (e.typ != 0x3F || (x.2 + 1 == nsec && e.off + e.len == n))) 6 e.typ at_
  need (sectTypes.all types.contains) 6 0 8
  return m

/-- Check 7: the CRC of every section but SIG. FWORD is the section's first word (DEDUCED, log entry 72). -/
def checkCrcs (k : Kennel) (b : Bool) (m : PlateMap) : Chk12 Unit :=
  m.secs.forM fun s => do
    if s.typ = 0x3F then need (s.crc == 0) 7 0x3F s.off
    else
      let ws ← plWords k b s.typ s.len s.off
      need (wordCrc ws == s.crc) 7 s.typ s.off

/-- A key digest slot: programmed, and its 32 bytes (R403); none when a word is uncorrectable in both copies. -/
def Kennel.keyDigest (k : Kennel) (j : Nat) : Option (List (BitVec 8)) :=
  let ws := (List.range 4).map fun i => k.fuseWord (16 + 4 * j + i)
  let bad := (List.range 4).any fun i =>
    let rd := fun (q : Nat) => (classify (tget ⟨0, 0⟩ k.fuse q) 0).1.usable
    !rd (16 + 4 * j + i) && !rd (4096 + 16 + 4 * j + i)
  if bad || ws.all (· == 0) then none else some (wordBytes ws)

/-- A key slot is revoked (R403). -/
def Kennel.revoked (k : Kennel) (j : Nat) : Bool :=
  let rd := fun (q : Nat) => classify (tget ⟨0, 0⟩ k.fuse q) 0
  let a := rd (32 + j)
  let c := rd (4128 + j)
  (!a.1.usable && !c.1.usable) || (if a.1.usable then a.2 else c.2) != 0

/-- Checks 8 and 9 (R365, R366). FWORD is word 0 of SIG (DEDUCED, log entry 72). -/
def checkSig (k : Kennel) (b : Bool) (m : PlateMap) : Chk12 Unit := do
  let sig ← m.sect k b 0x3F
  let o := m.lenw - 13
  let bytes := fun (i n : Nat) => wordBytes ((sig.drop i).take n)
  let slot := fld (sig.getD 0 0) 1 0
  need (!k.revoked slot && k.keyDigest slot == some ((sha512 (bytes 1 4)).take 32)) 8 0x3F o
  let msg ← plWords k b 0x3F (m.lenw - 12) 0
  need (edVerify (bytes 1 4) (bytes 5 4) (bytes 9 4) (wordBytes msg)) 9 0x3F o

/-! ### Sections -/

/-- The bits of `w` outside `mask` are zero. -/
def within (w mask : Word) : Bool := w &&& ~~~mask == 0

/-- A condition on every word of a section, in order. -/
def eachWord (ws : List Word) (code typ off : Nat) (f : Nat → Word → Bool) : Chk12 Unit :=
  ws.zipIdx.forM fun x => need (f x.2 x.1) code typ (off + x.2)

/-- The active slices and the map that ISLAND gives (R351). -/
def islandMap (s : State) (ws : List Word) : List Nat :=
  if (ws.getD 1 0).getLsbD 63 then ((List.range 66).filter s.usable).take 64
  else (List.range 64).map fun l => fld (ws.getD (2 + l / 8) 0) (8 * (l % 8) + 6) (8 * (l % 8))

/-- ISLAND word by word (R351, Table 12-3). The number of usable slices stands against word 1, and that of ACTIVE's bits against word 0
(DEDUCED, log entry 72). -/
def islandOk (s : State) (ws : List Word) : List Bool :=
  let w1 := ws.getD 1 0
  if w1.getLsbD 63 then ws.zipIdx.map fun x =>
    if x.2 = 1 then within w1 (ones 1 63 ||| ones 2 0) && decide (64 ≤ ((List.range 66).filter s.usable).length) else x.1 == 0
  else
    let act := (List.range 66).filter fun n => if n < 64 then (ws.getD 0 0).getLsbD n else w1.getLsbD (n - 64)
    let m := islandMap s ws
    let named := (m.zip (newHere m)).map fun x => act.contains x.1 && x.2
    [act.length == 64 && act.all fun n => decide (64 ≤ n) || s.usable n,
     within w1 (ones 1 63 ||| ones 2 0) && act.all fun n => decide (n < 64) || s.usable n] ++
    (List.range 8).map fun j => within (ws.getD (2 + j) 0) 0x7F7F7F7F7F7F7F7F && ((named.drop (8 * j)).take 8).all id

/-- The matrix of HASH (R353). -/
def hashRows (ws : List Word) : List Line := ws.map fun w => w.setWidth 42

/-- A square part of the matrix is invertible: rows and columns below `n`, the rest taken as the identity (R87). -/
def subInvertible (rows : List Line) (n : Nat) : Bool :=
  let part := rows.zipIdx.map fun x => if x.2 < n then x.1 &&& BitVec.ofNat 42 (2 ^ n - 1) else 1#42 <<< x.2
  (invGF2 part).isSome

/-- The regions of ROUTE (Table 12-4). -/
def regionsOf (ws : List Word) : List Region :=
  (List.range 16).map fun r =>
    let w := ws.getD (4 * r) 0
    { en := w.getLsbD 63, base := fld w 17 0, limit := fld w 35 18, ways := fld w 62 60, gran := fld w 59 56,
      list := (List.range 32).map fun i =>
        if i < 12 then fld (ws.getD (4 * r + 1) 0) (5 * i + 4) (5 * i)
        else if i < 24 then fld (ws.getD (4 * r + 2) 0) (5 * (i - 12) + 4) (5 * (i - 12))
        else fld (ws.getD (4 * r + 3) 0) (5 * (i - 24) + 4) (5 * (i - 24)) }

/-- The 64 words of the interleave map, each by its own rules (R28, R356, Tables 2-4 and 12-4); a region that overlaps an earlier one
fails with its first word (DEDUCED, log entry 72). -/
def regionWords (ws : List Word) : List Bool :=
  let regs := regionsOf ws
  (List.range 64).map fun i =>
    let w := ws.getD i 0
    let r := i / 4
    if !(ws.getD (4 * r) 0).getLsbD 63 then w == 0
    else match i % 4 with
      | 0 => within w (~~~(ones 20 36)) && decide (fld w 17 0 ≤ fld w 35 18) && decide (fld w 62 60 ≤ 5) && decide (fld w 59 56 ≤ 10) &&
          (regs.take r).all fun q => !q.en || decide (fld w 35 18 < q.base) || decide (q.limit < fld w 17 0)
      | 3 => within w (ones 40 0)
      | _ => within w (ones 60 0)

/-- SPLIT word by word (R84, R86, R87, R354). -/
def splitOk (ws : List Word) (rows : List Line) (regs : List Region) : List Bool :=
  let w := ws.getD 0 0
  let d := fld w 4 0; let st := fld w 9 8; let sc := fld w 12 10
  let base := fld (ws.getD 1 0) 41 0
  let kk := 18 + scrB sc
  [within w (ones 5 0 ||| ones 5 8) && decide (st ≤ 2) && decide (sc ≤ 4) && d + st + sc == 16,
   within (ws.getD 1 0) (ones 42 0) &&
    (if sc = 0 then base == 0
     else base % 2 ^ kk == 0 && subInvertible rows kk &&
      regs.all fun r => !r.en || decide (base + 2 ^ kk ≤ r.base * 2 ^ 24) || decide ((r.limit + 1) * 2 ^ 24 ≤ base))]

/-- AGENT, each word (R355). -/
def agentWordOk (w : Word) : Bool :=
  if fld w 1 0 = 0 then w == 0 else within w (ones 2 0 ||| ones 10 4 ||| ones 32 32)

/-- Every cluster group lies in one pack (R27), by the words of AGENT: one that puts its group in another pack than an earlier word does. -/
def groupsOk (ws : List Word) : List Bool :=
  ws.zipIdx.map fun x => fld x.1 1 0 == 0 || (ws.take x.2).all fun y =>
    fld y 1 0 == 0 || fld y 13 8 != fld x.1 13 8 || fld y 7 4 == fld x.1 7 4

/-- A route word is well formed (R525). -/
def routeOk (w : Word) : Bool := w.getLsbD 63 && within w (ones 1 63 ||| ones 12 0)

/-- Whether source table index d must hold a route (R357). -/
def routeNeeded (agents : List Word) (regs : List Region) (d : Nat) : Bool :=
  if d < 512 then fld (agents.getD d 0) 1 0 != 0
  else if d < 544 then regs.any fun r => r.en && (r.list.take (2 ^ r.ways)).contains (d - 512)
  else true

/-- The offsets (first words of the pairs) of a section's image, ascending (R358, R359, Table 12-5). -/
def ownedOffs (t : Nat) : List Nat :=
  let packs := fun (os : List Nat) => (List.range 16).flatMap fun p => os.map fun o => 0x68000 + 0x100 * p + o
  let ports := fun (os : List Nat) => (List.range 512).flatMap fun a => os.map fun o => 0x60000 + 0x40 * a + o
  let row := fun (b n : Nat) => (List.range n).map fun i => b + 8 * i
  match t with
  | 0x11 => [0x200] ++ ports [0x28] ++ packs [0x08] ++ [2 ^ 63 + 0x240]
  | 0x12 => row 0x208 4
  | 0x13 => packs (row 0x10 5 ++ row 0x40 16)
  | 0x14 => ports (row 0x10 3)
  | 0x15 => [0x70000, 0x70018] ++ row 0x70200 4 ++ [0x70300, 0x70310]
  | 0x16 => row 0x7A000 16 ++ row 0x7A100 16
  | 0x17 => row 0x79000 8
  | 0x18 => [0x300]
  | _ => []

/-- The register that a pair's first word names; a broadcast one stands for every slice's. -/
def pairReg (o : Nat) : Option Reg := if 2 ^ 63 ≤ o then (slcRegAt (o - 2 ^ 63)).map (.slc 0) else regAt o

/-- The pairs of an image. -/
def pairsOf : List Word → List (Nat × Word)
  | a :: v :: l => (a.toNat, v) :: pairsOf l
  | _ => []

/-- A value that a plate may load into register r (R360). -/
def loadOk (r : Reg) (v : Word) : Bool := within v r.pmask && r.rangeOk v

/-- The image of section type `t`, word by word (R358 to R360): each first word names the register due there, each second word is a
value that may be loaded, and a window's LIMIT is not below its BASE; `also` says what else a pair's value must meet. -/
def imageOk (t : Nat) (ps : List (Nat × Word)) (also : Nat × Word → Bool := fun _ => true) : List Bool :=
  let own := ownedOffs t
  let val := fun (o : Nat) => ((ps.find? (·.1 == o)).map (·.2)).getD 0
  let win := fun (o : Nat) (v : Word) => match pairReg o with
    | some (.pck _ (.winAttr _)) => !v.getLsbD 0 || decide (fld (val (o - 8)) 47 12 ≤ fld v 47 12)
    | _ => true
  (ps.zipIdx.flatMap fun x =>
    [own[x.2]? == some x.1.1, (match pairReg x.1.1 with | some r => loadOk r x.1.2 | none => false) && win x.1.1 x.1.2 && also x.1]) ++
    [decide (own.length ≤ ps.length)]

/-- SHEEP's own rules (R361): the counts, and instructions past PLEN zero. -/
def sheepOk (ws : List Word) : Bool :=
  let w := ws.getD 0 0
  let plen := fld w 12 0
  within w (ones 13 0 ||| ones 12 16 ||| ones 8 32) && decide (2 ≤ plen) && decide (plen ≤ 4096) && decide (fld w 27 16 ≤ 2048) && fld w 39 32 == 8

/-- Instruction i of SHEEP (R361). -/
def sheepIns (ws : List Word) (i : Nat) : BitVec 36 :=
  let g := ((ws.drop (1 + 9 * (i / 16))).take 9)
  let v := g.foldr (fun (x : Word) (n : Nat) => x.toNat + 2 ^ 64 * n) 0
  BitVec.ofNat 36 (v / 2 ^ (36 * (i % 16)))

/-- Word q of SHEEP's last group of instructions: its bits past instruction PLEN − 1 are zero (R361). -/
def sheepTail (plen q : Nat) (w : Word) : Bool := plen % 16 == 0 || w.toNat / 2 ^ (36 * (plen % 16) - 64 * q) == 0 || decide (64 * q + 64 ≤ 36 * (plen % 16))

/-- The fields of a calibration set in their ranges (Table 12-7); `ws` are words 2 to 306. -/
def calWords (ws : List Word) : List Bool :=
  let w := fun i => ws.getD (i - 2) 0
  let so := fun (i : Nat) => ((w i).setWidth 16).toInt
  [within (w 2) (ones 10 0)] ++
  (List.range 24).map (fun i => within (w (3 + i)) (ones 32 0) && decide (-512 ≤ so (3 + i)) && decide (so (3 + i) ≤ 511) &&
    decide (29491 ≤ fld (w (3 + i)) 31 16) && decide (fld (w (3 + i)) 31 16 ≤ 36044)) ++
  (List.range 8).map (fun t => within (w (27 + t)) (ones 20 0) && decide (fld (w (27 + t)) 19 0 ≤ 60000) &&
    (t == 0 || decide (fld (w (26 + t)) 19 0 ≤ fld (w (27 + t)) 19 0))) ++ [true, true] ++
  (List.range 69).map (fun j => within (w (37 + j)) (ones 8 0) && decide (fld (w (37 + j)) 7 0 ≤ 200) && (j != 68 || w 105 == 0)) ++
  (List.range 201).map (fun c => within (w (106 + c)) (ones 6 0))

/-- Every field of a calibration set is in its range. -/
def calRanges (ws : List Word) : Bool := (calWords ws).all id

/-- A calibration set image of 307 words, word by word: its header, length, CRC and ranges (R300, R363). -/
def calImageOk (ws : List Word) : List Bool :=
  let h := ws.getD 1 0
  [fld (ws.getD 0 0) 31 0 == 0 && within (ws.getD 0 0) (ones 16 32),
   within h (ones 48 0) && fld h 47 32 == 307 && ws.length == 307 && fld h 31 0 == (wordCrc (ws.drop 2)).toNat] ++ calWords (ws.drop 2)

/-- The reserved bits of the header and of the section table of `n` entries (R344, Tables 12-1 and 12-2). -/
def headOk (h t : List Word) (n : Nat) : List Bool :=
  [true, true, within (h.getD 2 0) (ones 20 32 ||| ones 16 16), within (h.getD 3 0) (~~~(ones 8 32)), within (h.getD 4 0) 1, true,
   h.getD 6 0 == 0, within (h.getD 7 0) (ones 32 0)] ++
  t.zipIdx.map fun x =>
    if x.2 = 2 * n then within x.1 (ones 32 0) else if x.2 % 2 = 0 then within x.1 (ones 8 56 ||| ones 20 32 ||| ones 20 0) else within x.1 (ones 32 0)

/-- SHEEP word by word: its counts, the bits past its last instruction, and its image (R361). -/
def sheepWords (sh : List Word) (off : Nat) : List (Nat × Nat) :=
  let plen := fld (sh.getD 0 0) 12 0
  badWords 0x15 off [sheepOk sh] ++
  badWords 0x15 (off + 1 + 9 * (plen / 16)) ((((sh.drop (1 + 9 * (plen / 16))).take 9).zipIdx).map fun x => sheepTail plen x.2 x.1) ++
  badWords 0x15 (off + sh.length - 16) (imageOk 0x15 (pairsOf (sh.drop (sh.length - 16))))

/-- Check 10: reserved fields and each section's own rules, of which the first failing word of the plate is reported. A matrix that has no
inverse fails with HASH's first word (DEDUCED, log entry 72). -/
def checkSections (s : State) (b : Bool) (m : PlateMap) : Chk12 Unit := do
  let k := s.kn
  let n := m.secs.length
  let h ← plWords k b 0 8 0
  let t ← plWords k b 0 (2 * n + 1) 8
  let off := fun (ty : Nat) => ((m.secs.find? (·.typ == ty)).map (·.off)).getD 0
  let isl ← m.sect k b 1
  let hash ← m.sect k b 2
  let route ← m.sect k b 0x10
  let split ← m.sect k b 3
  let agents ← m.sect k b 4
  let sh ← m.sect k b 0x15
  let cal ← m.sect k b 0x20
  let sig ← m.sect k b 0x3F
  let images ← [0x11, 0x12, 0x13, 0x14, 0x16, 0x17, 0x18].mapM fun ty => do
    let ws ← m.sect k b ty
    return (ty, pairsOf ws)
  let regs := regionsOf route
  let inv := (invGF2 (hashRows hash)).isSome
  let ring := fun (x : Nat × Word) => x.1 != 0x79008 || ringPlaced regs (fld (split.getD 0 0) 12 10) (fld (split.getD 1 0) 41 0) x.2
  let g := sig.getD 0 0
  firstBad 10 (
    badWords 0 0 (headOk h t n) ++
    badWords 1 (off 1) (islandOk s isl) ++
    badWords 2 (off 2) (hash.zipIdx.map fun x => within x.1 (ones 42 0) && (x.2 != 0 || inv)) ++
    badWords 3 (off 3) (splitOk split (hashRows hash) regs) ++
    badWords 4 (off 4) ((agents.zip (groupsOk agents)).map fun x => agentWordOk x.1 && x.2) ++
    badWords 0x10 (off 0x10) (regionWords route) ++
    images.flatMap (fun x => badWords x.1 (off x.1) (imageOk x.1 x.2 ring)) ++
    sheepWords sh (off 0x15) ++
    (if cal.isEmpty then [] else
      badWords 0x20 (off 0x20) ((within (cal.getD 0 0) (ones 32 0) && fld (cal.getD 0 0) 31 0 == fld (k.fuseWord 3) 31 0) :: calImageOk (cal.drop 1))) ++
    badWords 0x3F (off 0x3F) [within g (ones 2 0 ||| ones 4 4) && !g.getLsbD (4 + fld g 1 0)])

/-- Check 11 (R357). -/
def checkRoutes (s : State) (b : Bool) (m : PlateMap) : Chk12 Unit := do
  let route ← m.sect s.kn b 0x10
  let agents ← m.sect s.kn b 4
  let regs := regionsOf route
  let off := ((m.secs.find? (·.typ == 0x10)).map (·.off)).getD 0
  let needed := (List.range 546).map (routeNeeded agents regs)
  eachWord (route.drop 64) 11 0x10 (off + 64) fun i w => if needed.getD (i % 546) false then routeOk w else w == 0

/-- The words of a section are those of the plate in force, word by word. -/
def sameWords (a b : List Word) : List Bool := (a.zipIdx.map fun x => b[x.2]? == some x.1) ++ [decide (b.length ≤ a.length)]

/-- Check 12, for RELOAD (R375). `f` is the slot of the plate in force; a word of it that cannot be read is reported as such (0x0D). -/
def checkReload (s : State) (b f : Bool) (m : PlateMap) : Chk12 Unit := do
  match checkTable { s.kn with plate := { s.kn.plate with inf := false, floor := 0 } } f 0 none with
  | .error (v, t, w) => .error (if v = 0x0D then (v, t, w) else (12, 0, 0))
  | .ok q =>
    let off := fun (ty : Nat) => ((m.secs.find? (·.typ == ty)).map (·.off)).getD 0
    let fixed ← [1, 2, 3, 4, 0x20].mapM fun ty => do
      let a ← m.sect s.kn b ty
      let a' ← q.sect s.kn f ty
      return (ty, sameWords a a')
    let r ← m.sect s.kn b 0x10
    let r' ← q.sect s.kn f 0x10
    let arb ← m.sect s.kn b 0x11
    let en ← m.sect s.kn b 0x12
    let sh ← m.sect s.kn b 0x15
    let img := pairsOf (sh.drop (sh.length - 16))
    firstBad 12 (
      fixed.flatMap (fun x => badWords x.1 (off x.1) x.2) ++
      badWords 0x10 (off 0x10) (sameWords (r.take 64) (r'.take 64)) ++
      badWords 0x11 (off 0x11 + 1) [fld (arb.getD 1 0) 62 32 == fld s.sh.glbArb 62 32] ++
      (if s.lock.lock then
        badWords 0x12 (off 0x12 + 5) [fld (en.getD 5 0) 6 0 == fld s.sh.epoch 6 0] ++
        badWords 0x12 (off 0x12 + 7) [fld (en.getD 7 0) 23 0 == fld s.sh.esafe 23 0] ++
        badWords 0x15 (off 0x15 + sh.length - 16 + 3) [((img.find? (·.1 == 0x70018)).map (·.2)) == some s.kn.wdt]
      else []))

/-- The checks of Table 12-8 in order on the plate of slot `b`. -/
def State.validate (s : State) (b : Bool) (op : Nat) (lenw : Option Nat) : Chk12 PlateMap := do
  let m ← checkTable s.kn b op lenw
  checkCrcs s.kn b m
  checkSig s.kn b m
  checkSections s b m
  checkRoutes s b m
  if op = 2 then checkReload s b s.kn.plate.infSlot m
  return m

end Sys2Proof.Machine
end

