-- ==== Sys2Proof/Machine/Writes.lean ====
section
/-! DEFINITION. What a value written to a register does, by software or by a plate (R258 to R265, R358 to R360, R376, R486 to
R490, R560). -/

namespace Sys2Proof.Machine

/-- The level of a pack's shaper in one slice after a write of PCK_SHAPE (R259), the refill due first (R258). `load`: the value comes from a
plate, and EN 1 sets the level to BURST (R360). -/
def Slice.shapeWrite (x : Slice) (g : Shared) (p : Nat) (old new : Pack) (forgive load : Bool) : Slice :=
  let x := x.refill g
  let b : Int := (16 * new.burst : Nat)
  let l := x.level p
  let floor := -4 * b
  let up := if l < floor then (floor - l).toNat else 0
  let l := if b < l then b else if l < floor then floor else l
  let l := if forgive && l < 0 then 0 else l
  let l := if (load || !old.shEn) && new.shEn then b else l
  { x with shape := tset 0 x.shape p l, adm := bump 7 x.adm up }

/-- The backoff exponent of port a kept between BKMIN and BKMAX (R244). -/
def Slice.clipExp (x : Slice) (g : Shared) (a : Nat) : Slice :=
  let p := g.port a
  let e := (x.port a).exp
  let e' := Nat.min (Nat.max e p.bkmin) p.bkmax
  if e' = e then x else x.updPort a fun q => { q with exp := e' }

/-- What a written value does to a slice's own registers and shapers; `now`: R8. Operations on its tables have none of this. -/
def Slice.takeReg (x : Slice) (g : Shared) (o : LateOp) : Slice :=
  match o with
  | .stnCtl v => { x with stnCtl := v }
  | .atmCtl v => { x with atmCtl := v }
  | .arb v => { x with arb := v }
  | .egrant v => { x with egrant := v, stale := 0, grantW := true, egrantAt := some g.now }
  | .shape p old new load => x.shapeWrite g p { shape := old } { shape := new } (new.getLsbD 62) load
  | .backoff a => x.clipExp g a
  | .killWatches _ | .drain _ => x

/-- A slice takes a written value now, or at the end of its replay (R560). -/
def Slice.take (x : Slice) (g : Shared) (o : LateOp) : Slice :=
  if x.replay then { x with late := x.late ++ [o] } else x.takeReg g o

/-- A slice whose replay has ended takes what was written meanwhile, in the order of writing (R432, R560). -/
def State.takeLate (s : State) (n : Nat) : State :=
  if (s.slice n).replay then s
  else
    let l := (s.slice n).late
    l.foldl (fun s o => match o with
      | .killWatches p => s.onSlice n fun w => w.killPackWatches s.sh p
      | .drain p => s.drainAt p n
      | o => s.updSlice n fun x => x.takeReg s.sh o) (s.updSlice n fun x => { x with late := [] })

/-- PCK_SHAPE of pack p takes value v, with FORGIVE in bit 62. -/
def State.shapePut (s : State) (p : Nat) (v : Word) (load : Bool := false) : State :=
  let g := s.sh
  let s := s.updSh fun g => g.updPack p fun k => { k with shape := v &&& ~~~(1#64 <<< 62) }
  s.mapSlices fun _ x => x.take g (.shape p (g.pack p).shape v load)

/-- PCK_RESV of pack p: a change kills the watches of its agents. -/
def State.resvPut (s : State) (p : Nat) (v : Word) : State :=
  let s := if (s.sh.pack p).resv = v then s
    else s.liveSlices.foldl (fun s n => s.whenReady n (.killWatches p) fun w => w.killPackWatches s.sh p) s
  s.updSh fun g => g.updPack p fun k => { k with resv := v }

/-- PCK_GATE of pack p: a rise of DRAIN discards the pack's barrier instances (R216, R263). -/
def State.gatePut (s : State) (p : Nat) (v : Word) : State :=
  let was := (s.sh.pack p).drain
  let s := s.updSh fun g => g.updPack p fun k => { k with gate := v }
  if !was && v.getLsbD 0 then s.drainBarriers p else s

/-- Events discarded where they wait when LDG_CTL.EN becomes 0 (R486). -/
def State.ldgDiscard (s : State) : State :=
  let n := (s.ctl.ldg.queues.map fun q => q.2.length).sum + (s.kn.evq.filter fun e => !e.recs.isEmpty).length
  let s := s.updLdg fun l => { l with queues := [], filt := l.filt + BitVec.ofNat 64 n }
  s.updKn fun k => { k with evq := (k.evq.filter fun e => e.bark.isSome).map fun e : KEvt => { e with recs := [] } }

/-- LDG_CTL. -/
def State.ldgCtlPut (s : State) (v : Word) : State :=
  let s := s.updLdg fun l => { l with ctl := v }
  (if v.getLsbD 0 then s else s.ldgDiscard).ldgPump

/-- LDG_RING: a change of BASE, RSIZE or REN waits for an empty ring (R486). -/
def State.ldgRingPut (s : State) (v : Word) : State :=
  (s.updLdg fun l => { l with pendRing := if v = l.ring then none else some v }).ldgPump

/-- Sources 64k + m of the bits of v withdrawn by software (R490). -/
def State.pendClear (s : State) (k : Nat) (v : Word) : State :=
  (List.range 64).foldl (fun s m => if v.getLsbD m && isSource (64 * k + m) then s.updBrk (·.withdrawBy s.sh.now true (64 * k + m)) else s) s

/-- What slice register r takes by a write of v, if it is one that can be written. -/
def SlcReg.late (r : SlcReg) (v : Word) : Option LateOp :=
  match r with
  | .stnCtl => some (.stnCtl v)
  | .atmCtl => some (.atmCtl v)
  | .arb => some (.arb v)
  | .egrant => some (.egrant v)
  | _ => none

/-- An SLC register of a physical slice takes value v; a slice that is not on keeps it in its save area (R310, R560). -/
def Slice.put (x : Slice) (g : Shared) (r : SlcReg) (v : Word) : Slice := match r.late v with | some o => x.take g o | none => x

/-- A PRT register of a port takes value v. -/
def Port.put (p : Port) (r : PrtReg) (v : Word) : Port :=
  match r with
  | .keyr => { p with keyr := v }
  | .leash => { p with leash := v }
  | .bar => { p with bar := v }
  | .stash => { p with stash := v }
  | .arb => { p with arb := v }
  | _ => p

/-- A register that no rule of its own governs takes value v, already reduced to the register's fields. -/
def State.plainPut (s : State) (r : Reg) (v : Word) : State :=
  match r with
  | .glbArb => s.updSh fun g => { g with glbArb := v }
  | .ecost0 => s.updSh fun g => { g with ecost0 := v }
  | .ecost1 => s.updSh fun g => { g with ecost1 := v }
  | .epoch => s.updSh fun g => { g with epoch := v }
  | .esafe => s.updSh fun g => { g with esafe := v }
  | .tmo => s.updSh fun g => { g with tmo := v }
  | .scrub => s.updSh fun g => { g with scrub := v }
  | .slc n r => s.updSlice n fun x => x.put s.sh r v
  | .prt a .arb =>
    let s := s.updSh fun g => g.updPort a fun p => p.put .arb v
    s.mapSlices fun _ x => x.take s.sh (.backoff a)
  | .prt a r => s.updSh fun g => g.updPort a fun p => p.put r v
  | .pck p .arb => s.updSh fun g => g.updPack p fun k => { k with arb := v }
  | .pck p .heel => s.updSh fun g => g.updPack p fun k => { k with heel := v }
  | .pck p .ord => s.updSh fun g => g.updPack p fun k => { k with ord := v }
  | .pck p .bar => s.updSh fun g => g.updPack p fun k => { k with bar := v }
  | .pck p (.winBase w) => s.updSh fun g => g.updPack p fun k => { k with wins := k.wins.modify w fun x => { x with base := v } }
  | .pck p (.winAttr w) => s.updSh fun g => g.updPack p fun k => { k with wins := k.wins.modify w fun x => { x with attr := v } }
  | .shdWdt => s.updKn fun k => { k with wdt := v }
  | .mbox i => s.updKn fun k => { k with mbox := k.mbox.set i v }
  | .vrcfg i => s.updKn fun k => { k with regs := k.regs.modify i fun x => { x with cfg := v } }
  | .dsrv => s.updKn fun k => { k with dsrv := v }
  | .dorm => s.updKn fun k => { k with dorm := v }
  | .pladdr => s.updPlate fun p => { p with addr := v }
  | .plroute => s.updPlate fun p => { p with route := v }
  | .jdesc i 0 => s.updBrn fun b => b.setJob i fun j => { j with d0 := v }
  | .jdesc i 1 => s.updBrn fun b => b.setJob i fun j => { j with d1 := v }
  | .jdesc i 2 => s.updBrn fun b => b.setJob i fun j => { j with d2 := v }
  | .jdesc i _ => s.updBrn fun b => b.setJob i fun j => { j with d3 := v }
  | .ldgUen 0 => s.updLdg fun l => { l with uen0 := v }
  | .ldgUen _ => s.updLdg fun l => { l with uen1 := v }
  | .ldgTen => s.updLdg fun l => { l with ten := v ||| 0x80 }
  | .ldgThr => s.updLdg fun l => { l with thr := v }
  | .ldgFlush => s.updLdg fun l => { l with flush := v }
  | .ldgPace => s.updLdg fun l => { l with pace := v }
  | .brkCtl => s.brkPut fun b => { b with ctl := v }
  | .brkMod => s.brkPut fun b => { b with mod := v }
  | .brkPri i => s.brkPut fun b => { b with pri := b.pri.set i v }
  | .brkRoute i => s.brkPut fun b => { b with route := b.route.set i v }
  | .brkTgt t => s.brkPut fun b => { b with tgt := b.tgt.set t v }
  | .brkEn k => s.brkPut fun b => { b with en := b.en.set k (v &&& (Reg.brkEn k).wmask) }
  | .frzPcfg => s.updFrz fun f => { f with pcfg := v }
  | _ => s

/-- SHD_CTL: PMSPD, and HALT at the next instruction boundary, which is the end of the WAIT or REG under way (Table 10-13); the watchdog
stands while halted (R281). -/
def State.shdCtlPut (s : State) (v : Word) : State :=
  let s := s.updKn fun k => { k with ctl := v &&& ones 1 8 }
  let now := s.sh.now
  if v.getLsbD 0 then s.updSheep fun h =>
    if h.halted then h
    else if h.wait.isSome || h.regWait.isSome then h.setHalt true
    else h.halt now
  else s.updSheep fun h => if h.halted then { h with halted := false, wdtAt := h.wdtAt + (now - h.haltAt) } else h.setHalt false

/-- A write of SHD_MBOX[i] by software also sets the latch of WAIT bit 2 (R276, Table 10-17). -/
def State.mboxLatch (s : State) : State := s.updSheep fun h => { h with latch := h.latch ||| 4 }

/-- Register r takes the whole value v, of which only the register's own bits count; the bits of W1C, W1S and WO fields act where
they are 1. -/
def State.regPut (s : State) (r : Reg) (v : Word) : State :=
  let v := v &&& (r.wmask ||| r.pmask)
  match r with
  | .glbLock => if v.getLsbD 0 then { s with lock := { lock := true } } else s
  | .pck p .gate => s.gatePut p v
  | .pck p .resv => s.resvPut p v
  | .pck p .shape => s.shapePut p v
  | .shdCtl => s.shdCtlPut v
  | .ldgCtl => s.ldgCtlPut v
  | .ldgRing => s.ldgRingPut v
  | .ldgStat => if v.getLsbD 62 && s.ctl.ldg.ovrAt != some s.sh.now then s.updLdg fun l => { l with ovr := false } else s
  | .brkPend k => s.pendClear k v
  | r => s.plainPut r v

/-- The value of a register's writable and loadable fields as they stand. -/
def State.regStored (s : State) (r : Reg) : Word :=
  match r with
  | .glbLock | .ldgStat | .brkPend _ => 0
  | r => s.regRead r &&& (r.wmask ||| r.pmask)

/-- Loading a pair of a register image: the fields with Reset entry P take the value's bits (R360). -/
def State.loadReg (s : State) (r : Reg) (v : Word) : State :=
  let v := (s.regStored r &&& ~~~r.pmask) ||| (v &&& r.pmask)
  match r with
  | .pck p .shape => s.shapePut p (v &&& (r.wmask ||| r.pmask)) true
  | .slc n .arb => (s.regPut r v).updSlice n fun x => { x with arbP := v }
  | r => s.regPut r v

/-- Loading one pair by its first word; a broadcast one loads the register in every SLC block (R358). -/
def State.loadPair (s : State) (x : Nat × Word) : State :=
  if 2 ^ 63 ≤ x.1 then
    match slcRegAt (x.1 - 2 ^ 63) with
    | some r => (List.range 66).foldl (fun s n => s.loadReg (.slc n r) x.2) s
    | none => s
  else match regAt x.1 with
    | some r => s.loadReg r x.2
    | none => s

/-- A register image loaded. -/
def State.loadImage (s : State) (ps : List (Nat × Word)) : State := ps.foldl State.loadPair s

end Sys2Proof.Machine
end

