-- ==== Sys2Proof/Machine/PlateApply.lean ====
section
/-! DEFINITION. What a valid plate does when it is applied, and the plate commands (R343 to R380, R397 to R405). -/

namespace Sys2Proof.Machine


/-! ### Repairs of the fuse map and the overlay (R397, R402 to R405) -/

/-- A repair entry's slice, bank, row and spare, when its fields are those of R404. -/
def repairEntry (w : Word) : Option (Nat × Nat × Nat × Nat) :=
  let bank := fld w 52 48
  if w.getLsbD 63 && within w (ones 8 56 ||| ones 5 48 ||| ones 5 40 ||| ones 12 0) && decide (fld w 62 56 < 66) &&
      decide (bank < 30) && decide (fld w 11 0 < bankRows bank) then
    some (fld w 62 56, bank, fld w 11 0, fld w 44 40)
  else none

/-- The repair list of the fuse map up to its first blank word, whose entries name spares 0 to 15 (R397, R404). -/
def Kennel.fuseRepairs (k : Kennel) : List (Nat × Nat × Nat × Nat) :=
  ((((List.range 4032).map fun i => k.fuseWord (64 + i)).takeWhile (· != 0)).filterMap repairEntry).filter fun e => decide (e.2.2.2 < 16)

/-- The word index of the overlay entry for spare 16 + j of bank b of slice n (R405). -/
def overlayIdx (n b j : Nat) : Nat := 0x420000 / 8 + 64 + 4 * (30 * n + b) + j

/-- The overlay entries, each with what its word holds: assigned, or to be rewritten as zero. -/
def Kennel.overlay (k : Kennel) : List ((Nat × Nat × Nat × Nat) ⊕ PWord) :=
  (List.range 66).flatMap fun n => (List.range 30).flatMap fun b => (List.range 4).filterMap fun j =>
    let r := k.storeRead (overlayIdx n b j)
    let clear : PWord := { idx := overlayIdx n b j, data := 0, why := .overlay n b 0 (16 + j) }
    if !r.1.usable then some (.inr clear)
    else if r.2 = 0 then none
    else match repairEntry r.2 with
      | some e => if e.1 = n ∧ e.2.1 = b ∧ e.2.2.2 = 16 + j then some (.inl e) else some (.inr clear)
      | none => some (.inr clear)

/-- The repair table of slice n, the latest entry first: the fuse map, then the overlay in the order of its spares (R397, R399). -/
def repairsOf (es : List (Nat × Nat × Nat × Nat)) (n : Nat) : List (Nat × Nat × Nat) := ((es.filter (·.1 == n)).map (·.2)).reverse

/-- The index of the word of the Kennel store that a listed place holds (R299). -/
def Kennel.logicalAt (k : Kennel) (p : Nat) : Option Nat :=
  if p < 0x700000 / 8 then (if k.storeAt p = p then some p else none)
  else (k.remap.find? fun r => 0x700000 / 8 + 512 * r.2 ≤ p ∧ p < 0x700000 / 8 + 512 * r.2 + 512).bind fun r =>
    let i := 512 * r.1 + p % 512
    if k.storeAt i = p then some i else none

/-- Words `lo` to `lo + n` − 1 of the Kennel store are used: those that need correction count in SHD_STAT.CORR (R392; log entry 89). -/
def State.storeUsed (s : State) (lo n : Nat) : State :=
  let c := (s.kn.store.filter fun x =>
    (KMem.readC s.kn.store x.1).1 == .corrected && (s.kn.logicalAt x.1).any fun i => decide (lo ≤ i) && decide (i < lo + n)).length
  s.updSheep fun h => { h with corr := satAdd h.corr c }

/-- The words of the plate in slot b are used. -/
def State.plateUsed (s : State) (b : Bool) : State := s.storeUsed (slotBase b) (fld (s.kn.storeRead (slotBase b + 2)).2 51 32)

/-! ### Applying a plate -/

/-- A program store of PLEN instructions, the rest zero (R362). -/
def progOf (ws : List Word) : List (Nat × PIns) :=
  (((List.range (fld (ws.getD 0 0) 12 0)).map fun i =>
    let c := sheepIns ws i
    (i, ({ code := c, par := parity64 (c.setWidth 64) } : PIns))).filter fun x => x.2 != {})

/-- The data image of SHEEP. -/
def imageOf (ws : List Word) : List (Nat × Word) :=
  let o := 1 + 9 * ((fld (ws.getD 0 0) 12 0 + 15) / 16)
  (((ws.drop o).take (fld (ws.getD 0 0) 27 16)).zipIdx.map fun x => (x.2, x.1)).filter fun x => x.2 != 0

/-- SHEEP: both program copies, data memory and the register image (R362). -/
def State.applySheep (s : State) (ws : List Word) : State :=
  let p := progOf ws
  let img := imageOf ws
  let s := s.updSheep fun h => { h with
    prog0 := p, prog1 := p, image := img, dmem := img.foldl (fun m x => KMem.writeD m x.1 x.2) [] }
  s.loadImage (pairsOf (ws.drop (ws.length - 16)))

/-- The operational sections, the interleave map apart: routes, then the images in table order, then SHEEP (R370, R375). -/
def State.applyOps (s : State) (b : Bool) (m : PlateMap) : State :=
  let k := s.kn
  let routes := ((m.words k b 0x10).drop 64).zipIdx.filterMap fun x => if x.1 = 0 then none else some (x.2, x.1)
  let s := s.updCtl fun c => { c with routes := routes }
  let order := (m.secs.map (·.typ)).filter fun t => [0x11, 0x12, 0x13, 0x14, 0x16, 0x17, 0x18].contains t
  let s := order.foldl (fun s t => s.loadImage (pairsOf (m.words k b t))) s
  s.applySheep (m.words k b 0x15)

/-- The plate becomes the plate in force (R345); when its FLOOR exceeds the stored floor, the floor record is written (R346). -/
def State.inForce (s : State) (b : Bool) (m : PlateMap) : State :=
  let w1 := plWordD s.kn b 0 1
  let _ := m
  let f : BitVec 32 := BitVec.ofNat 32 (fld w1 31 0)
  let s := s.updPlate fun p => { p with inf := true, infSlot := b, state := BitVec.ofNat 32 (fld w1 63 32) }
  if s.kn.plate.floor.toNat < f.toNat && !s.kn.prog.any (fun p => p.why == .floorRec f) then
    s.updKn fun k => k.identWrite s.sh.now 1 (.floorRec f) (f.setWidth 64)
  else s

/-- The structural sections: ISLAND with the substitution record's map in its place when there is one, HASH with its inverse, SPLIT,
AGENT, and the interleave map (R351 to R356). -/
def State.applyStruct (s : State) (b : Bool) (m : PlateMap) : State :=
  let k := s.kn
  let map := k.substRec.getD (islandMap s (m.words k b 1))
  let rows := hashRows (m.words k b 2)
  let split := m.words k b 3
  let agents := m.words k b 4
  let es := k.fuseRepairs ++ k.overlay.filterMap fun x => match x with | .inl e => some e | .inr _ => none
  let redo := k.overlay.filterMap fun x => match x with | .inr p => some p | .inl _ => none
  let w := split.getD 0 0
  let s := s.updSh fun g => { g with
    lsmap := map, hash := rows, hinv := (invGF2 rows).getD [], dirw := fld w 4 0, stnw := fld w 9 8, scrw := fld w 12 10
    scrBase := (split.getD 1 0).setWidth 42, regions := regionsOf (m.words k b 0x10)
    ports := g.ports.mapIdx fun a p =>
      let x := agents.getD a 0
      { p with cfg := x &&& (ones 2 0 ||| ones 10 4), keyr := x >>> 32 } }
  let s := s.mapSlices fun n x =>
    { x with active := map.contains n, logical := map.idxOf n % 64, repair := repairsOf es n }
  let s := (s.updKn fun k => { k with prog := k.prog ++ redo, save := [] }).storeUsed (overlayIdx 0 0 0) (4 * 30 * 66)
  s.updRcv fun r => { r with spares := BitVec.ofNat 2 s.spares.length }

/-- The revoke fuses of REVOKE are burnt (R367, R403). -/
def State.burnRevoke (s : State) (b : Bool) (m : PlateMap) : State :=
  let r := fld ((m.words s.kn b 0x3F).getD 0 0) 7 4
  let burn := fun (f : List (Nat × W72)) (i : Nat) => tset (⟨0, 0⟩ : W72) f i (encode72 (ones 64 0) 0)
  s.updKn fun k => { k with fuse := ((List.range 4).filter fun j => r.testBit j).foldl (fun f j => burn (burn f (32 + j)) (4128 + j)) k.fuse }

/-- The calibration overwrite that a plate with CALIB asks for after credit wave 7, unless its image equals the set in use or a pending
one by CRC and length (R364). -/
def State.calDue (s : State) (b : Bool) (m : PlateMap) : State :=
  let img := (m.words s.kn b 0x20).drop 1
  let crc : BitVec 32 := (img.getD 1 0).setWidth 32
  if img.isEmpty || (!s.kn.cal.romdef && crc == s.kn.cal.crc) || (s.kn.cal.pend && crc == s.kn.cal.pendCrc) then s
  else s.updKn fun k => { k with cal := { k.cal with due := img } }

/-- PLATE_APPLY: step 7 of Table 11-10, on the plate of slot b; the wave of VDD_S0 starts. The Sheepdog's program is loaded and not
started. -/
def State.applyPlate (s : State) (b fallback : Bool) (m : PlateMap) : State :=
  let w4 := plWordD s.kn b 0 4
  let s := s.applyStruct b m
  let s := s.applyOps b m
  let s := s.updSheep fun h => { h with runState := 0, wait := none }
  let s := (((s.inForce b m).burnRevoke b m).calDue b m)
  let s := s.mapSlices fun _ x => { x with egrant := put (fld s.sh.esafe 23 0) 0 }
  let s := s.updMs fun x => { x with
    step := 5, phase := 4, chg := true, selftest := w4.getLsbD 0, slot := fallback, rails := []
    plt := BitVec.ofNat 24 ((s.sh.now - x.startAt) / 1000) }
  s.wave 0

/-! ### Results and records -/

/-- The result of a validation in KNL_PLSTAT and KNL_PLINFO (R368). -/
def PlateSt.result {α : Type} (p : PlateSt) (r : Chk12 α) : PlateSt :=
  match r with
  | .ok _ => { p with vcode := 0, stype := 0, fcode := 0 }
  | .error (v, t, w) => { p with vcode := BitVec.ofNat 8 v, stype := BitVec.ofNat 8 t, fword := BitVec.ofNat 18 w, fcode := 0 }

/-- The data word of a plate record (Ledger TYPE 0x08, SUB 0x03). -/
def PlateSt.record (p : PlateSt) (slot fallback : Bool) : Word :=
  put p.lastop.toNat 0 ||| put p.vcode.toNat 8 ||| put p.stype.toNat 16 ||| put p.fcode.toNat 24 ||| putB slot 28 ||| putB fallback 29 |||
    put p.fword.toNat 32

/-- A Ledger record of the plate unit's last result, and the plate Bark source. -/
def State.plateNote (s : State) (slot fallback : Bool) : State :=
  s.knlEvent 8 3 [s.kn.plate.record slot fallback] 852

/-- A plate command ends: BUSY clears, and it is recorded (R371, R375); failed slices that waited for a RELOAD follow (R316). -/
def State.plateEnd (s : State) (slot : Bool) : State :=
  ((s.updPlate fun p => { p with run := none }).plateNote slot false).takeFailed

/-! ### Start-up (R369, R335) -/

/-- Start-up's validation of a slot ends, with the control island on: the current slot first, then the fallback slot. The records and
the source of a fallback follow the plate's application, which sets the Ledger's filters. -/
def State.plateVerifyDone (s : State) : State :=
  if s.sh.mode == .engrave && s.ctl.ms.step == 4 && s.ctl.on then
    let cur := s.kn.plate.cur
    match s.kn.plate.first with
    | none =>
      let r := s.validate cur 0 none
      let s := (s.plateUsed cur).updPlate fun p => { p.result r with lastop := 0 }
      match r with
      | .ok m => s.applyPlate cur false m
      | .error e => s.updPlate fun p => { p with first := some e }
    | some (v, t, w) =>
      let note := ({ s.kn.plate with lastop := 0, fcode := 0, vcode := BitVec.ofNat 8 v, stype := BitVec.ofNat 8 t, fword := BitVec.ofNat 18 w } : PlateSt).record cur true
      let r := s.validate (!cur) 0 none
      let s := (s.plateUsed (!cur)).updPlate fun p => { p.result r with lastop := 0, first := none, fbv := match r with | .ok _ => true | .error _ => false }
      match r with
      | .ok m => (((s.kst 6 [note]).applyPlate (!cur) true m).knlEvent 8 3 [note] 852)
      | .error _ => (s.updMs fun x => { x with step := 21, phase := 7 }).bark 852
  else s

/-! ### INSTALL (R371 to R374) -/

/-- Start-up waits in PHASE 7 for a plate (R335). -/
def State.noPlate (s : State) : Bool := s.sh.mode == .engrave && s.ctl.ms.step == 21

/-- KNL_PLSTAT.BUSY. -/
def PlateSt.busy (p : PlateSt) : Bool := match p.run with | some o => o.op != 0 | none => false

/-- The words of an INSTALL that are still to be programmed are dropped, its slot record among them. -/
def Kennel.dropInstall (k : Kennel) : Kennel :=
  let k := [false, true].foldl (fun k b => if k.prog.any (fun p => p.why == .slotRec b) then k.identLost 0 (.slotRec b) else k) k
  { k with prog := k.prog.filter fun p => p.why != .plate }

/-- INSTALL ends with a fetch fault code (R374). -/
def State.fetchFail (s : State) (code : Nat) : State :=
  let slot := match s.kn.plate.run with | some o => o.slot | none => false
  let s := s.updPlate fun p => { p with fcode := BitVec.ofNat 4 code, vcode := 0, stype := 0 }
  (s.updKn Kennel.dropInstall).plateEnd slot

/-- INSTALL ends with a validation code. -/
def State.installFail {α : Type} (s : State) (r : Chk12 α) : State :=
  let slot := match s.kn.plate.run with | some o => o.slot | none => false
  let s := s.updPlate fun p => p.result r
  (s.updKn Kennel.dropInstall).plateEnd slot

/-- TXIDs of the Kennel in use: DORMANT trackers and plate fetches (R372). -/
def Kennel.txids (k : Kennel) : List Nat :=
  k.trk.map (·.no) ++ (match k.plate.run with | some o => o.out.map (·.txid) | none => [])

/-- The line address of line i of the plate in host memory. -/
def plateLine (p : PlateSt) (i : Nat) : Line := BitVec.ofNat 42 (fld p.addr 47 6 + i)

/-- The target and the route of a plate line: by the plate in force, or by KNL_PLADDR.TGT and KNL_PLROUTE (R372). -/
def State.plateTarget (s : State) (i : Nat) : Option (Nat × Word) :=
  let p := s.kn.plate
  if p.inf then (s.sh.target (plateLine p i)).map fun t => (t, s.routeTo 66 (memNode t))
  else if routeOk p.route then some (fld p.addr 52 48, p.route) else none

/-- The MemRd of line i sent under a TXID. -/
def State.plateSend (s : State) (i tx : Nat) : Option State :=
  (s.plateTarget i).map fun (t, route) =>
    s.sendBy 66 route
      { cls := clsReq, cmd := 0x10, src := BitVec.ofNat 10 kennelNode, dst := BitVec.ofNat 10 (memNode t), txid := BitVec.ofNat 12 tx,
        pack := 0, line := plateLine s.kn.plate i, f := fPut kennelNode 1, units := [] }

/-- The lines that an INSTALL fetches: the header line until LENW is known. -/
def PlateOp.lines (o : PlateOp) : Nat := match o.lenw with | some n => (n + 7) / 8 | none => 1

/-- Lines fetched in ascending order while fewer than 16 are outstanding and a TXID is free (R371 step 1). -/
def State.plateIssue (s : State) : State :=
  (List.range 16).foldl (fun s _ =>
    match s.kn.plate.run with
    | none => s
    | some o =>
      if o.op ≠ 1 ∨ o.lines ≤ o.next ∨ 16 ≤ o.out.length then s
      else match pick s.kn.fv (freeNos 0 64 s.kn.txids) with
        | none => s
        | some tx =>
          match s.plateSend o.next tx with
          | none => s.fetchFail 3
          | some s => (s.updKn fun k => { k with fv := k.fv + 1 }).updPlate fun p => { p with
              run := some { o with next := o.next + 1, out := o.out ++ [{ line := o.next, txid := tx, at_ := s.sh.now }] } }) s

/-- A write of INSTALL to KNL_PLCMD. -/
def State.install (s : State) (confirm : Nat) : CmdRes :=
  let p := s.kn.plate
  if p.busy || !(s.sh.mode == .run || s.sh.mode == .drain || s.sh.mode == .dormant || s.noPlate) then .error 8
  else if confirm ≠ 0x5A then .error 9
  else
    let slot := if p.inf then !p.infSlot else p.cur
    .ok (s.updPlate fun p => { p with lastop := 1, run := some { op := 1, slot := slot, at_ := s.sh.now } }).plateIssue

/-- A fetched line is whole: its words go to the slot, or INSTALL ends (R371 step 2, R374). -/
def State.lineWhole (s : State) (o : PlateOp) (f : Fetch) (us : List Unit128) : State :=
  let s := s.updPlate fun p => { p with run := some { o with out := o.out.filter (·.line != f.line) } }
  if f.poison then s.fetchFail 1
  else
    let ws := wordsOfUnits us
    let n := fld (ws.getD 2 0) 51 32
    if f.line = 0 ∧ (n < 64 ∨ 262144 < n) then s.fetchFail 5
    else
      let s := if f.line = 0 then s.updPlate fun p => { p with run := p.run.map fun o => { o with lenw := some n } } else s
      let lenw := match s.kn.plate.run with | some o => o.lenw.getD 0 | none => 0
      let new : List PWord := (ws.zipIdx.filter fun x => decide (8 * f.line + x.2 < lenw)).map fun x =>
        { idx := slotBase o.slot + 8 * f.line + x.2, data := x.1, why := .plate }
      (s.updKn fun k => { k with prog := k.prog ++ new }).plateIssue

/-- A fetch changed, and handled once its data and its MemRsp are both in. -/
def State.fetchPut (s : State) (o : PlateOp) (f : Fetch) : State :=
  match f.data, f.rsp with
  | some us, true => s.lineWhole o f us
  | _, _ => s.updPlate fun p => { p with run := some { o with out := o.out.map fun x => if x.line == f.line then f else x } }

/-- A DataFromMem or MemRsp of a plate line; false when it matches no fetch. -/
def State.plateData (s : State) (m : Msg) : State × Bool :=
  match s.kn.plate.run with
  | none => (s, false)
  | some o =>
    match o.out.find? (fun f => f.txid == m.txid.toNat) with
    | none => (s, false)
    | some f =>
      let poison := f.poison || m.f.getLsbD 17
      if m.cls = clsDat then
        if f.data.isSome then (s, false) else (s.fetchPut o { f with data := some m.units, poison := poison }, true)
      else if f.rsp then (s, false) else (s.fetchPut o { f with rsp := true, poison := poison }, true)

/-- A line is retried once, under the same TXID; a second failure ends INSTALL with `code`, and a poisoned answer with POISON, which is
never retried (R374). -/
def State.plateRetry (s : State) (o : PlateOp) (f : Fetch) (code : Nat) : State :=
  if f.poison then s.fetchFail 1
  else if f.tries = 0 then
    match s.plateSend f.line f.txid with
    | none => s.fetchFail 3
    | some s => s.updPlate fun p => { p with run := some { o with out := o.out.map fun x =>
        if x.line == f.line then { line := f.line, txid := f.txid, at_ := s.sh.now, tries := 1 } else x } }
  else s.fetchFail code

/-- PLATE_FETCH_TIMEOUT of the fetch under TXID `tx`, 1 ms after its MemRd. -/
def State.plateTimeout (s : State) (tx : Nat) : State :=
  match s.kn.plate.run with
  | none => s
  | some o =>
    match o.out.find? (fun f => f.txid == tx && decide (f.at_ + 1000000 ≤ s.sh.now)) with
    | none => s
    | some f => s.plateRetry o f 2

/-- PLATE_SLOT_WRITTEN: every word is programmed; the plate is validated, and the slot record that makes its slot current is written (R371
steps 3 and 4). -/
def State.plateWritten (s : State) : State :=
  match s.kn.plate.run with
  | none => s
  | some o =>
    if o.op ≠ 1 ∨ o.lenw.isNone ∨ o.next < o.lines ∨ !o.out.isEmpty ∨ s.kn.prog.any (fun p => p.why.ofPlate) then s
    else
      let r := s.validate o.slot 1 o.lenw
      let s := s.plateUsed o.slot
      match r with
      | .error _ => s.installFail r
      | .ok _ => (s.updPlate fun p => p.result r).updKn fun k => k.identWrite s.sh.now 0 (.slotRec o.slot) (putB o.slot 0)

/-- The slot record is programmed: its slot is current, and INSTALL ends (R371 step 5). In PHASE 7 start-up goes on from step 7, and the
record of INSTALL follows the plate's application. -/
def State.plateCurrent (s : State) (b : Bool) : State :=
  let s := s.updPlate fun p => { p with cur := b }
  match s.kn.plate.run with
  | none => s
  | some o =>
    if o.op ≠ 1 then s
    else if s.noPlate then
      match s.validate b 1 o.lenw with
      | .ok m => ((s.updPlate fun p => { p with run := none }).applyPlate b false m).plateNote b false
      | .error _ => s.plateEnd b
    else s.plateEnd b

/-! ### RELOAD and CHECK (R375 to R379) -/

/-- A write of RELOAD to KNL_PLCMD. -/
def State.reload (s : State) (confirm : Nat) : CmdRes :=
  if s.kn.plate.busy || !s.drained || s.ctl.ms.chg || s.ctl.brn.busy || (List.range 16).any (fun p => (s.sh.pack p).fenceBusy) then .error 8
  else if confirm ≠ 0 then .error 9
  else .ok (s.updPlate fun p => { p with lastop := 2, run := some { op := 2, slot := p.cur, at_ := s.sh.now } })

/-- RELOAD_DONE: the current slot is validated; when it passes, its operational sections are applied and the Sheepdog restarts with its
fault history cleared. -/
def State.reloadDone (s : State) : State :=
  match s.kn.plate.run with
  | none => s
  | some o =>
    if o.op ≠ 2 then s
    else
      let r := s.validate o.slot 2 none
      let s := (s.plateUsed o.slot).updPlate fun p => p.result r
      match r with
      | .error _ => s.plateEnd o.slot
      | .ok m =>
        let s := (s.applyOps o.slot m).inForce o.slot m
        ((s.updSheep fun h => { h with hist := [] }).startSheep 1).plateEnd o.slot

/-- A register that RELOAD loads (R377). -/
def Reg.reloaded (r : Reg) : Bool :=
  r.pmask != 0 && (match r with | .prt _ .keyr | .scrBase => false | _ => true)

/-- A write of CHECK to KNL_PLCMD. -/
def State.checkCmd (s : State) (confirm : Nat) : CmdRes :=
  if s.kn.plate.busy || s.sh.mode == .freeze then .error 8
  else if confirm ≠ 0 then .error 9
  else .ok (s.updPlate fun p => { p with lastop := 3, run := some { op := 3, slot := p.cur, at_ := s.sh.now } })

/-- PLATE_CHECK_DONE: the results of both slots (R379); FCODE stays. -/
def State.checkDone (s : State) : State :=
  match s.kn.plate.run with
  | none => s
  | some o =>
    if o.op ≠ 3 then s
    else
      let r := s.validate s.kn.plate.cur 3 none
      let f := s.validate (!s.kn.plate.cur) 3 none
      ((s.plateUsed s.kn.plate.cur).plateUsed (!s.kn.plate.cur)).updPlate fun p =>
        { p.result r with run := none, fcode := p.fcode, fbv := match f with | .ok _ => true | .error _ => false }

/-- A write of KNL_PLCMD (Table 12-17). -/
def State.plCmd (s : State) (v : Word) : CmdRes :=
  match fld v 7 0 with
  | 1 => s.install (fld v 15 8)
  | 2 => s.reload (fld v 15 8)
  | 3 => s.checkCmd (fld v 15 8)
  | _ => .error 9

end Sys2Proof.Machine
end

