-- ==== Sys2Proof/Machine/KennelNet.lean ====
section
/-! DEFINITION. The network interfaces of the Kennel and of the control island (R531 to R536, R550, R551), DORMANT service (R290 to
R295, R328) and the Ledger's ring accesses (R480, R481). Interface 66 is the Kennel's and 67 the control island's. -/

namespace Sys2Proof.Machine

/-! ### Counts, records, Resends -/

/-- KNL_NET_CNT[j] or GLB_NET_CNT[j] (Table 18-14). -/
def State.netCnt (s : State) (i j : Nat) (k : Nat := 1) : State :=
  if i = 66 then s.updKn fun x => { x with netc := bump j x.netc k } else s.updCtl fun x => { x with netc := bump j x.netc k }

/-- A record of TYPE 0x02 by unit 68, or 71 for the control island's interface; it raises source 859 (R551). -/
def State.netRec (s : State) (i sub : Nat) (data : List Word) : State :=
  if i = 66 then s.knlEvent 2 sub data 859 else (s.ledgerEv 71 2 sub data).bark 859

/-- The packets that an interface awaits under a Resend. -/
def State.rsends (s : State) (i : Nat) : List ResendWait := if i = 66 then s.kn.rsends else s.ctl.rsends

/-- The packets that an interface awaits under a Resend, set. -/
def State.setRsends (s : State) (i : Nat) (l : List ResendWait) : State :=
  if i = 66 then s.updKn fun k => { k with rsends := l } else s.updCtl fun c => { c with rsends := l }

/-- An unexpected response (R159), or a later copy under R535. -/
def State.netUnexpected (s : State) (i : Nat) (m : Msg) : State :=
  match rsLater (s.rsends i) m with
  | some l => (s.netCnt i 6).setRsends i l
  | none => (s.netCnt i 6).netRec i 7 [recMsgWord m 0 0 0 0, put m.line.toNat 0]

/-! ### The Kennel's answers -/

/-- The Kennel's answer to a request: CMD, further fields. -/
def knlRsp (r : Req) (cmd : BitVec 5) (f : BitVec 28) (units : List Unit128 := []) : Msg := rspTo (kennelNode - 512) r cmd f units

/-- A credit of the Kennel returned (R522, R524). -/
def State.knlCredit (s : State) (ctl : Bool) (a : Nat) : State :=
  let p : PortAdm := tget {} s.kn.prt a
  let p := if ctl then { p with ctlTok := p.ctlTok + 1 } else { p with reqTok := p.reqTok + 1 }
  (s.updKn fun k => { k with prt := tset {} k.prt a p }).token ctl kennelNode a (if ctl then p.ctlTok else p.reqTok)

/-- The credit that a request spent, returned. -/
def State.knlFree (s : State) (r : Req) : State := s.knlCredit (r.kind = .barrier || r.kind = .cancel) r.port

/-- An Error of the Kennel, its credit returned. -/
def State.knlError (s : State) (r : Req) (code : Nat) (quiet : Bool := false) : State :=
  (s.send 66 (knlRsp r 7 (fPut code 0 ||| (if quiet then fPut 1 8 else 0)))).knlFree r

/-- An Error answer to a message that is not taken as a request. -/
def State.knlErrorM (s : State) (m : Msg) (code : Nat) : State :=
  (s.send 66 (knlRsp (reqOfAny m) 7 (fPut code 0))).knlCredit (m.cmd = 14 || m.cmd = 15) m.src.toNat

/-- A Retry of the Kennel, its credit returned. -/
def State.knlRetry (s : State) (r : Req) (backoff : Nat) : State := (s.send 66 (knlRsp r 5 (fPut backoff 0))).knlFree r

/-! ### A packet at one of these interfaces -/

/-- The checks of Table 18-4 at interface i, with their counts, records and answers; a message that passes them, and whether all of its
units are present. -/
def State.netPkt (s : State) (i : Nat) (p : Pkt) : State × Option (Msg × Bool) :=
  let g := s.sh
  let corr := netCorrected p
  let s := if corr = 0 then s else s.netCnt i 0 corr
  let res := if i = 66 then netCheck g .kennel kennelNode p else netCheck g .ctl ctlNode p
  let s := if w1Ignored p res then s.netCnt i 2 else s
  match res with
  | .badHeader w0 syn => ((s.netCnt i 1).netRec i 2 [w0, put syn 0], none)
  | .misdelivered w0 => ((s.netCnt i 5).netRec i 6 [w0], none)
  | .malformed m w0 w1 =>
    let s := (s.netCnt i 4).netRec i 5 [w0, w1]
    (if m.cls = clsReq ∧ i = 66 ∧ m.src.toNat < 512 ∧ !(g.port m.src.toNat).absent then s.knlErrorM m 0x1E else s, none)
  | .absent m =>
    ((s.netCnt i 4).ledgerEv (if i = 66 then 68 else 71) 1 1 [put m.line.toNat 0 ||| put m.src.toNat 42 ||| put m.cmd.toNat 51], none)
  | .unitFail m u j syn =>
    if m.cls = clsReq then
      let s := (s.netCnt i 2).netRec i 3 [recMsgWord m u j syn 1]
      (if m.cmd = 15 then s.knlCredit true m.src.toNat else s.knlErrorM m 0x1D, none)
    else if m.cls = clsRsp ∧ m.cmd = 8 then ((s.netCnt i 2).netRec i 3 [recMsgWord m u j syn 0], none)
    else
      let s := (s.netCnt i 2).netRec i 3 [recMsgWord m u j syn 0]
      let (go, l) := rsFail (s.rsends i) m g.now u j syn
      (((if go then s.send i (resendFor m) else s).setRsends i l), none)
  | .incomplete m => (s, some (m, false))
  | .ok m => (s, some (m, true))

/-- A Resend received (R534): counted, and the newest matching copy sent again. -/
def State.netResend (s : State) (i : Nat) (m : Msg) : State :=
  let s := s.netCnt i 7
  match resendCopy (if i = 66 then s.kn.copies else s.ctl.copies) m with
  | some c => s.sendBy i (c.route.setWidth 64) c
  | none => s

/-! ### DORMANT service -/

/-- What the window and key checks of R42 say of a request. -/
def Shared.knlCheck (g : Shared) (r : Req) : Chk :=
  let p := g.port r.port
  let (nr, nw) := needs r.kind
  if nr || nw then
    match g.window r.pack.toNat r.line with
    | none => .window 0x12 0 0 true
    | some (i, x) => if (!nr || p.rd x.key) && (!nw || p.wr x.key) then .pass else .window 0x13 x.key i false
  else .pass

/-- The answer to a request refused by R42 (Table 2-9). -/
def State.knlRefuse (s : State) (r : Req) (code key win : Nat) (nowin : Bool) : State :=
  let deny := fun (s : State) (i : Nat) => s.updSh fun g => g.updPack r.pack.toNat fun x => { x with deny := bump i x.deny }
  match r.intent with
  | 0 =>
    let s := s.knlEvent 1 code [reqWord r ||| put key 56 ||| put win 60 ||| putB nowin 63] (768 + r.pack.toNat)
    deny (s.knlError r code) 0
  | 1 => deny (s.knlError r code true) 1
  | _ => deny ((s.send 66 (knlRsp r 4 (fPut 1 0))).knlFree r) 2

/-- A wake of the home slice: WAIT event 1, counted, and a Retry carrying WKBK (Table 10-10). The ROM safe program, when it runs, requests
the wake itself (R282). -/
def State.knlWake (s : State) (r : Req) : State :=
  let s := s.updKn fun k => { k with wakes := satInc k.wakes }
  let s := s.updSheep fun h => { h with latch := h.latch ||| 2 }
  let s := s.knlRetry r (fld s.kn.dsrv 3 0)
  if s.kn.sheep.runState == 2 && !s.kn.sheep.halted then s.wantRun.getD s else s

/-- A tracker's memory request (R294): a read with DTR 1 to the requester, or a write. -/
def KTrk.memMsg (t : KTrk) (tgt : Nat) : Msg :=
  let n := kennelNode - 512
  if t.req.kind = .rdOnce then memRd n tgt t.no t.req.pack t.req.line true t.req.port t.req.txid 0 t.req.crit
  else memWr n tgt t.no t.req.pack t.req.line (if t.req.kind = .wrPartial then t.req.be else beAll) t.req.data t.req.poison

/-- Waiting trackers whose line has no earlier tracker left send their memory requests (R294). -/
def State.knlSend (s : State) : State :=
  s.kn.trk.foldl (fun s t =>
    if t.sent || s.kn.trk.any (fun x => decide (x.seq < t.seq) && x.req.line == t.req.line) then s
    else (s.send 66 t.msg).updKn fun k => { k with trk := k.trk.map fun x : KTrk => if x.no == t.no then { x with sent := true, at_ := s.sh.now } else x }) s

/-- A request served from memory (R294). -/
def State.knlServe (s : State) (r : Req) : State :=
  match s.sh.target r.line with
  | none => (s.ledgerEv 68 1 0x14 [reqWord r]).knlError r 0x14
  | some tgt =>
    match pick s.kn.fv (freeNos 0 64 s.kn.txids) with
    | none => s.knlRetry r (fld s.kn.dsrv 3 0)
    | some no =>
      let t : KTrk := { no := no, seq := s.kn.seq, req := r, msg := default0, sent := false, at_ := 0 }
      let t : KTrk := { t with msg := t.memMsg tgt }
      let s := s.updKn fun k => { k with trk := k.trk ++ [t], seq := k.seq + 1, fv := k.fv + 1 }
      (s.knlFree r).knlSend
where
  /-- A message put in place before the tracker's own is known. -/
  default0 : Msg := { cls := 0, cmd := 0, src := 0, dst := 0, txid := 0, pack := 0, line := 0 }

/-- The home of a request. -/
def Shared.reqHome (g : Shared) (r : Req) : Nat := if r.kind = .barrier then (g.port r.port).group else lpSlice (g.lp r.line)

/-- A request for its home counted in the present window (R295). -/
def State.knlCount (s : State) (r : Req) : State :=
  s.updKn fun k => { k with rate := tset 0 k.rate (s.sh.reqHome r) (tget 0 k.rate (s.sh.reqHome r) + 1) }

/-- A request decided by Table 10-10. -/
def State.knlDecide (s : State) (r : Req) : State :=
  match s.sh.knlCheck r with
  | .window code key win nowin => s.knlRefuse r code key win nowin
  | .err code => s.knlError r code
  | .pass =>
    let s := s.knlCount r
    let n := tget 0 s.kn.rate (s.sh.reqHome r)
    let quiet := s.kn.scentOf r.line == 0 && decide (n ≤ fld s.kn.dsrv 47 32)
    let wakeTgt := r.kind = .stash ∧ (s.sh.port r.tgt).stash.getLsbD 1
    if s.sh.isScratch r.line ∨ wakeTgt then s.knlWake r
    else if (r.kind = .rdOnce ∨ r.kind = .wrFull ∨ r.kind = .wrPartial) ∧ (s.sh.port r.port).kind = 3 ∧ quiet then s.knlServe r
    else if r.kind = .stash ∧ quiet then s.knlServe r
    else s.knlWake r

/-- A request at the Kennel: discarded, refused or decided (R293, R328, R449). A request without all its data is answered
DATA_INCOMPLETE as a slice answers it (DEDUCED, log entry 42). -/
def State.knlRequest (s : State) (p : Pkt) : State :=
  if !s.kn.on then s
  else
    match s.netPkt 66 p with
    | (s, some (m, full)) =>
      match (if m.cls = clsReq then reqOf m else none) with
      | none => s
      | some r =>
        if r.kind = .cancel then (if s.pins.dormant && !s.sh.stop then s.knlCount r else s).knlFree r
        else if !full then (s.ledgerEv 68 1 0x1A [reqWord r]).knlError r 0x1A
        else if s.sh.stop then s.knlError r 0x1C
        else if !s.pins.dormant then s.knlRetry r 0
        else s.knlDecide r
    | (s, none) => s

/-- A MemRsp or DataFromMem that may belong to an INSTALL: taken, and anything else is unexpected. -/
def State.knlPlate (s : State) (m : Msg) : State :=
  match s.plateData m with
  | (s, true) => s
  | (s, false) => s.netUnexpected 66 m

/-- A MemRsp at the Kennel: its tracker completes with Comp (R294), or it belongs to a plate line. A poisoned one raises the poison source
of the line's home slice (DEDUCED, log entry 43). -/
def State.knlMemRsp (s : State) (m : Msg) : State :=
  match s.kn.trk.find? (fun t => t.no == m.txid.toNat && t.sent && t.msg.dst == m.src) with
  | none => s.knlPlate m
  | some t =>
    if s.sh.stop then s else
    let poison := m.f.getLsbD 17 && t.req.kind == .rdOnce
    let s := if poison then
        (s.updKn fun k => { k with psn := satInc k.psn }).knlEvent 3 1
          [put t.req.line.toNat 0 ||| put t.req.port 42 ||| put t.req.kind.cmd.toNat 51 ||| put 4 56, put m.src.toNat 0]
          (s.sh.home t.req.line)
      else s
    let s := s.updKn fun k => { k with trk := k.trk.filter (·.no != t.no) }
    let status := if t.req.kind = .stash then 2 else 0
    let s := s.send 66 (knlRsp t.req 4 (fPut status 0 ||| (if poison then fPut 1 17 else 0)))
    s.knlSend.plateIssue

/-- DORMANT_RATE_WINDOW: RWIN µs after the last window began (R295). -/
def State.rateWindow (s : State) : State :=
  if s.pins.dormant && decide (s.kn.rateAt + 1000 * fld s.kn.dsrv 19 8 ≤ s.sh.now) then s.updKn fun k => { k with rate := [], rateAt := s.sh.now }
  else s

/-- MEM_ANSWER_LATE at the Kennel (R530). -/
def State.knlMemLate (s : State) (tx : Nat) : State :=
  let limit := 1000 * fld s.sh.tmo 19 0
  match s.kn.trk.find? (fun t => t.no == tx && t.sent && decide (t.at_ + (t.tries + 1) * limit ≤ s.sh.now)) with
  | none => s
  | some t =>
    let s := s.netRec 66 8 [put (t.msg.dst.toNat - 640) 0 ||| put tx 5 ||| put t.msg.cmd.toNat 17 ||| put (Nat.min (t.tries + 1) 255) 24, put t.req.line.toNat 0]
    s.updKn fun k => { k with trk := k.trk.map fun x : KTrk => if x.no == tx then { x with tries := x.tries + 1 } else x }

/-! ### Timeouts of Resends (R535, Table 18-5) -/

/-- RESEND_TIMEOUT of the k-th awaited packet of interface i, 1 µs after its last Resend: a second Resend, then the give-up. -/
def State.netGiveUp (s : State) (i k : Nat) : State :=
  match ((s.rsends i)[k]?).filter (·.due s.sh.now) with
  | none => s
  | some x =>
    let m := x.msg (if i = 66 then kennelNode else ctlNode)
    if x.sent = 1 then
      (s.send i (resendFor m)).setRsends i ((s.rsends i).modify k fun y => { y with sent := 2, at_ := s.sh.now })
    else
      let s := ((s.netCnt i 3).netRec i 4 (x.gaveUp m)).setRsends i
        ((s.rsends i).modify k fun y => { y with left := some 2 })
      if x.cls ≠ clsDat then s
      else if i = 66 then
        match s.kn.plate.run with
        | some o => match o.out.find? (fun f => f.txid == x.txid.toNat) with
          | some f => s.plateRetry o f 4
          | none => s
        | none => s
      else match s.ctl.ldg.rblk.find? (fun b => b.rd == some x.txid.toNat) with
        | some b => (s.ldgDrop b 5).ldgSettle
        | none => s

/-! ### The Ledger's ring (R480, R481) -/

/-- An answer of a block's read is in. -/
def State.ldgAnswer (s : State) (b : RBlk) : State :=
  (s.updLdg fun l => { l with rblk := l.rblk.map fun x : RBlk => if x.bseq == b.bseq then b else x }).ldgSettle

/-- LEDGER_SPILL_DONE: the MemRsp of a block's write, or of a block's read. -/
def State.ldgMemRsp (s : State) (m : Msg) : State :=
  let l := s.ctl.ldg
  match l.rblk.find? (fun b => !b.done && b.txid == m.txid.toNat) with
  | some b => (s.updLdg fun l => { l with rblk := l.rblk.map fun x : RBlk => if x.bseq == b.bseq then { x with done := true } else x }).ldgPump
  | none =>
    match l.rblk.find? (fun b => b.rd == some m.txid.toNat && !b.rsp) with
    | none => s.netUnexpected 67 m
    | some b =>
      s.ldgAnswer { b with rsp := true, poison := b.poison || m.f.getLsbD 17 }

/-- The DataFromMem of a ring read. -/
def State.ldgData (s : State) (m : Msg) : State :=
  match s.ctl.ldg.rblk.find? (fun b => b.rd == some m.txid.toNat && b.data.isNone) with
  | none => s.netUnexpected 67 m
  | some b => s.ldgAnswer { b with data := some m.units, poison := b.poison || m.f.getLsbD 17 }

/-- LEDGER_REFILL_TIMEOUT of the read under TXID `tx`, still incomplete 1 ms after its MemRd. -/
def State.ldgTimeout (s : State) (tx : Nat) : State :=
  match s.ctl.ldg.rblk.find? (fun b => b.rd == some tx && !b.whole && decide (b.rdAt + 1000000 ≤ s.sh.now)) with
  | none => s
  | some b => (s.ldgDrop b 4).ldgSettle

/-- A packet of an answer to the control island: a MemRsp, a DataFromMem, or another that its checks count. The control island must be
on to take it. -/
def State.ctlPkt (s : State) (p : Pkt) : State :=
  if !s.ctl.on then s
  else match s.netPkt 67 p with
    | (s, some (m, true)) =>
      let s := s.setRsends 67 (rsTaken (s.rsends 67) m)
      match m.cls.toNat, m.cmd.toNat with
      | 2, 9 => s.ldgMemRsp m
      | 3, 2 => s.ldgData m
      | 2, 8 => s.netResend 67 m
      | _, _ => s
    | (s, _) => s

/-- A packet of an answer to the Kennel. -/
def State.knlPkt (s : State) (p : Pkt) : State :=
  if !s.kn.on then s
  else match s.netPkt 66 p with
    | (s, some (m, true)) =>
      let s := s.setRsends 66 (rsTaken (s.rsends 66) m)
      match m.cls.toNat, m.cmd.toNat with
      | 2, 9 => s.knlMemRsp m
      | 3, 2 => s.knlPlate m
      | 2, 8 => s.netResend 66 m
      | _, _ => s
    | (s, _) => s

end Sys2Proof.Machine
end

