-- ==== Sys2Proof/Machine/SliceCmds.lean ====
section
/-! DEFINITION. The commands of a slice: arrivals, admission, decisions, answers, timeouts, background work and census. A
command that names an event whose condition does not hold changes nothing (log entry 1). -/

namespace Sys2Proof.Machine

/-- The outcome of every command: a next state (no command of the table is without an effect that the specification gives). -/
abbrev Res := Host.Outcome State Fault Refusal

/-- The slice's own logic runs: on, active, not in replay, sink mode or lost, and the domain has not stopped (R428, R444, R449). -/
def Slice.works (x : Slice) (g : Shared) : Bool := x.up && x.active && !x.replay && !x.sink && !x.dead && !g.stop

/-- What arrives at slice n. -/
def State.arrives (s : State) (n : Nat) (f : Shared → Work → Work) : State := s.unlessFrozen fun s => s.onSlice n (f s.sh)

/-- An event inside slice n, while its logic runs. -/
def State.inSlice (s : State) (n : Nat) (f : Shared → Work → Work) : State :=
  s.unlessFrozen fun s => if (s.slice n).works s.sh then s.onSlice n (f s.sh) else s

/-- The response timeout of R109 and R530 in ns. -/
def Shared.snpLimit (g : Shared) : Nat := 1000 * fld g.tmo 19 0

/-! ### Arrivals and admission -/

/-- REQUEST_ARRIVAL (R231). -/
def execRequestArrival (n : Fin 66) (pkt : Pkt) (s : State) : Res := .next (s.arrives n fun g w => w.rxReq g pkt)

/-- DATA_INCOMPLETE (R231). -/
def execDataIncomplete (n : Fin 66) (a : Fin 512) (s : State) : Res := .next (s.inSlice n fun g w => w.dataIncomplete g a)

/-- ADMISSION_PHASE (R233): one slice cycle. -/
def execAdmissionPhase (n : Fin 66) (s : State) : Res := .next (s.inSlice n fun g w => w.phase g)

/-- CONTEST_EXPIRY (R235). -/
def execContestExpiry (n : Fin 66) (a : Fin 512) (s : State) : Res := .next (s.inSlice n fun g w => w.contestExpiry g a)

/-- BACKGROUND_FLOOR_DUE (R261). -/
def execBackgroundFloorDue (n : Fin 66) (s : State) : Res := .next (s.inSlice n fun g w => w.floorStep g)

/-- SCRUB_STEP_DUE (R388). -/
def execScrubStepDue (n : Fin 66) (s : State) : Res := .next (s.inSlice n fun g w => w.scrubDue g)

/-- CANCEL (R142). -/
def execCancel (n : Fin 66) (pkt : Pkt) (s : State) : Res := .next (s.arrives n fun g w => w.rxCancel g pkt)

/-- QUOTA_WINDOW_START (R241). -/
def execQuotaWindowStart (n : Fin 66) (s : State) : Res := .next (s.inSlice n fun _ w => w.quotaStart)

/-! ### Decisions -/

/-- RD_SHARED (R110). -/
def execRdShared (n : Fin 66) (t : Fin 240) (s : State) : Res := .next (s.inSlice n fun g w => w.decideCmd g .rdShared t)
/-- RD_UNIQUE (R110). -/
def execRdUnique (n : Fin 66) (t : Fin 240) (s : State) : Res := .next (s.inSlice n fun g w => w.decideCmd g .rdUnique t)
/-- RD_ONCE (R110). -/
def execRdOnce (n : Fin 66) (t : Fin 240) (s : State) : Res := .next (s.inSlice n fun g w => w.decideCmd g .rdOnce t)
/-- UPGRADE (R110). -/
def execUpgrade (n : Fin 66) (t : Fin 240) (s : State) : Res := .next (s.inSlice n fun g w => w.decideCmd g .upgrade t)
/-- WR_BACK (R110). -/
def execWrBack (n : Fin 66) (t : Fin 240) (s : State) : Res := .next (s.inSlice n fun g w => w.decideCmd g .wrBack t)
/-- EVICT_CLEAN (R110). -/
def execEvictClean (n : Fin 66) (t : Fin 240) (s : State) : Res := .next (s.inSlice n fun g w => w.decideCmd g .evictClean t)
/-- WR_FULL (R110). -/
def execWrFull (n : Fin 66) (t : Fin 240) (s : State) : Res := .next (s.inSlice n fun g w => w.decideCmd g .wrFull t)
/-- WR_PARTIAL (R110). -/
def execWrPartial (n : Fin 66) (t : Fin 240) (s : State) : Res := .next (s.inSlice n fun g w => w.decideCmd g .wrPartial t)
/-- STASH (R222). -/
def execStash (n : Fin 66) (t : Fin 240) (s : State) : Res := .next (s.inSlice n fun g w => w.decideCmd g .stash t)
/-- ATOMIC (R171). -/
def execAtomic (n : Fin 66) (t : Fin 240) (s : State) : Res := .next (s.inSlice n fun g w => w.decideCmd g .atomic t)
/-- LEASH_TAKE (R192). -/
def execLeashTake (n : Fin 66) (t : Fin 240) (s : State) : Res := .next (s.inSlice n fun g w => w.decideCmd g .leashTake t)
/-- LEASH_FREE (R192). -/
def execLeashFree (n : Fin 66) (t : Fin 240) (s : State) : Res := .next (s.inSlice n fun g w => w.decideCmd g .leashFree t)
/-- RESV_WATCH (R186). -/
def execResvWatch (n : Fin 66) (t : Fin 240) (s : State) : Res := .next (s.inSlice n fun g w => w.decideCmd g .resvWatch t)
/-- FAR_ATOMIC_EXECUTE (R177). -/
def execFarAtomicExecute (n : Fin 66) (t : Fin 240) (s : State) : Res := .next (s.inSlice n fun g w => w.farExecute g t)
/-- WATCH_INSTALLED (R186): every active slice has installed it, which a slice in replay delays (R432). -/
def execWatchInstalled (n : Fin 66) (t : Fin 240) (s : State) : Res :=
  .next (if s.anyReplay then s else s.inSlice n fun g w => w.watchInstalled g t)
/-- WATCH_AGE_REACHED (R190). -/
def execWatchAgeReached (n : Fin 66) (t : Fin 240) (s : State) : Res := .next (s.inSlice n fun g w => w.watchAge g t)
/-- MEMORY_REQUEST_RELEASE (R113). -/
def execMemoryRequestRelease (n : Fin 66) (htx : BitVec 12) (s : State) : Res := .next (s.inSlice n fun g w => w.memRelease g htx.toNat)
/-- WAITING_REQUEST_DECIDE (R155). -/
def execWaitingRequestDecide (n : Fin 66) (t : Fin 240) (s : State) : Res := .next (s.inSlice n fun g w => w.resume g t false)
/-- WAY_OR_RECALL_FREE (R78). -/
def execWayOrRecallFree (n : Fin 66) (t : Fin 240) (s : State) : Res := .next (s.inSlice n fun g w => w.resume g t true)
/-- STENCIL_OP_COMPLETE (R68). -/
def execStencilOpComplete (n : Fin 66) (s : State) : Res := .next (s.inSlice n fun g w => w.stencilOp g)
/-- FAR_REGISTER_IDLE (R179). -/
def execFarRegisterIdle (n : Fin 66) (f : Fin 8) (s : State) : Res := .next (s.inSlice n fun g w => w.farIdle g f)
/-- LEASH_EXPIRY (R195). -/
def execLeashExpiry (n : Fin 66) (l : Fin 32) (s : State) : Res := .next (s.inSlice n fun g w => w.leashExpiry g l)

/-! ### Answers -/

/-- ACK_INVAL (R115). -/
def execAckInval (n : Fin 66) (pkt : Pkt) (s : State) : Res := .next (s.arrives n fun g w => w.rx g 2 1 pkt)
/-- ACK_FWD (R115). -/
def execAckFwd (n : Fin 66) (pkt : Pkt) (s : State) : Res := .next (s.arrives n fun g w => w.rx g 2 2 pkt)
/-- WR_DATA (R119). -/
def execWrData (n : Fin 66) (pkt : Pkt) (s : State) : Res := .next (s.arrives n fun g w => w.rx g 3 3 pkt)
/-- MEM_RSP (R115). -/
def execMemRsp (n : Fin 66) (pkt : Pkt) (s : State) : Res := .next (s.arrives n fun g w => w.rx g 2 9 pkt)
/-- DATA_FROM_MEM (R176). -/
def execDataFromMem (n : Fin 66) (pkt : Pkt) (s : State) : Res := .next (s.arrives n fun g w => w.rx g 3 2 pkt)
/-- CENSUS_REPORT (R410). -/
def execCensusReport (n : Fin 66) (pkt : Pkt) (s : State) : Res := .next (s.arrives n fun g w => w.rx g 2 3 pkt)

/-! ### Timeouts of answers, Resends -/

/-- RESPONSE_TIMEOUT (R445). -/
def execResponseTimeout (n : Fin 66) (htx : BitVec 12) (a : Fin 512) (s : State) : Res :=
  .next (s.inSlice n fun g w => w.responseTimeout g htx.toNat a g.snpLimit)

/-- MEM_ANSWER_LATE (R530): at a slice, or at the Kennel. -/
def execMemAnswerLate (i : Fin 67) (htx : BitVec 12) (s : State) : Res :=
  .next (if i.val < 66 then s.inSlice i fun g w => w.memLate g htx.toNat g.snpLimit
    else s.unlessFrozen fun s => if s.kn.on then s.knlMemLate htx.toNat else s)

/-- RESEND (R534): at a slice, the Kennel or the control island. -/
def execResend (i : Fin 68) (pkt : Pkt) (s : State) : Res :=
  .next (if i.val < 66 then s.arrives i fun g w => w.rx g 2 8 pkt
    else s.unlessFrozen fun s => if i.val = 66 then s.knlPkt pkt else s.ctlPkt pkt)

/-- The slice's network interface runs, in replay and in sink mode too (R427, R428). -/
def Slice.listens (x : Slice) (g : Shared) : Bool := x.up && x.active && !x.dead && !g.stop

/-- RESEND_TIMEOUT (R535) of the k-th packet that the interface awaits. -/
def execResendTimeout (i : Fin 68) (k : BitVec 12) (s : State) : Res :=
  .next (if i.val < 66 then
      s.unlessFrozen fun s => if (s.slice i).listens s.sh then s.onSlice i fun w => w.resendTimeout s.sh k.toNat else s
    else s.unlessFrozen fun s => if (if i.val = 66 then s.kn.on else s.ctl.on) then s.netGiveUp i k.toNat else s)

/-! ### Census -/

/-- CENSUS_JOB_START (R407). -/
def execCensusJobStart (n : Fin 66) (s : State) : Res := .next (s.inSlice n fun g w => w.cenStart g)
/-- CENSUS_SNOOP_START (R138). -/
def execCensusSnoopStart (n : Fin 66) (j : Fin 8) (s : State) : Res := .next (s.inSlice n fun g w => w.cenSnoop g j)

end Sys2Proof.Machine
end

