-- ==== Sys2Proof/Machine/BarrierCmds.lean ====
section
/-! DEFINITION. The barrier commands and the slice-link messages that carry them (R206 to R218). A message waits in the slice link
while its receiver is in replay or held in reset (R428, R442). -/

namespace Sys2Proof.Machine

/-- The first message of the slice link that `f` takes is delivered to slice n, when the slice's logic runs and no earlier message of
its path waits. -/
def State.deliver {α : Type} (s : State) (n : Nat) (f : Link → Option α) (act : Shared → α → Work → Work) : State :=
  s.unlessFrozen fun s =>
    if !(s.slice n).works s.sh then s
    else match s.link.find? (fun m => (f m).isSome) with
      | none => s
      | some m =>
        match f m with
        | none => s
        | some x => if m.path.isSome && (s.link.takeWhile (· != m)).any (·.path == m.path) then s else (s.updLink (·.erase m)).onSlice n (act s.sh x)

/-- BARRIER (R210). -/
def execBarrier (n : Fin 66) (pkt : Pkt) (s : State) : Res := .next (s.arrives n fun g w => w.rxBarrier g pkt)

/-- BARRIER_RELEASE (R212), which a slice in replay delays (R213). -/
def execBarrierRelease (n : Fin 66) (scope : Fin 3) (key : Fin 512) (s : State) : Res :=
  .next (if s.anyReplay then s else s.inSlice n fun g w => w.barRelease g scope key s.liveSlices)

/-- SL_BARRIER_REPORT (R212). -/
def execSlBarrierReport (n : Fin 66) (p : Fin 16) (s : State) : Res :=
  .next (s.deliver n (fun m => match m with
    | .barFirst d _ q _ _ => if d = n.val ∧ q = p.val then some m else none
    | .barReport d _ q _ _ _ _ => if d = n.val ∧ q = p.val then some m else none
    | _ => none) fun g m w => w.barReport g m)

/-- SL_BARRIER_RELEASE (R212). -/
def execSlBarrierRelease (n : Fin 66) (p : Fin 16) (s : State) : Res :=
  .next (s.deliver n (fun m => match m with
    | .barRelease d q => if d = n.val ∧ q = p.val then some () else none
    | _ => none) fun g _ w => w.barReleased g p)

/-- SL_GEN_MISMATCH (R211). -/
def execSlGenMismatch (n : Fin 66) (p : Fin 16) (s : State) : Res :=
  .next (s.deliver n (fun m => match m with
    | .barMismatch d q => if d = n.val ∧ q = p.val then some () else none
    | _ => none) fun g _ w => w.barMismatch g p)

/-- BARRIER_TIMEOUT (R214). -/
def execBarrierTimeout (n : Fin 66) (scope : Fin 3) (key : Fin 512) (s : State) : Res :=
  .next (s.inSlice n fun g w => w.barTimeout g scope key)

/-- SL_TIMEOUT_NOTICE (R214). -/
def execSlTimeoutNotice (n : Fin 66) (p : Fin 16) (s : State) : Res :=
  .next (s.deliver n (fun m => match m with
    | .barTimeout d q => if d = n.val ∧ q = p.val then some () else none
    | _ => none) fun g _ w => w.barNotice g p)

/-- SL_TIMEOUT_REPLY (R214). -/
def execSlTimeoutReply (n : Fin 66) (p : Fin 16) (s : State) : Res :=
  .next (s.deliver n (fun m => match m with
    | .barReply d src q arr missing => if d = n.val ∧ q = p.val then some (src, arr, missing) else none
    | _ => none) fun g x w => w.barReply g p x.1 x.2.1 x.2.2)

/-- SL_MEMSYNC_REQUEST (R217). -/
def execSlMemsyncRequest (n : Fin 66) (s : State) : Res :=
  .next (s.deliver n (fun m => match m with
    | .memSync d c scope key => if d = n.val then some (c, scope, key) else none
    | _ => none) fun g x w => w.memSync g x.1 x.2.1 x.2.2)

/-- A memory sync of slice n that has finished leaves the slice, which counts it (R228), and its coordinator takes the
report. -/
def State.syncReport (s : State) (n : Nat) (m : MSync) : State :=
  (s.updSlice n fun x => { x with msync := x.msync.erase m, sync := bump 2 x.sync }).onSlice m.coord fun w => w.syncReport s.sh n m

/-- MEMSYNC_DONE (R217): the first memory sync of slice n that has finished is reported; a coordinator in replay takes it later. -/
def execMemsyncDone (n : Fin 66) (s : State) : Res :=
  .next (s.unlessFrozen fun s =>
    if !(s.slice n).works s.sh then s
    else match (s.slice n).msync.find? (fun m => (s.slice n).syncDone m) with
      | some m => if (s.slice m.coord).works s.sh then s.syncReport n m else s
      | none => s)

end Sys2Proof.Machine
end

