-- ==== Sys2Proof/Machine/Access.lean ====
section
/-! DEFINITION. The register decoder (R552 to R562, Tables 19-2 and 19-3), its front end (R325, R334, R505, R585) and the register
port's responses (R538 to R541, R560). -/

namespace Sys2Proof.Machine

/-- A write's value as the port carries it: what it reaches of the register, and the lanes. -/
def formAcc (f : WrForm) (off : Nat) (tag : BitVec 8) : RegAcc :=
  match f with
  | .whole v => { wr := true, size := 3, addr := BitVec.ofNat 20 off, tag := tag, lo := v, hi := 0 }
  | .low v => { wr := true, size := 2, addr := BitVec.ofNat 20 off, tag := tag, lo := v.setWidth 64, hi := 0 }
  | .high v => { wr := true, size := 2, addr := BitVec.ofNat 20 (off + 4), tag := tag, lo := v.setWidth 64 <<< 32, hi := 0 }

/-- An 8-byte access. -/
def acc8 (wr : Bool) (off : Nat) (tag : BitVec 8) (v : Word) : RegAcc :=
  { wr := wr, size := 3, addr := BitVec.ofNat 20 off, tag := tag, lo := v, hi := 0 }

/-! ### Command registers -/

/-- BRK_SWSET (Table 16-25, R489, R490). -/
def State.swset (s : State) (v : Word) : CmdRes :=
  let x := fld v 9 0
  if !isSource x || isFatal x then .error 9
  else
    let s := if v.getLsbD 16 then s.updBrk fun b => (b.raise s.sh.now x).noted s.sh.now x true else s
    .ok (if v.getLsbD 17 then s.updBrk (·.withdrawBy s.sh.now true x) else s)

/-- LDG_CMD (Table 16-16). -/
def State.ldgCmd (s : State) (v : Word) : CmdRes :=
  if fld v 7 0 = 1 then .ok s.ldgClose else .error 9

/-- SHD_CMD (Table 10-15). -/
def State.shdCmd (s : State) (v : Word) : CmdRes :=
  match fld v 7 0 with
  | 1 => .ok ((s.updSheep fun h => { h with hist := [] }).startSheep 1)
  | 2 => .ok (s.startSheep 2)
  | _ => .error 9

/-- FRZ_CMD (Table 17-9, R498). -/
def State.frzCmd (s : State) (v : Word) : CmdRes :=
  if fld v 7 0 = 1 then .ok ((s.updFrz fun f => { f with hold := true }).frzBegin 1) else .error 9

/-- FRZ_AADDR (Table 17-13, R513). -/
def State.frzAaddr (s : State) (v : Word) : CmdRes :=
  let n := fld v 62 56
  let b := fld v 52 48
  let w := fld v 14 0
  if !(s.sh.mode == .run || s.sh.mode == .drain || s.sh.mode == .recover) || s.ctl.frz.aslot.isSome ||
      (decide (n < 66) && (s.slice n).pwr != .on) then .error 8
  else if 66 ≤ n || 30 ≤ b || 8 * bankRows b ≤ w then .error 9
  else .ok (s.updFrz fun f => { f with aslot := some (n, b, w) })

/-- SLC_RPL_CMD of slice n (Table 14-12, R427). Which messages the network interface has not yet accepted, nothing states (log entry 12). -/
def State.rplCmd (s : State) (n : Nat) (v : Word) : CmdRes :=
  if fld v 7 0 ≠ 1 then .error 9
  else if !(s.sh.mode == .run || s.sh.mode == .drain) then .error 8
  else .ok (if (s.slice n).replay then s else s.onSlice n fun w =>
    (w.controlFault s.sh 7 w.sl.cutShort).upd fun x => { x with fv := x.fv + 1 })

/-- A write of a command register. -/
def State.command (s : State) (r : Reg) (v : Word) : CmdRes :=
  match r with
  | .modeCmd => s.modeCmd v
  | .slc n _ => s.rplCmd n v
  | .prt a _ => s.retire a v
  | .pck p .fence => s.fence p v
  | .pck p _ => s.packReset p v
  | .shdCmd => s.shdCmd v
  | .plcmd => s.plCmd v
  | .brnCmd => s.brnCmd v
  | .ldgCmd => s.ldgCmd v
  | .brkSwset => s.swset v
  | .frzCmd => s.frzCmd v
  | .frzAaddr => s.frzAaddr v
  | _ => .ok s

/-! ### One register -/

/-- A register of the SHD or KNL block (Table 19-9). -/
def isKnlOff (o : Nat) : Bool := decide (0x70000 ≤ o) && decide (o < 0x71000)

/-- GLB_LOCK refuses a write of register r that reaches the bits of `reach` with `data`: of an RWL field, and FORCE of SLC_RPL_CMD
(R558). -/
def State.lockRefuses (s : State) (r : Reg) (reach data : Word) : Bool :=
  s.lock.lock && match r with
    | .slc _ .rplCmd => fld data 7 0 == 1
    | r => !r.isCmd && reach &&& r.lockMask != 0

/-- Start-up refuses an access of register r at offset o (R334, R585). -/
def State.startupRefuses (s : State) (r : Reg) (o : Nat) (wr : Bool) : Bool :=
  s.sh.mode == .engrave && !isKnlOff o && (wr || !(r == .glbId || r == .mode || r == .boot))

/-- Rules of a register's table that depend on the state (code 8). -/
def State.stateRefuses (s : State) (r : Reg) (v : Word) : Bool :=
  (s.reloading && r.reloaded) ||
  match r with
  | .pck p .heel | .pck p .ord | .pck p .resv => !s.drainedFor p
  | .prt a .bar => !s.drainedFor (s.sh.port a).packNo
  | .shdCtl => v.getLsbD 0 && s.pins.dormant
  | .jdesc i _ => (s.ctl.brn.job i).live
  | _ => false

/-- Rules of a register's table on the resulting value (code 9). -/
def State.valueRefuses (s : State) (r : Reg) (v : Word) : Bool :=
  !r.rangeOk v ||
  match r with
  | .pck p (.winBase w) => ((s.sh.pack p).wins.getD w {}).en
  | .pck p (.winAttr w) =>
    let old := (s.sh.pack p).wins.getD w {}
    v.getLsbD 0 && (if old.en then fld v 47 12 != old.hi else decide (fld v 47 12 < old.lo))
  | .ldgRing => !ringPlaced s.sh.regions s.sh.scrw s.sh.scrBase.toNat v
  | _ => false

/-- A read of register r: its value, and its side effect through the normal window (R6, R483, R496). -/
def State.readReg (s : State) (r : Reg) (quiet : Bool) : State × Word :=
  let v := s.regRead r
  if quiet then (s, v)
  else match r with
    | .ldgHead 7 => (s.ldgPop.warmPoll, v)
    | .brkClaim t =>
      match s.ctl.brk.claim t with
      | some x => (s.updBrk fun b => { b with pend := b.pend.filter (· != x), burst := b.burst.filter (· != x) }, v)
      | none => (s, v)
    | _ => (s, v)

/-- A write of register r that reaches the bits of `reach`, by software or the Sheepdog: STATE, VALUE, then its effect. -/
def State.writeReg (s : State) (src : AccSrc) (r : Reg) (reach data : Word) : CmdRes :=
  if r.isCmd then s.command r data
  else if reach &&& r.wmask = 0 then (if s.reloading && r.reloaded then .error 8 else .ok s)
  else
    let m := reach &&& r.wmask
    let v := (s.regStored r &&& ~~~m) ||| (data &&& m)
    if s.stateRefuses r v then .error 8
    else if s.valueRefuses r v then .error 9
    else
      let s := s.regPut r v
      .ok (match r with
        | .mbox _ => if src = .sheep then s else s.mboxLatch
        | .prt a .bar => s.updSh fun g => g.updPort a fun p => { p with barAt := some g.now }
        | _ => s)

/-! ### One access -/

/-- One access of 4 or 8 bytes, or half of one of 16, at an aligned offset o of the normal window. -/
def State.half (s : State) (src : AccSrc) (quiet wr : Bool) (o : Nat) (reach data : Word) : Except Nat (State × Word) :=
  match regAt (o / 8 * 8) with
  | none => .error 4
  | some r =>
    let narrow := reach != BitVec.allOnes 64
    if narrow && (r.isCmd || r.isSide || (wr && r.isWhole)) then .error 5
    else if wr && (match r with | .slc n _ => (s.slice n).pwr != .on | _ => false) then .error 6
    else if wr && s.lockRefuses r reach data then .error 7
    else if s.startupRefuses r o wr then .error 8
    else if wr then
      match s.writeReg src r reach data with
      | .error c => .error c
      | .ok s => .ok (s, 0)
    else
      let (s, v) := s.readReg r quiet
      .ok (s, v &&& reach)

/-- A pair at o holds a command register (R555). -/
def cmdPair (o : Nat) : Bool := [o, o + 8].any fun o => match regAt o with | some r => r.isCmd | none => false

/-- A refusal counted in GLB_RP_STAT (R556). -/
def State.refuse (s : State) (src : AccSrc) (a : RegAcc) (code : Nat) : State :=
  s.updRp fun r => { r with
    errs := satInc r.errs, code := BitVec.ofNat 4 code, off := a.addr,
    src := match src with | .port => 0 | .sheep => 1 | .tap => 2 }

/-- An error response; a 16-byte read has two beats. -/
def errRsp (a : RegAcc) : RpRsp := { tag := a.tag, err := true, data := 0, hi := if a.size = 4 && !a.wr then some (true, 0) else none }

/-- An access refused whole. -/
def State.refused (s : State) (src : AccSrc) (a : RegAcc) (code : Nat) : State × RpRsp × List Nat := (s.refuse src a code, errRsp a, [])

/-- The slices in replay that have still to apply what a write of the register at offset o with the bits of `reach` and `data` gives them
(R560): of a GLB, PRT or PCK register every active one, but for a DRAIN of 0, which R265 applies at its arrival; of an SLC register its
slice. FORCE of SLC_RPL_CMD has no value that a slice applies (DEDUCED, log entry 49). -/
def State.awaitsOf (s : State) (o : Nat) (data : Word) : List Nat :=
  match regAt (o / 8 * 8) with
  | some (.slc _ .rplCmd) => []
  | some (.slc n _) => if (s.slice n).replay then [n] else []
  | some (.pck p .gate) => if data.getLsbD 0 || !(s.sh.pack p).drain then s.liveSlices.filter fun n => (s.slice n).replay else []
  | some r => if (o < 0x1000 ∨ (0x60000 ≤ o ∧ o < 0x69000)) ∧ !r.isCmd then s.liveSlices.filter fun n => (s.slice n).replay else []
  | none => []

/-- The bits of a register that an access of 4 or 8 bytes reaches (R554). -/
def accReach (a : RegAcc) : Word :=
  if a.size = 2 then (if a.addr.getLsbD 2 then ones 32 32 else ones 32 0) else ones 64 0

/-- The size and alignment break Table 19-2 for every register class (code 1). -/
def accBadSize (a : RegAcc) : Bool :=
  match a.size.toNat with
  | 2 => a.addr.toNat % 4 != 0
  | 3 => a.addr.toNat % 8 != 0
  | 4 => a.addr.toNat % 16 != 0
  | _ => true

/-- An access that the front end performs or answers itself during and after a cold reset (R585). -/
def accFrontOwn (a : RegAcc) : Bool :=
  let one := fun (o : Nat) =>
    isKnlOff o || (!a.wr && (match regAt (o / 8 * 8) with | some r => r == .glbId || r == .mode || r == .boot | none => false))
  let o := a.addr.toNat % 0x80000
  one o && (a.size != 4 || one (o + 8))

/-- An access performed by the decoder, in the order of Table 19-3, with the slices that have still to apply what an accepted write gives
them. While a cold reset is held the front end answers every access that is
not its own with code STATE (R585). -/
def State.access (s : State) (src : AccSrc) (a : RegAcc) : State × RpRsp × List Nat :=
  let quiet := decide (0x80000 ≤ a.addr.toNat)
  let o := a.addr.toNat % 0x80000
  if s.pins.coldRst && !accFrontOwn a then s.refused src a 8
  else if accBadSize a then s.refused src a 1
  else if a.wr && quiet then s.refused src a 3
  else if a.size = 4 then
    if cmdPair o then s.refused src a 5
    else
      let all := BitVec.allOnes 64
      let (s1, r1) := match s.half src quiet a.wr o all a.lo with
        | .error c => (s, Except.error c) | .ok x => (x.1, Except.ok x.2)
      let (s2, r2) := match s1.half src quiet a.wr (o + 8) all a.hi with
        | .error c => (s1, Except.error c) | .ok x => (x.1, Except.ok x.2)
      let code : Option Nat := match r1, r2 with
        | .error c, _ => some c | .ok _, .error c => some c | .ok _, .ok _ => none
      let s3 := match code with | some c => s2.refuse src a c | none => s2
      let owes := fun (ok : Bool) (o : Nat) (v : Word) => if a.wr && ok then s.awaitsOf o v else []
      let w := owes r1.toBool o a.lo ++ owes r2.toBool (o + 8) a.hi
      let beat := fun (r : Except Nat Word) => match r with | .error _ => (true, (0 : Word)) | .ok v => (false, v)
      (s3, if a.wr then { tag := a.tag, err := code.isSome, data := 0 }
        else { tag := a.tag, err := (beat r1).1, data := (beat r1).2, hi := some (beat r2) }, w)
  else
    match s.half src quiet a.wr o (accReach a) a.lo with
    | .error c => s.refused src a c
    | .ok (t, v) => (t, { tag := a.tag, err := false, data := v }, if a.wr then s.awaitsOf o a.lo else [])

/-! ### The register port -/

/-- The slice of an SLC block is changing its power state, and the access is one that waits for it (R562). -/
def State.sliceMoving (s : State) (a : RegAcc) : Bool :=
  let o := a.addr.toNat % 0x80000
  let one := fun (o : Nat) => match regAt (o / 8 * 8) with
    | some (.slc _ .info) | some (.slc _ .isl) => false
    | some (.slc n _) => (s.slice n).pwr.code == 3
    | _ => false
  one o || (a.size == 4 && one (o + 8))

/-- The control island is off and the access is not one that the front end performs itself (R325, R334, R585). -/
def State.decoderOff (s : State) (a : RegAcc) : Bool :=
  !s.ctl.on && !s.pins.coldRst && !(s.kn.rst.cause == 2 && s.sh.mode == .engrave && decide (4 ≤ s.ctl.ms.step) && accFrontOwn a)

/-- The decoder cannot perform the access now: the control island is off, Xejan is frozen (R505), an earlier response is owed (R559,
R560), or the slice is changing (R562). -/
def State.mustHold (s : State) (a : RegAcc) : Bool := s.frozen || s.ctl.rp.owed.isSome || s.sliceMoving a || s.decoderOff a

/-- An access of source `src` has been performed: its response returns, or waits for the slices named. -/
def State.keepRsp (s : State) (src : AccSrc) (r : RpRsp) (w : List Nat) : State :=
  let s := s.updCtl fun c => { c with idleAt := s.sh.now }
  if w.isEmpty then (if src = .port then s.updRp fun p => { p with rsp := p.rsp ++ [r] } else s)
  else s.updRp fun p => { p with owed := some { src := src, rsp := r, slices := w } }

/-- An access of the port performed and its response returned or owed; one whose second beat did not come is refused and has no effect
(R540). -/
def State.perform (s : State) (h : HeldAcc) : State :=
  let x := if h.late then s.refused .port h.acc (if accBadSize h.acc then 1 else 2) else s.access .port h.acc
  x.1.keepRsp .port x.2.1 x.2.2

/-- Held accesses performed in order for as long as the next one can be (R325, R505, R559, R562); at most 16 are outstanding. -/
def State.drainHeld (s : State) : State :=
  (List.range 16).foldl (fun s _ =>
    match s.ctl.rp.held with
    | [] => s
    | h :: rest => if s.ctl.rp.taken.isSome || s.mustHold h.acc then s else (s.updRp fun p => { p with held := rest }).perform h) s

/-- An access arrives at the register port, behind those that wait (R559). With 16 outstanding it cannot transfer (R539); without a
running Kennel there is no front end to take it. -/
def State.portTake (s : State) (h : HeldAcc) : State :=
  if !s.kn.on then s
  else if !s.ctl.rp.held.isEmpty || s.ctl.rp.taken.isSome || s.mustHold h.acc then
    if 16 ≤ s.ctl.rp.outstanding then s else s.updRp fun p => { p with held := p.held ++ [h] }
  else s.perform h

/-- A whole access arrives. -/
def State.portAccess (s : State) (a : RegAcc) : State := s.portTake { acc := a }

/-- SECOND_BEAT_TIMEOUT: the access is answered with an error in its place, and has no effect (R539, R540). -/
def State.beatTimeout (s : State) (a : RegAcc) : State := if a.size ≠ 4 then s else s.portTake { acc := a, late := true }

/-! ### The TAP's DBGDR (Table 17-6) -/

/-- An access of the Sheepdog or the TAP waits: it cannot be performed, or another one goes first (R559). -/
def State.waitsTurn (s : State) (src : AccSrc) (a : RegAcc) : Bool :=
  let p := s.ctl.rp
  s.mustHold a || (p.taken != some src && (p.taken.isSome || !p.held.isEmpty || (src == .tap && s.kn.sheep.regWait.isSome)))

/-- The decoder takes the access all the same when nothing is ahead of it and only its slice's change of power holds it (R559, R562). -/
def State.takenBy (s : State) (src : AccSrc) (a : RegAcc) : State :=
  let p := s.ctl.rp
  if s.frozen || p.owed.isSome || p.taken.isSome || !p.held.isEmpty || !s.sliceMoving a || (src == .tap && s.kn.sheep.regWait.isSome) ||
      s.decoderOff a then s
  else s.updRp fun p => { p with taken := some src }

/-- An update of DBGDR: a quiet-alias read, or a write of FRZ_AADDR; ERR while Xejan is frozen. One that comes while it stops waits for the
thaw, as the port's accesses do (DEDUCED, log entry 29). -/
def State.dbgdr (s : State) (v : BitVec 64) : State :=
  if !s.kn.on then s
  else if s.frozen && s.ctl.frz.st != .stopping then s.updFrz fun f => { f with dbgDone := true, dbgErr := true, dbgData := 0 }
  else
    let a : RegAcc := if v.getLsbD 63 then acc8 true 0x7C020 0 (v &&& ones 63 0) else acc8 false (fld v 18 0 + 0x80000) 0 0
    if s.waitsTurn .tap a then (s.updFrz fun f => { f with dbgWait := some v, dbgDone := false }).takenBy .tap a
    else
      let x := s.access .tap a
      ((x.1.keepRsp .tap x.2.1 []).updRp fun p => { p with taken := none }).updFrz fun f =>
        { f with dbgWait := none, dbgDone := true, dbgErr := x.2.1.err, dbgData := x.2.1.data }

/-- A held access of DBGDR tried again. -/
def State.dbgPoll (s : State) : State := match s.ctl.frz.dbgWait with | some v => s.dbgdr v | none => s

end Sys2Proof.Machine
end

