-- ==== Sys2Proof/Machine/SheepOps.lean ====
section
/-! DEFINITION. The Sheepdog processor: the frame of an instruction, faults, WAIT, LD and ST, SAMPLE and the actions (R268 to
R289). -/

namespace Sys2Proof.Machine

/-- A register of the Sheepdog's processor. -/
abbrev GReg := BitVec 6
/-- A value of one of its registers. -/
abbrev W32 := BitVec 32

/-- g[r]; g0 reads as zero (R270). -/
def Sheep.get (h : Sheep) (r : GReg) : W32 := if r = 0 then 0 else h.g[r.toNat]
/-- g[r] written; a write to g0 has no effect (R270). -/
def Sheep.put (h : Sheep) (r : GReg) (v : W32) : Sheep := if r = 0 then h else { h with g := h.g.set r.toNat v }
/-- The pair g[r], g[r+1] as 64 bits, g[r] low. -/
def Sheep.pair (h : Sheep) (r : GReg) : Word := ((h.get (r + 1)).setWidth 64 <<< 32) ||| (h.get r).setWidth 64
/-- A pair written. -/
def Sheep.putPair (h : Sheep) (r : GReg) (v : Word) : Sheep := (h.put r (v.setWidth 32)).put (r + 1) ((v >>> 32).setWidth 32)

/-! ### Encodings (Table 10-3) -/

/-- Format A. -/
def encA (op : Nat) (d a b c : GReg) (fn : BitVec 7) : BitVec 36 := BitVec.ofNat 5 op ++ d ++ a ++ b ++ c ++ fn
/-- Format I. -/
def encI (op : Nat) (d a : GReg) (imm : BitVec 19) : BitVec 36 := BitVec.ofNat 5 op ++ d ++ a ++ imm
/-- Format B. -/
def encB (op : Nat) (a b : GReg) (cond : BitVec 3) (off : BitVec 16) : BitVec 36 := BitVec.ofNat 5 op ++ a ++ b ++ cond ++ off

/-- D names a pair: even, from 2 to 62 (R274). -/
def pairOk (d : GReg) : Bool := d != 0 && !d.getLsbD 0
/-- A names four registers: 1 to 60 (R274). -/
def fourOk (a : GReg) : Bool := decide (1 ≤ a.toNat) && decide (a.toNat ≤ 60)

/-- The codes of Table 10-6. -/
inductive SFault where
  | reserved | field | address | memory | fetch | watchdog
  deriving DecidableEq, Repr
/-- A fault's code. -/
def SFault.code : SFault → BitVec 4
  | .reserved => 1 | .field => 2 | .address => 3 | .memory => 4 | .fetch => 5 | .watchdog => 6

/-! ### Faults and restarts (R280, R281) -/

/-- A Sheepdog fault: recorded, logged, raised; the restart follows (R280). -/
def State.sheepFault (s : State) (f : SFault) : State :=
  let now := s.sh.now
  let pc := s.kn.sheep.pc
  let s := s.updSheep fun h => { h with
    faults := satInc h.faults, code := f.code, fpc := pc, runState := 4, wait := none, regWait := none
    hist := now :: h.hist.filter fun t => decide (now < t + 3600000000000) }
  let w : Word := put f.code.toNat 0 ||| put pc.toNat 16
  (s.kst 0 [w]).knlEvent 10 1 [w] 848

/-- SHEEPDOG_RESTART: the plate's program, or after the fourth fault within 3,600 s the ROM safe program. -/
def State.sheepRestart (s : State) : State :=
  if s.kn.sheep.runState = 4 then s.startSheep (if 4 ≤ s.kn.sheep.hist.length then 2 else 1) else s

/-- The Sheepdog executes the plate's program now: not halted, not in a WAIT, not restarting. -/
def State.sheepRuns (s : State) : Bool :=
  let h := s.kn.sheep
  s.kn.on && !s.frozen && h.runState == 1 && !h.halted && h.wait.isNone

/-- WATCHDOG_EXPIRY (R281): the ROM safe program kicks it by itself (R282). -/
def State.watchdog (s : State) : State :=
  let h := s.kn.sheep
  if s.kn.on && !s.frozen && h.runState == 1 && !h.halted && decide (h.wdtAt + fld s.kn.wdt 16 0 * 1000 ≤ s.sh.now) then s.sheepFault .watchdog
  else s

/-- After an instruction at the program counter: the next one, fetched before the instruction's own store to the program (R278). -/
def State.nextAt (s : State) (pc : BitVec 12) : State := s.updSheep fun h => { h with pc := pc }.fetch
/-- The instruction after this one. -/
def State.nextPc (s : State) : State := s.nextAt (s.kn.sheep.pc + 1)
/-- The end of an instruction that stalled: a HALT written meanwhile acts (Table 10-13). -/
def State.haltHere (s : State) (halt : Bool) : State := if halt then s.updSheep (·.halt s.sh.now) else s

/-- An instruction whose encoding is `enc`: it executes when it is the one at the program counter; `ok` tells a fault that stops it. -/
def State.instr (s : State) (enc : BitVec 36) (bad : Option SFault) (f : State → State) : State :=
  if s.sheepRuns && s.kn.sheep.ir == enc && !s.kn.sheep.irBad then
    match bad with
    | some e => s.sheepFault e
    | none => f s
  else s

/-- An instruction that only writes g[d] with a value of the registers as they stand. -/
def State.instrReg (s : State) (enc : BitVec 36) (bad : Option SFault) (d : GReg) (v : Sheep → W32) : State :=
  s.instr enc bad fun s => (s.updSheep fun h => h.put d (v h)).nextPc

/-- Field rules, then reserved sources or targets. -/
def badField (rule reserved : Bool) : Option SFault := if !rule then some .field else if reserved then some .reserved else none

/-- At the tick of an idle queue the Sheepdog meets an instruction that no command names: a reserved OP, FN or COND, or one whose
fetch failed (R273, R275). -/
def reservedIns (i : BitVec 36) : Bool :=
  let op := fld i 35 31
  let fn := fld i 6 0
  decide (24 ≤ op) || (op == 1 && decide (12 < fn)) || (op == 6 && fld i 18 16 == 7) || (op == 12 && decide (1 < fn)) || (op == 14 && decide (1 < fn))

/-- The Sheepdog's own step at such an instruction. -/
def State.sheepTick (s : State) : State :=
  if s.sheepRuns then
    if s.kn.sheep.irBad then s.sheepFault .fetch
    else if reservedIns s.kn.sheep.ir then s.sheepFault .reserved
    else s
  else s

/-! ### Arithmetic -/

/-- The median of three, signed. -/
def med3 (a b c : W32) : W32 :=
  if a.sle b then (if b.sle c then b else if a.sle c then c else a)
  else (if a.sle c then a else if b.sle c then c else b)

/-- DEB (R277). -/
def debounce (g : W32) (inp : Bool) (n : Nat) : W32 :=
  let out := g.getLsbD 31
  let cnt := fld g 15 0
  let top := fun (b : Bool) => if b then (0x80000000 : W32) else 0
  if inp = out then top out
  else if n ≤ cnt + 1 then top inp
  else top out ||| BitVec.ofNat 32 (cnt + 1)

/-- RCHK: range check of g[A]. -/
def rangeCheck (a b c : W32) (unsigned : Bool) : W32 :=
  let le := fun (x y : W32) => if unsigned then decide (x.toNat ≤ y.toNat) else x.sle y
  if !le b a then 1 else if !le a c then 2 else 0

/-- The present tick stamp: bits [40:10] of the timestamp. -/
def Shared.tick (g : Shared) : BitVec 31 := BitVec.ofNat 31 (g.now / 1024)

/-- TMO. -/
def timedOut (g : Shared) (a : W32) (imm : BitVec 19) : W32 :=
  if !a.getLsbD 31 || decide (imm.toNat < (g.tick - a.setWidth 31).toNat) then 1 else 0

/-- A branch condition (Table 10-4). -/
def branchTaken (cond : BitVec 3) (a b : W32) : Bool :=
  match cond.toNat with
  | 0 => a == b | 1 => a != b | 2 => a.slt b | 3 => !a.slt b | 4 => a.ult b | 5 => !a.ult b | _ => true

/-! ### WAIT (R276) -/

/-- Tick t has passed. -/
def tickPassed (g : Shared) (t : W32) : Bool := decide ((g.tick - t.setWidth 31).toNat < 2 ^ 30)

/-- What ends a WAIT now: the lowest enabled latch that is set, or 4 for the tick. -/
def waitEnds (g : Shared) (h : Sheep) (w : WaitOp) : Option Nat :=
  match (List.range 4).find? fun b => (h.latch &&& w.mask).getLsbD b with
  | some b => some b
  | none => if tickPassed g w.tick then some 4 else none

/-- A WAIT that has ended: g[D], the latch it reports, and the next instruction. -/
def State.endWait (s : State) (w : WaitOp) (b : Nat) : State :=
  (s.updSheep fun h => { (h.put w.d (BitVec.ofNat 32 b)) with
    wait := none, latch := if b < 4 then h.latch &&& ~~~(1#4 <<< b) else h.latch }).nextPc.haltHere w.halt

/-- A WAIT begins, and ends at once when it can. -/
def State.beginWait (s : State) (w : WaitOp) : State :=
  match waitEnds s.sh s.kn.sheep w with
  | some b => s.endWait w b
  | none => s.updSheep fun h => { h with wait := some w }

/-- WAIT_END. -/
def State.waitOver (s : State) : State :=
  match s.kn.sheep.wait with
  | none => s
  | some w =>
    if s.kn.on && !s.frozen && s.kn.sheep.runState == 1 then
      match waitEnds s.sh s.kn.sheep w with
      | some b => s.endWait w b
      | none => s
    else s

/-! ### LD, ST and STP (R271, R272, R278) -/

/-- A half of a 64-bit word. -/
def halfOf (v : Word) (hi : Bool) : W32 := if hi then (v >>> 32).setWidth 32 else v.setWidth 32
/-- A half replaced. -/
def setHalf (v : Word) (hi : Bool) (x : W32) : Word := if hi then setFld v 63 32 x.toNat else setFld v 31 0 x.toNat

/-- A data memory word read, corrected and written back when it needs it; none when uncorrectable (R272). -/
def Sheep.dread (h : Sheep) (i : Nat) : Option (Sheep × Word) :=
  match KMem.readC h.dmem i with
  | (.clean, v) => some (h, v)
  | (.corrected, v) => some ({ h with dmem := KMem.writeD h.dmem i v, corr := satInc h.corr }, v)
  | _ => none

/-- LD: a word of Table 10-2. The identity and life data of the store are not laid out word by word, and a store word that does not
decode has no stated value: free values (log entry 6). -/
def State.load (s : State) (d : GReg) (a : Nat) : State :=
  if a < 0x1000 then
    match s.kn.sheep.dread (a / 2) with
    | none => s.sheepFault .memory
    | some (h, v) => (s.updSheep fun _ => h.put d (halfOf v (a % 2 == 1))).nextPc
  else if 0x10000 ≤ a ∧ a < 0x10010 then
    (s.updSheep fun h => h.put d (halfOf (s.kn.mbox.getD ((a - 0x10000) / 2) 0) (a % 2 == 1))).nextPc
  else if 0x1000000 ≤ a ∧ a < 0x1200000 then
    let i := (a - 0x1000000) / 2
    let r := s.kn.storeRead i
    let open_ := (0x400000 / 8 ≤ i ∧ i < 0x410000 / 8) || !r.1.usable
    let v := if open_ then Config.freeWord (s.kn.fv * 2 ^ 34 + i) else r.2
    let s := if open_ then s.updKn fun k => { k with fv := k.fv + 1 } else s
    (s.updSheep fun h => h.put d (halfOf v (a % 2 == 1))).nextPc
  else s.sheepFault .address

/-- ST. A store to SHD_MBOX counts as software for R8: of two writes in one cycle the later stands (DESIGN CHOICE, log entry 68). -/
def State.store (s : State) (d : GReg) (a : Nat) : State :=
  let x := s.kn.sheep.get d
  if a < 0x1000 then
    match s.kn.sheep.dread (a / 2) with
    | none => s.sheepFault .memory
    | some (h, v) => (s.updSheep fun _ => { h with dmem := KMem.writeD h.dmem (a / 2) (setHalf v (a % 2 == 1) x) }).nextPc
  else if 0x10000 ≤ a ∧ a < 0x10010 then
    (s.updKn fun k => { k with mbox := k.mbox.modify ((a - 0x10000) / 2) fun v => setHalf v (a % 2 == 1) x }).nextPc
  else s.sheepFault .address

/-- STP: the store follows the fetch of the next instruction (R278). -/
def State.storeProg (s : State) (d a : GReg) (imm : BitVec 19) : State :=
  let h := s.kn.sheep
  let i := ((h.get a).toNat + imm.toNat) % 4096
  let code : BitVec 36 := (h.get d).setWidth 4 ++ h.get (d + 1)
  let ins : PIns := { code := code, par := parity64 (code.setWidth 64) }
  s.nextPc.updSheep fun h => { h with prog0 := tset {} h.prog0 i ins, prog1 := tset {} h.prog1 i ins }

/-! ### SAMPLE (R283, Table 10-7) -/

/-- A defined source. -/
def sourceOk (cls idx : Nat) : Bool :=
  match cls with
  | 0 => decide (idx < 24) | 1 => decide (idx < 66) | 2 => decide (idx < 66) | 3 => decide (idx < 66) | 4 => decide (idx < 66)
  | 5 => decide (idx < 66) | 6 => decide (idx < 16) && idx % 4 != 3 | 7 => decide (idx < 64) | 8 => decide (idx < 3)
  | _ => false

/-- A source's value, VALID and tick stamp. -/
def State.sample (s : State) (cls idx : Nat) : W32 × Bool × BitVec 31 :=
  let now := s.sh.tick
  let e := (s.slice idx).epRead
  match cls with
  | 0 => let t := s.kn.temps.getD idx {}; (t.val, t.fresh s.sh.now, t.stamp)
  | 1 => (e.adm, e.ok, e.stamp)
  | 2 => (e.chg, e.ok, e.stamp)
  | 3 => (e.dfr, e.ok, e.stamp)
  | 4 => (e.rem, e.ok, e.stamp)
  | 5 => (BitVec.ofNat 32 (s.slice idx).pwr.code, true, now)
  | 6 => let r := (s.kn.regs.getD (idx / 4) {}).rd.getD (idx % 4) {}; (r.val, r.ok, r.stamp)
  | 7 => (BitVec.ofNat 32 (tget 0 s.kn.rate idx), s.pins.dormant, if s.pins.dormant then now else s.kn.rateEnd)
  | _ =>
    if idx = 0 then (now.setWidth 32, true, now)
    else if idx = 1 then ((if s.pins.sysIdle then 1 else 0), true, now)
    else ((if s.pins.thermTrip then 1 else 0), true, now)

/-- SAMPLE. -/
def State.sampleOp (s : State) (d : GReg) (imm : BitVec 19) : State :=
  let (v, ok, st) := s.sample (fld imm 11 8) (fld imm 7 0)
  (s.updSheep fun h => (h.put d v).put (d + 1) (BitVec.ofBool ok ++ st)).nextPc

/-! ### Actions (R286, R287, Table 10-8) -/

/-- Modes in which a GRANT is accepted. -/
def State.grantMode (s : State) : Bool := s.sh.mode == .run || s.sh.mode == .drain || s.sh.mode == .recover

/-- GRANT: a write of SLC_EGRANT, and its status. A value that software wrote in the same cycle is kept (R8; log entry 68). -/
def State.grantTo (s : State) (n : Nat) (v : Nat) : State × W32 :=
  if s.grantMode && (s.slice n).active && decide (n < 66) then
    (s.updSlice n fun x => if x.egrantAt == some s.sh.now then x
      else { x with egrant := put (v % 2 ^ 24) 0, stale := 0, grantW := true }, 0)
  else (s, 1)

/-- PWR: a transition of Table 11-5 for a spare slice, or in DORMANT. -/
def State.power (s : State) (n want : Nat) : State × W32 :=
  let x := s.slice n
  let spare := s.usable n && !x.active && !x.failed && !x.sink && !(s.ctl.rcv.step != 0 && s.ctl.rcv.newp.toNat == n)
  if 66 ≤ n || !(spare || (s.sh.mode == .dormant && x.active)) then (s, 1)
  else
    let go := fun (p : Pwr) => (s.updSlice n fun x => { x with pwr := p }, (0 : W32))
    match x.pwr, want with
    | .off, 0 => (s, 0)
    | .retained, 1 => (s, 0)
    | .on, 2 => (s, 0)
    | .off, 2 => if x.active && !(s.ctl.ms.step == 6 && decide (railOf n < s.ctl.ms.rails.length)) then (s, 1) else go .settling
    | .on, 0 => if x.quiet then go .toOff else (s, 1)
    | .on, 1 => if x.quiet then go .toRet else (s, 1)
    | .retained, 2 => go .fromRet
    | _, _ => (s, 1)

/-- CLK: a ceiling of an island. -/
def State.ceiling (s : State) (n mhz : Nat) : State × W32 :=
  if (n < 66 ∧ 800 ≤ mhz ∧ mhz ≤ 2400) ∨ ((n = 66 ∨ n = 67) ∧ 500 ≤ mhz ∧ mhz ≤ 1000) then
    (s.updCtl fun c => { c with ceil := c.ceil.set n mhz }, 0)
  else (s, 1)

/-- BARK: a Sheepdog source with its event data. -/
def State.sheepBark (s : State) (src : Nat) (v : W32) : State :=
  s.knlEvent 10 4 [put src 0 ||| (v.setWidth 64 <<< 32)] (832 + src)

/-- Four registers from g[a] as two words. -/
def Sheep.four (h : Sheep) (a : GReg) : Word × Word := (h.pair a, h.pair (a + 2))

/-- KST: a record to the log or to a slot, with the time of its execution (R287). -/
def State.kstOp (s : State) (a : GReg) (dest : KDest) (typ : BitVec 8) : State :=
  let (lo, hi) := s.kn.sheep.four a
  (s.updKn fun k => k.enqueue s.sh.now { dest := dest, typ := typ, at_ := BitVec.ofNat 64 s.sh.now, lo := lo, hi := hi }).nextPc

/-- A REG ends with its response: pair D takes the data of a read, then B the status, which also stands when B lies in D (R275; DEDUCED,
log entry 23). A REG that has restarted the Sheepdog is no more. -/
def State.regDone (s : State) (r : RpRsp) : State :=
  match s.kn.sheep.regWait with
  | none => s
  | some op =>
    let s := s.updSheep fun h => ({ (if op.wr then h else h.putPair op.d r.data) with regWait := none }).put op.b (if r.err then 1 else 0)
    s.nextPc.haltHere op.halt

/-- REG: an access through the register decoder; it stalls while the decoder cannot take it, and until its response (R279, R559, R560). What
it leaves in D and B is `State.regDone` (DEDUCED, log entry 23). -/
def State.regOp (s : State) (d a b : GReg) (wr : Bool) : State :=
  let o := fld (s.kn.sheep.get a) 19 0
  if o % 8 ≠ 0 ∨ 0x80000 ≤ o then s.sheepFault .reserved
  else
    let op := s.kn.sheep.regWait.getD { d := d, a := a, b := b, wr := wr }
    let acc := acc8 wr (if wr then o else o + 0x80000) 0 (s.kn.sheep.pair d)
    if s.waitsTurn .sheep acc then (s.updSheep fun h => { h with regWait := some op }).takenBy .sheep acc
    else
      let x := (s.updSheep fun h => { h with regWait := some op }).access .sheep acc
      let s := (x.1.keepRsp .sheep x.2.1 x.2.2).updRp fun p => { p with taken := none }
      if x.2.2.isEmpty then s.regDone x.2.1 else s

/-! ### What goes on when an event has happened (R325, R505, R559, R560) -/

/-- A REG that waits is tried again; one whose Sheepdog has been restarted is no more. -/
def State.regPoll (s : State) : State :=
  match s.kn.sheep.regWait with
  | some op => if s.sheepRuns then s.regOp op.d op.a op.b op.wr else s
  | none => if s.ctl.rp.taken = some .sheep then s.updRp fun p => { p with taken := none } else s

/-- The access that the decoder has taken already goes first. -/
def State.takenPoll (s : State) : State :=
  match s.ctl.rp.taken with
  | some .sheep => s.regPoll
  | some .tap => s.dbgPoll
  | _ => s

/-- A response that waited for slices in replay is returned once none of them is (R560). -/
def State.payOwed (s : State) : State :=
  match s.ctl.rp.owed with
  | none => s
  | some o =>
    if o.slices.any fun n => (s.slice n).replay then s
    else
      let s := s.updRp fun p => { p with owed := none, rsp := if o.src = .port then p.rsp ++ [o.rsp] else p.rsp }
      if o.src = .sheep then s.regDone o.rsp else s

/-- Whatever waited for the event that has just happened goes on: an owed response, then the port's accesses, the Sheepdog's REG and the
TAP's DBGDR (R559). Nothing does while Xejan is frozen (R505). -/
def State.release (s : State) : State := if s.frozen then s else s.payOwed.takenPoll.drainHeld.regPoll.dbgPoll

/-! ### The ROM safe program (R282, R288) -/

/-- derate of a temperature in 1/16 °C with TJ_SOFT 95 °C and TJ_HARD 105 °C (R288, Table 10-9). -/
def derate (t : Int) : Nat := (min 256 (max 0 ((1680 - t) * 256 / 160))).toNat

/-- The hottest sensor with a valid reading. -/
def State.hottest (s : State) : Option Int :=
  (s.kn.temps.filter fun t => t.fresh s.sh.now).foldl (fun m t => match m with | none => some t.val.toInt | some x => some (max x t.val.toInt)) none

/-- The ROM safe program's work of one epoch: grants, ceilings, and the thermal sources of the factory program, whose
event data is the temperature, or the index of a lost sensor (DEDUCED, log entry 24). -/
def State.romEpoch (s : State) : State :=
  if s.kn.on && s.kn.sheep.runState == 2 && !s.kn.sheep.halted then
    let hot := s.hottest
    let d := match hot with | some t => derate t | none => 256
    let v := fld s.sh.esafe 23 0 * d / 256
    let s := s.actives.foldl (fun s n => (s.grantTo n v).1) s
    let s := s.updCtl fun c => { c with ceil := List.replicate 66 2000 ++ c.ceil.drop 66 }
    let miss := (s.kn.temps.zip s.kn.sheep.romMiss).map fun x => if x.1.fresh s.sh.now then 0 else x.2 + 1
    let s := s.updSheep fun h => { h with romMiss := miss.map fun m => Nat.min m 4 }
    let s := ((List.range 24).filter fun i => miss.getD i 0 == 3).foldl (fun s i => s.sheepBark 2 (BitVec.ofNat 32 i)) s
    match hot with
    | none => s
    | some t =>
      let old := s.kn.sheep.romDeb
      let new := debounce old (decide (1520 < t)) 3
      let s := s.updSheep fun h => { h with romDeb := new }
      let s := if new.getLsbD 31 && !old.getLsbD 31 then s.sheepBark 0 (BitVec.ofInt 32 t) else s
      if 1680 ≤ t then s.sheepBark 1 (BitVec.ofInt 32 t) else s
  else s

/-- EPOCH_BOUNDARY (R254, R276, R282), at a multiple of the running epoch's LEN that has come since the last one; a written LEN holds from
then on (Table 9-8): every slice's readings and grant, the Kennel's tokens (R524), the latch of WAIT bit 0, and the ROM safe program's work.
-/
def State.epochBoundary (s : State) : State :=
  let len := s.ctl.epLen * 1000
  if s.sh.mode = .engrave ∨ len = 0 ∨ s.sh.now / len * len ≤ s.ctl.epochAt then s else
  let s := s.updCtl fun c => { c with epochAt := s.sh.now / len * len, epLen := fld s.sh.epoch 6 0 }
  let g := s.sh
  let s := s.mapSlices fun _ x => x.epochRead g
  let s := s.onAll fun w => w.epoch g
  let s := if s.kn.on then s.kennelTokens else s
  let s := s.updSheep fun h => { h with latch := h.latch ||| 1 }
  s.romEpoch

end Sys2Proof.Machine
end

