-- ==== Sys2Proof/Machine/RecoveryCmds.lean ====
section
/-! DEFINITION. Replay, failed slices, substitution, dead agents, retirement and pack reset as commands (R427 to R451). -/

namespace Sys2Proof.Machine

/-- CONTROL_LOGIC_FAULT (R427, R431): `cause` as Table 14-13 codes it; `unaccepted` names the live records whose messages the network
interface had not fully accepted (log entry 12). -/
def execControlLogicFault (n : Fin 66) (cause : BitVec 8) (unaccepted : List (BitVec 12)) (s : State) : Res :=
  .next (s.unlessFrozen fun s =>
    if (s.slice n).sink || (s.slice n).dead then s
    else (s.onSlice n fun w => w.controlFault s.sh cause (unaccepted.map (·.toNat))).release)

/-- REPLAY_DONE (R429, R430). The replay of a spare ends by its own command. -/
def execReplayDone (n : Fin 66) (s : State) : Res :=
  .next (s.unlessFrozen fun s =>
    if s.ctl.rcv.step = 5 ∧ s.spare = n.val then s else ((s.onSlice n fun w => w.replayDone s.sh).takeLate n).release)

/-- REPLAY_OVERRUN (R431). -/
def execReplayOverrun (n : Fin 66) (s : State) : Res :=
  .next (s.unlessFrozen fun s => (s.onSlice n fun w => w.replayOverrun s.sh).release)

/-- SLICE_LINK_CHANNEL_TIMEOUT (R441). -/
def execSliceLinkChannelTimeout (n : Fin 66) (s : State) : Res :=
  .next (s.unlessFrozen fun s => if (s.slice n).up then (s.failSlice n).release else s)

/-- NETWORK_INTERFACE_FAULT (R427). -/
def execNetworkInterfaceFault (n : Fin 66) (s : State) : Res :=
  .next (s.unlessFrozen fun s => if (s.slice n).up then (s.failSlice n).release else s)

/-- SPARE_READY (R442). -/
def execSpareReady (s : State) : Res := .next (s.unlessFrozen fun s => s.spareReady.release)
/-- SUBSTITUTION_COPY_DONE (R442). -/
def execSubstitutionCopyDone (s : State) : Res := .next (s.unlessFrozen fun s => s.copyDone.release)
/-- SUBSTITUTION_MAP_DONE (R442). -/
def execSubstitutionMapDone (s : State) : Res := .next (s.unlessFrozen fun s => s.mapDone.release)
/-- SUBSTITUTION_REPLAY_DONE (R442). -/
def execSubstitutionReplayDone (s : State) : Res := .next (s.unlessFrozen fun s => (s.substReplayDone.takeLate s.spare).release)
/-- RECOVER_END (R442). -/
def execRecoverEnd (s : State) : Res := .next (s.unlessFrozen fun s => s.recoverEnd.release)

/-- DEAD_WALK_DONE (R447, R449). -/
def execDeadWalkDone (s : State) : Res := .next (s.unlessFrozen fun s => if s.sh.stop then s else s.deadWalkDone)

/-- PRT_RETIRE (R450): a write of PRT_RETIRE of agent a. -/
def execPrtRetire (tag : BitVec 8) (a : Fin 512) (v : Word) (s : State) : Res :=
  .next (s.portAccess (acc8 true (0x60038 + 0x40 * a.val) tag v))
/-- RETIREMENT_DONE (R450). -/
def execRetirementDone (a : Fin 512) (s : State) : Res := .next (s.unlessFrozen fun s => s.retireDone a)

/-- PCK_RESET (R451): a write of PCK_RESET of pack p. -/
def execPckReset (tag : BitVec 8) (p : Fin 16) (v : Word) (s : State) : Res :=
  .next (s.portAccess (acc8 true (0x680C8 + 0x100 * p.val) tag v))
/-- PACK_RESET_DRAINED (R451). -/
def execPackResetDrained (p : Fin 16) (s : State) : Res := .next (s.unlessFrozen fun s => s.packResetDrained p)
/-- PACK_RESET_WALK_DONE (R451). -/
def execPackResetWalkDone (p : Fin 16) (s : State) : Res := .next (s.unlessFrozen fun s => s.packResetWalkDone p)

/-- SLC_RPL_CMD_FORCE (R427). -/
def execSlcRplCmdForce (tag : BitVec 8) (n : Fin 66) (s : State) : Res :=
  .next (s.portAccess (acc8 true (0x10328 + 0x1000 * n.val) tag 1))

/-- PCK_FENCE (R49): a write of PCK_FENCE of pack p. -/
def execPckFence (tag : BitVec 8) (p : Fin 16) (v : Word) (s : State) : Res :=
  .next (s.portAccess (acc8 true (0x680C0 + 0x100 * p.val) tag v))
/-- FENCE_DONE (R51). -/
def execFenceDone (p : Fin 16) (s : State) : Res := .next (s.unlessFrozen fun s => s.fenceDone p)

end Sys2Proof.Machine
end

