-- ==== Sys2Proof/Machine/KennelSvc.lean ====
section
/-! DEFINITION. The Kennel's own work: boot, calibration, the store, the sensors and regulators, scrub and life records (R283 to R285,
R296 to R302, R331, R392, R403, R573), the control island's switching on (R325), slow islands (R305), the interrupt output (R542, R543)
and the debug array read (R513). -/

namespace Sys2Proof.Machine

/-! ### Boot (Table 11-10 steps 3 to 5) -/

/-- The Kennel's boot goes to a step of its own; while a cold reset is held GLB_MODE shows PHASE 0 (R340). -/
def State.bootStep (s : State) (n phase : Nat) : State := s.updMs fun m => { m with step := n, phase := if s.pins.coldRst then 0 else phase }

/-- BOOT_ROM_DONE: data memory and the Scent table are filled; the fuse map is read next. -/
def State.bootRomDone (s : State) : State :=
  if s.kn.on && s.sh.mode == .engrave && s.ctl.ms.step == 1 then
    let s := s.updSheep fun h => { h with dmem := [] }
    let s := s.updKn Kennel.clearScent
    s.bootStep 2 1
  else s

/-- A fuse word is uncorrectable in both copies. -/
def Kennel.fuseLost (k : Kennel) (i : Nat) : Bool :=
  let bad := fun (q : Nat) => !(classify (tget ⟨0, 0⟩ k.fuse q) 0).1.usable
  bad i && bad (4096 + i)

/-- Two repair entries name the same bank and spare, or the same bank and row, of a slice. -/
def repairsClash : List (Nat × Nat × Nat × Nat) → Bool
  | [] => false
  | e :: l => (l.any fun x => x.1 == e.1 && x.2.1 == e.2.1 && (x.2.2.1 == e.2.2.1 || x.2.2.2 == e.2.2.2)) || repairsClash l

/-- The fuse map stops start-up (R403): a word other than a key digest's or a revoke word is lost, or repair entries clash. -/
def Kennel.fuseBad (k : Kennel) : Bool :=
  ((k.fuse.map (·.1 % 4096)).eraseDups.any fun i => !(decide (16 ≤ i) && decide (i < 36)) && k.fuseLost i) || repairsClash k.fuseRepairs

/-- FUSE_MAP_READ. -/
def State.fuseMapRead (s : State) : State :=
  if s.kn.on && s.sh.mode == .engrave && s.ctl.ms.step == 2 && !s.kn.fuseFault then
    if s.kn.fuseBad then s.updKn fun k => { k with fuseFault := true } else s.bootStep 3 2
  else s

/-- The words of the calibration set in a half, from its first. -/
def Kennel.calHalf (k : Kennel) (b : Bool) : List (RdClass × Word) :=
  (List.range 307).map fun i => k.storeRead (calBase + (if b then 4096 else 0) + i)

/-- SEQ of a half whose length and CRC match (R300). -/
def calSeq (ws : List (RdClass × Word)) : Option Nat :=
  let v := ws.map (·.2)
  if ws.all (·.1.usable) && fld (v.getD 1 0) 47 32 == 307 && fld (v.getD 1 0) 31 0 == (wordCrc (v.drop 2)).toNat then some (fld (v.getD 0 0) 31 0)
  else none

/-- The current half of the calibration range (R300). -/
def Kennel.calCur (k : Kennel) : Option Bool :=
  let seq := fun (b : Bool) => if k.cal.torn = some b then none else calSeq (k.calHalf b)
  match seq false, seq true with
  | some a, some b => some (decide (a < b))
  | some _, none => some false
  | none, some _ => some true
  | none, none => none

/-- CALIBRATION_CHECK: the current set checked and used, or rejected for the ROM defaults (R302). The set in use then has no CRC or
version that the specification states: free values (log entry 6). The CRC that the record names when no half matches is that of the half
with the higher SEQ (DEDUCED, log entry 44). -/
def State.calibrationCheck (s : State) : State :=
  if s.kn.on && s.sh.mode == .engrave && s.ctl.ms.step == 3 then
    let k := s.kn
    let v := fun (b : Bool) => (k.calHalf b).map (·.2)
    let higher := decide (fld ((v false).getD 0 0) 31 0 < fld ((v true).getD 0 0) 31 0)
    let half := k.calCur.getD higher
    let ws := v half
    let crc : BitVec 32 := (ws.getD 1 0).setWidth 32
    let good := k.calCur.isSome && calRanges (ws.drop 2)
    let s := (s.storeUsed calBase 307).storeUsed (calBase + 4096) 307
    let s := s.updKn fun k => { k with
      booted := true
      cal := if good then
          { torn := k.cal.torn, crc := crc, ver := BitVec.ofNat 16 (fld (ws.getD 0 0) 47 32), romdef := false, fact := crc == (k.fuseWord 3).setWidth 32,
            half := half, sens := (ws.drop 3).take 24, delay := (ws.drop 106).take 201 }
        else
          { crc := (Config.freeWord (k.fv * 2 ^ 34 + 2 ^ 33 + 2)).setWidth 32, ver := (Config.freeWord (k.fv * 2 ^ 34 + 2 ^ 33 + 3)).setWidth 16,
            romdef := true, fact := false, half := half }
      fv := if good then k.fv else k.fv + 1 }
    let s := s.bootStep (if s.pins.coldRst then 0 else 4) 3
    if good then s else s.knlEvent 10 3 [crc.setWidth 64] 851
  else s

/-- The boot that a cold reset cut short, made up at its release (R339; log entry 52). -/
def State.bootRest (s : State) : State := if s.kn.booted then s else s.bootRomDone.fuseMapRead.calibrationCheck

/-- CONTROL_ISLAND_READY (R325, R326, R585): the slice link comes on with it, but for an access in DORMANT; the
queued Bark events are delivered, the open block ages on (R487), and what waited for the island goes on. -/
def State.islandReady (s : State) : State :=
  if s.islandWanted then
    let s := s.updCtl fun c => { c with on := true, lnk := s.sh.mode != .dormant || s.ctl.ms.step == 6, idleAt := s.sh.now }
    let s := s.updLdg fun l => { l with openAt := l.openAt + (s.sh.now - l.offAt) }
    s.deliverBarks.release
  else s

/-! ### The Kennel store (R298, R299) -/

/-- A word stored at index i, in the block that stands for it; every word programmed is counted for wear (R573). -/
def Kennel.storePut (k : Kennel) (i : Nat) (w : W72) : Kennel := { k with store := KMem.write k.store (k.storeAt i) w, wear := k.wear + 1 }

/-- The readable words of a block copied to a reserve block (R299). -/
def Kennel.copyBlock (k : Kennel) (blk r : Nat) : Kennel :=
  (List.range 512).foldl (fun k j =>
    let x := k.storeRead (512 * blk + j)
    if x.1.usable then { k with store := KMem.writeD k.store (0x700000 / 8 + 512 * r + j) x.2, wear := k.wear + 1 } else k) k

/-- The words of the overwritten calibration half are in (R301): the CRC is verified and the header written, or the overwrite ends. -/
def State.calibWords (s : State) : State :=
  let k := s.kn
  let b := !k.cal.half
  let base := calBase + (if b then 4096 else 0)
  let ws := (k.calHalf b).drop 2
  let img := k.cal.due
  let s := s.storeUsed base 307
  if ws.all (·.1.usable) && fld (img.getD 1 0) 31 0 == (wordCrc (ws.map (·.2))).toNat then
    let seq := fld (k.storeRead (calBase + (if k.cal.half then 4096 else 0))).2 31 0 + 1
    s.updKn fun k => { k with prog := k.prog ++
      [{ idx := base + 1, data := img.getD 1 0, why := .calibHead },
       { idx := base, data := put (fld (img.getD 0 0) 47 32) 32 ||| put (seq % 2 ^ 32) 0, why := .calibHead }] }
  else s.updKn fun k => { k with cal := { k.cal with due := [] } }

/-- The header of the new set is written: the other half is cleared to zero, and the set is pending (R301). -/
def State.calibHeader (s : State) : State :=
  s.updKn fun k =>
    let old := calBase + (if k.cal.half then 4096 else 0)
    let k := (List.range 4096).foldl (fun k j => k.storePut (old + j) (encode72 0 (k.storeAt (old + j) % 32768))) k
    { k with cal := { k.cal with pend := true, pendCrc := (k.cal.due.getD 1 0).setWidth 32, due := [], half := !k.cal.half, torn := none } }

/-- What follows a word that has been programmed and verified. -/
def State.wordDone (s : State) (p : PWord) : State :=
  let none_ := fun (w : PWhy) => !s.kn.prog.any (·.why == w)
  match p.why with
  | .log => s.updKn (·.pump s.sh.now)
  | .slot _ => s.updKn (·.pump s.sh.now)
  | .plate => s
  | .calib => if none_ .calib then s.calibWords else s
  | .calibHead => if none_ .calibHead then s.calibHeader else s
  | .overlay _ _ _ _ => s
  | .slotRec b => if none_ p.why then s.plateCurrent b else s
  | .floorRec f => if none_ p.why then s.updPlate fun q => { q with floor := f } else s
  | .life => s

/-- What follows a word whose block cannot be written any more and has no reserve block (R299): a plate's, its slot record's and a
calibration set's words fail with code 0x0D (for the set, FWORD counts from its half's first word, and for the record it is the low bits of
its place: DEDUCED, log entry 72); a log record is dropped and the next one takes its SEQ
(DESIGN CHOICE, log entry 97). -/
def State.wordLost (s : State) (p : PWord) : State :=
  match p.why with
  | .plate => s.installFail (.error (0x0D, 0, p.idx % 262144) : Chk12 Unit)
  | .calib | .calibHead =>
    let s := s.updKn fun k => { k with prog := k.prog.filter fun x => x.why != .calib && x.why != .calibHead, cal := { k.cal with due := [] } }
    (s.updPlate fun q => { q with vcode := 0x0D, stype := 0x20, fword := BitVec.ofNat 18 (p.idx % 4096) }).plateNote s.kn.plate.infSlot false
  | .slotRec _ => s.installFail (.error (0x0D, 0, p.idx % 262144) : Chk12 Unit)
  | .floorRec _ => s.updKn fun k => k.identLost 1 p.why
  | .life => s.updKn fun k => k.identLost 2 p.why
  | .log =>
    (s.updKn fun k => { k with prog := k.prog.filter (·.why != p.why), logSeq := k.logSeq - 1 }).updKn (·.pump s.sh.now)
  | .slot n =>
    (s.updKn fun k => { k with prog := k.prog.filter (·.why != p.why), slotSeq := tset 0 k.slotSeq n.toNat (tget 0 k.slotSeq n.toNat - 1) }).updKn (·.pump s.sh.now)
  | .overlay _ _ _ _ => s.updKn fun k => { k with prog := k.prog.filter (· != p) }

/-- Block `blk` stands in reserve block `r` from now on, and word `p` is programmed there. -/
def Kennel.remapped (k : Kennel) (blk r : Nat) (p : PWord) : Kennel :=
  { k with remap := (blk, r) :: k.remap, fv := k.fv + 1, prog := k.prog.map fun x => if x == p then { x with tries := 0 } else x }

/-- The second failure of a word: its block is remapped, or has failed for good (R299). A free reserve block is chosen freely (log entry
3). The word is then programmed in the block that stands for it. -/
def State.remapBlock (s : State) (p : PWord) : State :=
  let k := s.kn
  let blk := p.idx / 512
  match pick k.fv (freeNos 0 256 (k.remap.map (·.2))) with
  | some r =>
    (s.updKn fun k => (k.copyBlock blk r).remapped blk r p).kst 5 [put blk 0 ||| put r 32]
  | none => ((s.updKn fun k => { k with dead := blk :: k.dead }).bark 850).wordLost p

/-- STORE_WORD_PROGRAMMED: the word is verified (R299). A word that fails its verify holds a value that the specification does not
state (log entry 6). -/
def State.wordProgrammed (s : State) (ok : Bool) : State :=
  if !s.kn.on then s
  else match s.kn.nextWord with
    | none => s
    | some p =>
      if s.kn.blockDead p.idx then s.wordLost p
      else if ok then
        let s := s.updKn fun k => (k.storePut p.idx (encode72 p.data (k.storeAt p.idx % 32768)))
        (s.updKn fun k => { k with prog := k.prog.erase p }).wordDone p
      else
        let s := s.updKn fun k =>
          let a := k.fv * 2 ^ 34 + 2 ^ 33
          { k.storePut p.idx ⟨Config.freeWord (a + 4), (Config.freeWord (a + 5)).setWidth 8⟩ with fv := k.fv + 1 }
        if p.tries = 0 then s.updKn fun k => { k with prog := k.prog.map fun x => if x == p then { x with tries := 1 } else x }
        else s.remapBlock p

/-- CALIB_OVERWRITE: after credit wave 7 the words after the header are written into the half that is not current (R301, R364). -/
def State.calibOverwrite (s : State) : State :=
  let k := s.kn
  if k.on && s.ctl.ms.waves == 8 && !k.cal.due.isEmpty && !k.prog.any (fun p => p.why == .calib || p.why == .calibHead) then
    let base := calBase + (if k.cal.half then 0 else 4096)
    let new : List PWord := ((k.cal.due.drop 2).zipIdx.map fun x => { idx := base + 2 + x.2, data := x.1, why := .calib })
    s.updKn fun k => { k with prog := k.prog ++ new }
  else s

/-! ### Sensors and regulators (R283 to R285) -/

/-- THERMAL_CONVERSION: a reading corrected by the set in use, or as it is when untrimmed (log entry 5); WAIT event 3. -/
def State.thermalConversion (s : State) (i : Nat) (raw : BitVec 16) : State :=
  if !s.kn.on then s
  else
    let t : BitVec 16 := match s.kn.cal.sens[i]? with | some w => Config.thermalCorrect i raw w | none => raw
    let ok := decide (-640 ≤ t.toInt) && decide (t.toInt ≤ 2400)
    let now := s.sh.now
    let s := s.updKn fun k => { k with temps := k.temps.modify i fun r =>
      if ok then { val := t.signExtend 32, stamp := s.sh.tick, at_ := now, ok := true } else { r with ok := false } }
    s.updSheep fun h => { h with latch := h.latch ||| 8 }

/-- The poll period of an enabled regulator has passed (R285). -/
def Regul.due (x : Regul) (now : Nat) : Bool := x.cfg.getLsbD 7 && decide (x.last + 1000000 * fld x.cfg 23 16 ≤ now)

/-- PMBUS_POLL: the poll of regulator r, once its period has passed (R285). The bus is one: no poll is in progress, and none of a lower
regulator is due (Table 18-10). -/
def State.pmbusPoll (s : State) (r : Nat) : State :=
  if s.kn.on && s.kn.regs.all (·.poll.isNone) && (s.kn.regs.getD r {}).due s.sh.now &&
      !(List.range r).any (fun q => (s.kn.regs.getD q {}).due s.sh.now) then
    s.updKn fun k => { k with regs := k.regs.modify r fun x => { x with poll := some (0, false), last := s.sh.now } }
  else s

/-- A value num/2^sh in whole units: exact where it is whole; the rounding is not stated (log entry 3). -/
def roundFree (fv : Nat) (num : Int) (sh : Nat) : Int :=
  if num % (2 ^ sh : Int) = 0 then num / (2 ^ sh : Int) else num / (2 ^ sh : Int) + (Config.freeNat fv % 2 : Nat)

/-- The converted value of reading k as a fraction num/2^sh: LINEAR16 in mV, LINEAR11 in mA, LINEAR11 in 1/16 °C. -/
def linear (cfg : Word) (k : Nat) (w : BitVec 16) : Int × Nat :=
  let scale := fun (m : Int) (e : Int) => if 0 ≤ e then (m * 2 ^ e.toNat, 0) else (m, (-e).toNat)
  if k = 0 then scale ((w.toNat : Int) * 1000) ((bits cfg 12 8).toInt)
  else scale ((bits w 10 0).toInt * (if k = 1 then 1000 else 16)) ((bits w 15 11).toInt)

/-- The range of reading k. -/
def linearRange (k : Nat) : Int × Int := if k = 0 then (300, 1500) else if k = 1 then (-500, 60000) else (-640, 2400)

/-- PMBUS_READ_DONE: one reading of the poll in progress; the third ends it (R285). -/
def State.pmbusDone (s : State) (r : Nat) (ok : Bool) (w : BitVec 16) : State :=
  let x := s.kn.regs.getD r {}
  match x.poll with
  | none => s
  | some (k, bad) =>
    if !s.kn.on then s
    else
      let (num, sh) := linear x.cfg k w
      let (lo, hi) := linearRange k
      let good := ok && decide (lo * 2 ^ sh ≤ num) && decide (num ≤ hi * 2 ^ sh)
      let v := roundFree s.kn.fv num sh
      let v := if k = 1 ∧ v < 0 then 0 else v
      let rd := x.rd.modify k fun y => if good then { val := BitVec.ofInt 32 v, stamp := s.sh.tick, at_ := s.sh.now, ok := true } else { y with ok := false }
      let bad := bad || !good
      let fails := if k = 2 then (if bad then satInc x.fails else 0) else x.fails
      let x' := { x with rd := rd, fails := fails, poll := if k = 2 then none else some (k + 1, bad) }
      let s := s.updKn fun kn => { kn with regs := kn.regs.set r x', fv := kn.fv + 1 }
      if k = 2 ∧ bad ∧ fails = 3 then s.knlEvent 10 2 [put r 0 ||| put fails.toNat 8] 849 else s

/-! ### Scrub, life records (R392, R573) -/

/-- The words of a memory that need correction, by index. -/
def KMem.toFix (m : KMem) : List (Nat × Word) :=
  m.filterMap fun x => match KMem.readC m x.1 with | (.corrected, d) => some (x.1, d) | _ => none

/-- A memory with its corrected words written back. -/
def KMem.fixed (m : KMem) : KMem := m.toFix.foldl (fun m x => KMem.writeD m x.1 x.2) m

/-- The two copies of the program store compared (R273): a copy that fails its parity is rewritten from the other. -/
def Sheep.fixProg (h : Sheep) : Sheep :=
  ((h.prog0.map (·.1)) ++ (h.prog1.map (·.1))).eraseDups.foldl (fun h i =>
    let a : PIns := tget {} h.prog0 i
    let b : PIns := tget {} h.prog1 i
    if a.good && !b.good then { h with prog1 := tset {} h.prog1 i a, corr := satInc h.corr }
    else if !a.good && b.good then { h with prog0 := tset {} h.prog0 i b, corr := satInc h.corr }
    else h) h

/-- The daily read of the Kennel store: a corrected word is rewritten, at most once per day. -/
def State.storeScrub (s : State) : State :=
  if s.sh.now < s.kn.storeScrubAt + 86400000000000 then s
  else
    let now := s.sh.now
    let fix := (KMem.toFix s.kn.store).filter fun x => !s.kn.rewriteAt.any fun y => y.1 == x.1 && decide (now < y.2 + 86400000000000)
    let s := s.updKn fun k => { k with
      storeScrubAt := now, wear := k.wear + BitVec.ofNat 64 fix.length
      store := fix.foldl (fun m x => KMem.writeD m x.1 x.2) k.store
      rewriteAt := fix.map (fun x => (x.1, now)) ++ k.rewriteAt.filter fun y => decide (now < y.2 + 86400000000000) }
    s.updSheep fun h => { h with corr := satAdd h.corr fix.length }

/-- KENNEL_SCRUB: once per GLB_SCRUB.PERIOD. A corrected word of the save area is again what State holds. -/
def State.kennelScrub (s : State) : State :=
  if !s.kn.on then s
  else
    let s := if s.sh.now < s.kn.scrubAt + 1000000000 * fld s.sh.scrub 16 0 then s
      else
        let n := (KMem.toFix s.kn.sheep.dmem).length + (KMem.toFix s.kn.scent).length + (KMem.toFix s.kn.save).length
        let s := s.updSheep fun h => ({ h with dmem := KMem.fixed h.dmem, corr := satAdd h.corr n } : Sheep).fixProg
        s.updKn fun k => { k with scent := KMem.fixed k.scent, save := k.save.filter fun x => (KMem.readC k.save x.1).1 != .corrected, scrubAt := s.sh.now }
    s.storeScrub

/-- LIFE_RECORD: once per hour of power-on time (R573). -/
def State.lifeRecord (s : State) : State :=
  if s.kn.on && decide (s.kn.lifeAt + 3600000000000 ≤ s.sh.now) then s.updKn (·.lifeWrite s.sh.now) else s

/-! ### Islands (R305) -/

/-- The slice's logic is clocked: on, or filling its arrays (Tables 11-4, 11-5). -/
def Slice.clocked (x : Slice) : Bool := x.pwr == .on || x.pwr == .filling

/-- ISLAND_SLOW: island `i` below the lower end of its range for 1 µs. -/
def State.islandSlow (s : State) (i : Nat) (mhz : Nat) : State :=
  if (if i < 66 then decide (mhz < 800) && (s.slice i).clocked else decide (mhz < 500) && (if i = 66 then s.ctl.lnk else s.ctl.on)) then
    let s := if i < 66 then s.updCtl fun c => { c with slow := c.slow.modify i satInc } else s
    let u := if i < 66 then i else if i = 66 then 66 else 67
    (s.ledgerEv u 8 1 [put i 0 ||| put mhz 16]).bark (if i < 66 then 96 * 7 + i else 790 + i)
  else s

/-! ### The interrupt output (R542, R543) -/

/-- IRQ_TRANSFER: the message at the head of the queue leaves. -/
def State.irqTransfer (s : State) : State :=
  match s.ctl.brk.mq with
  | [] => s
  | m :: _ => if s.ctl.on then (s.updIrq (· ++ [m])).updBrk (·.popMq s.sh.now) else s

/-- IRQ_DROP: a message not transferred 1 ms after it reached the head. -/
def State.irqDropped (s : State) : State :=
  match s.ctl.brk.mq with
  | [] => s
  | m :: _ =>
    if s.ctl.on && decide (s.ctl.brk.mqAt + 1000000 ≤ s.sh.now) then
      ((s.updBrk fun b => { b.popMq s.sh.now with irqDrop := satInc b.irqDrop }).ledgerEv 70 2 9 [m.val.setWidth 64, m.addr.setWidth 64]).bark 859
    else s

/-! ### The debug array read (R513) -/

/-- DEBUG_ARRAY_READ: the debug path has its slot, which no phase then takes. It waits while recovery or a census step holds the slice's
slots (R247). Whether it revokes the grants that stand is its own choice (log entry 3). -/
def State.debugRead (s : State) : State :=
  match s.ctl.frz.aslot with
  | none => s
  | some (n, b, w) =>
    let x := s.slice n
    if x.pwr != .on || x.claimed s.sh || decide (0 < x.claim) then s
    else
      let a := bankAddr b w
      let s := if Config.freeNat x.fv % 2 = 1 then s.onSlice n fun w => w.revoke s.sh true else s
      let v : W72 := if heldBank b then x.heldWord n a else x.fetch a
      let s := s.updSlice n fun x => { x with fv := x.fv + 1, dslot := x.dslot + 1 }
      s.updFrz fun f => { f with
        aslot := none, adata := v.data, achk := v.chk, asyn := syndrome v a
        aclass := match (classify v a).1 with | .clean => 0 | .corrected => 1 | .poisoned => 2 | .uncorrectable => 3 }

end Sys2Proof.Machine
end

