-- ==== Sys2Proof/Machine/SheepInstrs.lean ====
section
/-! DEFINITION. The Sheepdog's instructions (R268 to R282, Table 10-5). An instruction executes when it is the one at the program
counter of a running Sheepdog; otherwise nothing happens (log entry 1). Its operands are the fields of Table 10-3. -/

namespace Sys2Proof.Machine

/-- Format I with only g[d] := v to do. -/
def State.insI (s : State) (op : Nat) (d a : GReg) (imm : BitVec 19) (bad : Option SFault) (v : Sheep → W32) : State :=
  s.instrReg (encI op d a imm) bad d v

/-- An ALU instruction: C must be zero. -/
def State.alu (s : State) (fn : Nat) (d a b c : GReg) (f : W32 → W32 → W32) : State :=
  s.instrReg (encA 1 d a b c (BitVec.ofNat 7 fn)) (badField (c == 0) false) d fun h => f (h.get a) (h.get b)

/-- The signed minimum or maximum. -/
def sMin (a b : W32) : W32 := if a.sle b then a else b
/-- The signed maximum. -/
def sMax (a b : W32) : W32 := if a.sle b then b else a
/-- The unsigned minimum. -/
def uMin (a b : W32) : W32 := if a.ule b then a else b
/-- The unsigned maximum. -/
def uMax (a b : W32) : W32 := if a.ule b then b else a
/-- A shift count: bits [4:0]. -/
def shCount (b : W32) : Nat := fld b 4 0

/-- An action with a status: g[d] := status, the next instruction. -/
def withStatus (d : GReg) (r : State × W32) : State := (r.1.updSheep fun h => h.put d r.2).nextPc

/-- ADDI (R275). -/
def execAddi (d a : GReg) (imm : BitVec 19) (s : State) : Res :=
  .next (s.insI 0 d a imm none fun h => h.get a + imm.signExtend 32)

/-- ALU_ADD, FN 0 (R275). -/
def execAluAdd (d a b c : GReg) (s : State) : Res := .next (s.alu 0 d a b c fun a b => a + b)
/-- ALU_SUB, FN 1 (R275). -/
def execAluSub (d a b c : GReg) (s : State) : Res := .next (s.alu 1 d a b c fun a b => a - b)
/-- ALU_AND, FN 2 (R275). -/
def execAluAnd (d a b c : GReg) (s : State) : Res := .next (s.alu 2 d a b c fun a b => a &&& b)
/-- ALU_OR, FN 3 (R275). -/
def execAluOr (d a b c : GReg) (s : State) : Res := .next (s.alu 3 d a b c fun a b => a ||| b)
/-- ALU_XOR, FN 4 (R275). -/
def execAluXor (d a b c : GReg) (s : State) : Res := .next (s.alu 4 d a b c fun a b => a ^^^ b)
/-- ALU_SHL, FN 5 (R275). -/
def execAluShl (d a b c : GReg) (s : State) : Res := .next (s.alu 5 d a b c fun a b => a <<< shCount b)
/-- ALU_SHR, FN 6 (R275). -/
def execAluShr (d a b c : GReg) (s : State) : Res := .next (s.alu 6 d a b c fun a b => a >>> shCount b)
/-- ALU_SAR, FN 7 (R275). -/
def execAluSar (d a b c : GReg) (s : State) : Res := .next (s.alu 7 d a b c fun a b => a.sshiftRight (shCount b))
/-- ALU_MUL, FN 8: the low 32 bits (R275). -/
def execAluMul (d a b c : GReg) (s : State) : Res := .next (s.alu 8 d a b c fun a b => a * b)
/-- ALU_MIN, FN 9 (R275). -/
def execAluMin (d a b c : GReg) (s : State) : Res := .next (s.alu 9 d a b c sMin)
/-- ALU_MAX, FN 10 (R275). -/
def execAluMax (d a b c : GReg) (s : State) : Res := .next (s.alu 10 d a b c sMax)
/-- ALU_MINU, FN 11 (R275). -/
def execAluMinu (d a b c : GReg) (s : State) : Res := .next (s.alu 11 d a b c uMin)
/-- ALU_MAXU, FN 12 (R275). -/
def execAluMaxu (d a b c : GReg) (s : State) : Res := .next (s.alu 12 d a b c uMax)

/-- LUI: A must be zero. -/
def execLui (d a : GReg) (imm : BitVec 19) (s : State) : Res :=
  .next (s.insI 2 d a imm (badField (a == 0) false) fun _ => imm.setWidth 32 <<< 13)

/-- LD (R271). -/
def execLd (d a : GReg) (imm : BitVec 19) (s : State) : Res :=
  .next (s.instr (encI 3 d a imm) none fun s => s.load d (s.kn.sheep.get a + imm.signExtend 32).toNat)

/-- ST (R271, R272). -/
def execSt (d a : GReg) (imm : BitVec 19) (s : State) : Res :=
  .next (s.instr (encI 4 d a imm) none fun s => s.store d (s.kn.sheep.get a + imm.signExtend 32).toNat)

/-- STP (R278): D names a pair. -/
def execStp (d a : GReg) (imm : BitVec 19) (s : State) : Res :=
  .next (s.instr (encI 5 d a imm) (badField (pairOk d) false) fun s => s.storeProg d a imm)

/-- BCC (Table 10-4): COND 0b111 is reserved. -/
def execBcc (a b : GReg) (cond : BitVec 3) (off : BitVec 16) (s : State) : Res :=
  .next (s.instr (encB 6 a b cond off) (badField true (cond == 7)) fun s =>
    let h := s.kn.sheep
    if branchTaken cond (h.get a) (h.get b) then s.nextAt (h.pc + off.setWidth 12) else s.nextPc)

/-- JAL: the operands are read before g[D] is written. -/
def execJal (d a : GReg) (imm : BitVec 19) (s : State) : Res :=
  .next (s.instr (encI 7 d a imm) none fun s =>
    let h := s.kn.sheep
    let tgt : BitVec 12 := BitVec.ofNat 12 ((h.get a).toNat + imm.toNat)
    (s.updSheep fun h => h.put d (BitVec.ofNat 32 (h.pc.toNat + 1))).nextAt tgt)

/-- SAMPLE (R283): A and IMM[18:12] must be zero, D a pair; a source outside Table 10-7 is reserved. -/
def execSample (d a : GReg) (imm : BitVec 19) (s : State) : Res :=
  .next (s.instr (encI 8 d a imm) (badField (pairOk d && a == 0 && fld imm 18 12 == 0) (!sourceOk (fld imm 11 8) (fld imm 7 0))) fun s =>
    s.sampleOp d imm)

/-- MED3: FN must be zero. -/
def execMed3 (d a b c : GReg) (fn : BitVec 7) (s : State) : Res :=
  .next (s.instrReg (encA 9 d a b c fn) (badField (fn == 0) false) d fun h => med3 (h.get a) (h.get b) (h.get c))

/-- IIR: IMM[18:4] must be zero. -/
def execIir (d a : GReg) (imm : BitVec 19) (s : State) : Res :=
  .next (s.insI 10 d a imm (badField (fld imm 18 4 == 0) false) fun h =>
    h.get d + (h.get a - h.get d).sshiftRight (fld imm 3 0))

/-- DEB (R277): IMM[18:16] must be zero and N at least 1 (the fault of N = 0: DEDUCED, log entry 23). -/
def execDeb (d a : GReg) (imm : BitVec 19) (s : State) : Res :=
  .next (s.insI 11 d a imm (badField (fld imm 18 16 == 0 && fld imm 15 0 != 0) false) fun h =>
    debounce (h.get d) (h.get a != 0) (fld imm 15 0))

/-- RCHK: FN 0 signed, 1 unsigned, others reserved. -/
def execRchk (d a b c : GReg) (fn : BitVec 7) (s : State) : Res :=
  .next (s.instrReg (encA 12 d a b c fn) (badField true (decide (1 < fn.toNat))) d fun h =>
    rangeCheck (h.get a) (h.get b) (h.get c) (fn == 1))

/-- TMO. -/
def execTmo (d a : GReg) (imm : BitVec 19) (s : State) : Res :=
  .next (s.insI 13 d a imm none fun h => timedOut s.sh (h.get a) imm)

/-- REG_READ, FN 0: D a pair, C zero; a bad offset is a reserved target. -/
def execRegRead (d a b c : GReg) (s : State) : Res :=
  .next (s.instr (encA 14 d a b c 0) (badField (pairOk d && c == 0) false) fun s => s.regOp d a b false)

/-- REG_WRITE, FN 1. -/
def execRegWrite (d a b c : GReg) (s : State) : Res :=
  .next (s.instr (encA 14 d a b c 1) (badField (pairOk d && c == 0) false) fun s => s.regOp d a b true)

/-- GRANT (R286): C and FN must be zero. -/
def execGrant (d a b c : GReg) (fn : BitVec 7) (s : State) : Res :=
  .next (s.instr (encA 15 d a b c fn) (badField (c == 0 && fn == 0) false) fun s =>
    withStatus d (s.grantTo (s.kn.sheep.get a).toNat (s.kn.sheep.get b).toNat))

/-- PWR (R286): IMM[18:2] must be zero; the state 3 is reserved. -/
def execPwr (d a : GReg) (imm : BitVec 19) (s : State) : Res :=
  .next (s.instr (encI 16 d a imm) (badField (fld imm 18 2 == 0) (fld imm 1 0 == 3)) fun s =>
    withStatus d (s.power (s.kn.sheep.get a).toNat (fld imm 1 0)))

/-- CLK (R286): C and FN must be zero. -/
def execClk (d a b c : GReg) (fn : BitVec 7) (s : State) : Res :=
  .next (s.instr (encA 17 d a b c fn) (badField (c == 0 && fn == 0) false) fun s =>
    withStatus d (s.ceiling (s.kn.sheep.get a).toNat (s.kn.sheep.get b).toNat))

/-- BARK: D and IMM[18:4] must be zero. -/
def execBark (d a : GReg) (imm : BitVec 19) (s : State) : Res :=
  .next (s.instr (encI 18 d a imm) (badField (d == 0 && fld imm 18 4 == 0) false) fun s =>
    (s.sheepBark (fld imm 3 0) (s.kn.sheep.get a)).nextPc)

/-- LOG: D and IMM[18:8] must be zero, A four registers. -/
def execLog (d a : GReg) (imm : BitVec 19) (s : State) : Res :=
  .next (s.instr (encI 19 d a imm) (badField (d == 0 && fourOk a && fld imm 18 8 == 0) false) fun s =>
    let (lo, hi) := s.kn.sheep.four a
    (s.ledgerEv 68 9 (fld imm 7 0) [lo, hi]).nextPc)

/-- KST_LOG: IMM[8] 0, a record to the record log (R287). -/
def execKstLog (d a : GReg) (hi : BitVec 10) (typ : BitVec 8) (s : State) : Res :=
  .next (s.instr (encI 20 d a (hi ++ 0#1 ++ typ)) (badField (d == 0 && fourOk a && hi == 0) false) fun s => s.kstOp a .log typ)

/-- KST_SLOT: IMM[8] 1, a record to a persistent slot (R287); its TYPE is not stated (log entry 22). -/
def execKstSlot (d a : GReg) (hi : BitVec 10) (slot : BitVec 8) (s : State) : Res :=
  .next (s.instr (encI 20 d a (hi ++ 1#1 ++ slot)) (badField (d == 0 && fourOk a && hi == 0) false) fun s =>
    s.kstOp a (.slot slot) (Config.kstType 256))

/-- MODE (R318): IMM[18:3] must be zero. -/
def execMode (d a : GReg) (imm : BitVec 19) (s : State) : Res :=
  .next (s.instr (encI 21 d a imm) (badField (fld imm 18 3 == 0) false) fun s =>
    let (st, t) := s.sheepMode (fld imm 2 0)
    withStatus d (t, BitVec.ofNat 32 st))

/-- WAIT (R276): IMM[18:4] must be zero. -/
def execWait (d a : GReg) (imm : BitVec 19) (s : State) : Res :=
  .next (s.instr (encI 22 d a imm) (badField (fld imm 18 4 == 0) false) fun s =>
    s.beginWait { d := d, mask := imm.setWidth 4, tick := s.kn.sheep.get a })

/-- WAIT_END (R276). -/
def execWaitEnd (s : State) : Res := .next (s.unlessFrozen State.waitOver)

/-- WDT (R281): D, A and IMM must be zero. -/
def execWdt (d a : GReg) (imm : BitVec 19) (s : State) : Res :=
  .next (s.instr (encI 23 d a imm) (badField (d == 0 && a == 0 && imm == 0) false) fun s =>
    (s.updSheep fun h => { h with wdtAt := s.sh.now }).nextPc)

/-- WATCHDOG_EXPIRY (R281). -/
def execWatchdogExpiry (s : State) : Res := .next s.watchdog

/-- SHEEPDOG_RESTART (R280). -/
def execSheepdogRestart (s : State) : Res := .next (s.unlessFrozen fun s => if s.kn.on then s.sheepRestart else s)

end Sys2Proof.Machine
end

