-- ==== Sys2Proof/Machine/ModeCmds.lean ====
section
/-! DEFINITION. Modes, start-up and resets as commands (R254, R312 to R342), and the Kennel's own (R283 to R305, R392, R403, R573). -/

namespace Sys2Proof.Machine

/-- EPOCH_BOUNDARY (R254). -/
def execEpochBoundary (s : State) : Res := .next (s.unlessFrozen State.epochBoundary)

/-! ### Mode commands -/

/-- A write of GLB_MODECMD. -/
def State.modePort (s : State) (tag : BitVec 8) (op : Nat) (confirm : BitVec 8) : State :=
  s.portAccess (acc8 true 0x108 tag (put op 0 ||| put confirm.toNat 8))

/-- GLB_MODECMD_DRAIN (R319). -/
def execGlbModecmdDrain (tag confirm : BitVec 8) (s : State) : Res := .next (s.modePort tag 1 confirm)
/-- GLB_MODECMD_RUN (R319, R322). -/
def execGlbModecmdRun (tag confirm : BitVec 8) (s : State) : Res := .next (s.modePort tag 2 confirm)
/-- GLB_MODECMD_DORMANT (R320, R321). -/
def execGlbModecmdDormant (tag confirm : BitVec 8) (s : State) : Res := .next (s.modePort tag 3 confirm)
/-- GLB_MODECMD_WARM (R337). -/
def execGlbModecmdWarm (tag confirm : BitVec 8) (s : State) : Res := .next (s.modePort tag 4 confirm)

/-! ### DORMANT -/

/-- DORMANT_DRAINED (R321). -/
def execDormantDrained (s : State) : Res := .next (s.unlessFrozen State.dormantDrained)
/-- DORMANT_FLUSHED (R321). -/
def execDormantFlushed (s : State) : Res := .next (s.unlessFrozen State.dormantFlushed)
/-- SCENT_BUILT (R291). -/
def execScentBuilt (s : State) : Res := .next (s.unlessFrozen State.scentBuilt)
/-- DORMANT_SETTLE_EXPIRY (R321). -/
def execDormantSettleExpiry (s : State) : Res := .next (s.unlessFrozen State.dormantSettled)
/-- SLICE_POWER_CHANGE_DONE (R309). A power switch in motion settles although a freeze has begun (R499). -/
def execSlicePowerChangeDone (n : Fin 66) (s : State) : Res :=
  .next (if s.ctl.frz.st == .stopping then s.powerDone n else s.unlessFrozen fun s => (s.powerDone n).release)
/-- WAKE_WAVE_START (R326). -/
def execWakeWaveStart (rail : Fin 4) (s : State) : Res := .next (s.unlessFrozen fun s => s.wakeWave rail)
/-- SLICE_FILL_DONE (R312). -/
def execSliceFillDone (n : Fin 66) (s : State) : Res := .next (s.unlessFrozen fun s => (s.fillDone n).release)
/-- WAKE_COMPLETE (R326). -/
def execWakeComplete (s : State) : Res := .next (s.unlessFrozen fun s => s.wakeDone.release)
/-- WAKE_SLICE_TIMEOUT (R329). -/
def execWakeSliceTimeout (n : Fin 66) (s : State) : Res := .next (s.unlessFrozen fun s => s.wakeTimeout n)
/-- KENNEL_REQUEST (R293). -/
def execKennelRequest (pkt : Pkt) (s : State) : Res := .next (s.unlessFrozen fun s => s.knlRequest pkt)
/-- KENNEL_MEM_RSP (R294). -/
def execKennelMemRsp (pkt : Pkt) (s : State) : Res := .next (s.unlessFrozen fun s => s.knlPkt pkt)
/-- DORMANT_RATE_WINDOW (R295). -/
def execDormantRateWindow (s : State) : Res := .next (s.unlessFrozen State.rateWindow)
/-- CONTROL_ISLAND_IDLE_OFF (R325). -/
def execControlIslandIdleOff (s : State) : Res := .next (s.unlessFrozen State.idleOff)
/-- CONTROL_ISLAND_READY (R325, R585). A pin that asserts the freeze condition already begins a freeze now (R498). -/
def execControlIslandReady (s : State) : Res := .next (s.unlessFrozen fun s => s.islandReady.frzBegin 0)

/-! ### Resets and start-up -/

/-- XJ_PWRGOOD_RISE (R331). -/
def execXjPwrgoodRise (s : State) : Res :=
  .next (if s.pins.pwrgood then s
    else
      let s := s.updPins fun p => { p with pwrgood := true }
      if s.pins.aonRst then s else s.kennelStart 0)
/-- XJ_PWRGOOD_FALL (R342). -/
def execXjPwrgoodFall (s : State) : Res := .next (if s.pins.pwrgood then s.aonReset false s.pins.aonRst else s)
/-- XJ_AON_RST_ASSERT (R339). -/
def execXjAonRstAssert (s : State) : Res := .next (if s.pins.aonRst then s else s.aonReset s.pins.pwrgood true)
/-- XJ_AON_RST_RELEASE (R339). -/
def execXjAonRstRelease (s : State) : Res :=
  .next (if s.pins.aonRst then
      let s := s.updPins fun p => { p with aonRst := false }
      if s.pins.pwrgood then s.kennelStart 1 else s
    else s)
/-- XJ_COLD_RST_ASSERT (R340, R341, R585). Without a running Kennel only the level of the pin is known. -/
def execXjColdRstAssert (s : State) : Res :=
  .next (if s.pins.coldRst then s
    else if s.kn.on then s.coldAssert.drainHeld
    else s.updPins fun p => { p with coldRst := true })
/-- XJ_COLD_RST_RELEASE (R332, R340). -/
def execXjColdRstRelease (s : State) : Res :=
  .next (if !s.pins.coldRst then s
    else if s.kn.on then s.coldRelease.bootRest
    else s.updPins fun p => { p with coldRst := false })
/-- COLD_RESET_HELD (R340). -/
def execColdResetHeld (s : State) : Res := .next (s.unlessFrozen State.coldHeld)
/-- BOOT_ROM_DONE (R331). -/
def execBootRomDone (s : State) : Res := .next (s.unlessFrozen State.bootRomDone)
/-- FUSE_MAP_READ (R403). -/
def execFuseMapRead (s : State) : Res := .next (s.unlessFrozen State.fuseMapRead)
/-- CALIBRATION_CHECK (R302). -/
def execCalibrationCheck (s : State) : Res := .next (s.unlessFrozen State.calibrationCheck)
/-- PLATE_VERIFY_DONE (R369). -/
def execPlateVerifyDone (s : State) : Res := .next (s.unlessFrozen State.plateVerifyDone)
/-- POWER_WAVE_START (R331). -/
def execPowerWaveStart (rail : Fin 4) (s : State) : Res := .next (s.unlessFrozen fun s => s.powerWave rail)
/-- SELFTEST_DONE (R336): the rows that failed, by slice, bank and row. -/
def execSelftestDone (failed : List (Fin 66 × Fin 30 × BitVec 12)) (s : State) : Res :=
  .next (s.unlessFrozen fun s => s.selftestDone (failed.map fun x => (x.1.val, x.2.1.val, x.2.2.toNat)))
/-- CREDIT_WAVE (R333). -/
def execCreditWave (s : State) : Res := .next (s.unlessFrozen fun s => s.creditWave.release)

/-! ### The Kennel's sensors and store -/

/-- ISLAND_SLOW (R305). -/
def execIslandSlow (isl : Fin 68) (mhz : BitVec 12) (s : State) : Res := .next (s.unlessFrozen fun s => s.islandSlow isl mhz.toNat)
/-- PMBUS_POLL (R285). -/
def execPmbusPoll (r : Fin 4) (s : State) : Res := .next (s.unlessFrozen fun s => s.pmbusPoll r)
/-- PMBUS_READ_DONE (R285). -/
def execPmbusReadDone (r : Fin 4) (ok : Bool) (word : BitVec 16) (s : State) : Res :=
  .next (s.unlessFrozen fun s => s.pmbusDone r ok word)
/-- THERMAL_CONVERSION (R284). -/
def execThermalConversion (i : Fin 24) (raw : BitVec 16) (s : State) : Res := .next (s.unlessFrozen fun s => s.thermalConversion i raw)
/-- THERM_TRIP_CROSSING (R545): the comparator needs no clock, reset or Sheepdog. -/
def execThermTripCrossing (up : Bool) (s : State) : Res := .next (s.updPins fun p => { p with thermTrip := up })
/-- STORE_WORD_PROGRAMMED (R299). Once a freeze has begun only the word then being programmed is completed (R499). -/
def execStoreWordProgrammed (ok : Bool) (s : State) : Res :=
  .next (if s.frozen && !(s.ctl.frz.st == .stopping && s.ctl.frz.word) then s else (s.wordProgrammed ok).updFrz fun f => { f with word := false })
/-- CALIB_OVERWRITE (R364). -/
def execCalibOverwrite (s : State) : Res := .next (s.unlessFrozen State.calibOverwrite)
/-- KENNEL_SCRUB (R392). -/
def execKennelScrub (s : State) : Res := .next (s.unlessFrozen State.kennelScrub)
/-- LIFE_RECORD (R573). -/
def execLifeRecord (s : State) : Res := .next (s.unlessFrozen State.lifeRecord)

end Sys2Proof.Machine
end

