-- ==== Sys2Proof/Machine/PortCmds.lean ====
section
/-! DEFINITION. The commands that arrive at the register port, by register (R538 to R562), and the plate's (R369 to R379). -/

namespace Sys2Proof.Machine

/-- A write of a register at offset `off` of the normal window. -/
def State.portWrite (s : State) (form : WrForm) (off : Nat) (tag : BitVec 8) : State := s.portAccess (formAcc form off tag)

/-! ### The Sheepdog's registers -/

/-- SHD_CMD_RESTART (R280). -/
def execShdCmdRestart (tag : BitVec 8) (s : State) : Res := .next (s.portAccess (acc8 true 0x70010 tag 1))
/-- SHD_CMD_SAFE (R282). -/
def execShdCmdSafe (tag : BitVec 8) (s : State) : Res := .next (s.portAccess (acc8 true 0x70010 tag 2))
/-- SHD_CTL_HALT (R281). -/
def execShdCtlHalt (tag : BitVec 8) (form : WrForm) (s : State) : Res := .next (s.portWrite form 0x70000 tag)
/-- SHD_MBOX_WRITE (R276). -/
def execShdMboxWrite (tag : BitVec 8) (i : Fin 8) (form : WrForm) (s : State) : Res := .next (s.portWrite form (0x70020 + 8 * i.val) tag)

/-! ### The plate -/

/-- A write of KNL_PLCMD. -/
def State.platePort (s : State) (tag : BitVec 8) (op : Nat) (confirm : BitVec 8) : State :=
  s.portAccess (acc8 true 0x70438 tag (put op 0 ||| put confirm.toNat 8))
/-- KNL_PLCMD_INSTALL (R371). -/
def execKnlPlcmdInstall (tag confirm : BitVec 8) (s : State) : Res := .next (s.platePort tag 1 confirm)
/-- KNL_PLCMD_RELOAD (R375). -/
def execKnlPlcmdReload (tag confirm : BitVec 8) (s : State) : Res := .next (s.platePort tag 2 confirm)
/-- KNL_PLCMD_CHECK (R379). -/
def execKnlPlcmdCheck (tag confirm : BitVec 8) (s : State) : Res := .next (s.platePort tag 3 confirm)
/-- PLATE_LINE_FETCHED (R372): the packets of a line's answer, in the order in which they arrive. -/
def execPlateLineFetched (pkts : List Pkt) (s : State) : Res := .next (s.unlessFrozen fun s => pkts.foldl State.knlPkt s)
/-- PLATE_FETCH_TIMEOUT (R374) of the fetch under TXID k. -/
def execPlateFetchTimeout (k : BitVec 6) (s : State) : Res :=
  .next (s.unlessFrozen fun s => if s.kn.on then s.plateTimeout k.toNat else s)
/-- PLATE_SLOT_WRITTEN (R371). -/
def execPlateSlotWritten (s : State) : Res := .next (s.unlessFrozen fun s => if s.kn.on then s.plateWritten else s)
/-- RELOAD_DONE (R375). -/
def execReloadDone (s : State) : Res := .next (s.unlessFrozen fun s => if s.kn.on then s.reloadDone else s)
/-- PLATE_CHECK_DONE (R379). -/
def execPlateCheckDone (s : State) : Res := .next (s.unlessFrozen fun s => if s.kn.on then s.checkDone else s)

/-! ### Ports, packs, slices -/

/-- GLB_LOCK_WRITE (R558). -/
def execGlbLockWrite (tag : BitVec 8) (form : WrForm) (s : State) : Res := .next (s.portWrite form 0x008 tag)
/-- PRT_KEYR_WRITE (R39). -/
def execPrtKeyrWrite (tag : BitVec 8) (a : Fin 512) (form : WrForm) (s : State) : Res :=
  .next (s.portWrite form (0x60008 + 0x40 * a.val) tag)
/-- PCK_WIN_WRITE (R40): PCK_WIN_ATTR or PCK_WIN_BASE of window w of pack p. -/
def execPckWinWrite (tag : BitVec 8) (p : Fin 16) (w : Fin 8) (attr : Bool) (form : WrForm) (s : State) : Res :=
  .next (s.portWrite form (0x68040 + 0x100 * p.val + 16 * w.val + (if attr then 8 else 0)) tag)
/-- PCK_GATE_WRITE (R265). -/
def execPckGateWrite (tag : BitVec 8) (p : Fin 16) (form : WrForm) (s : State) : Res := .next (s.portWrite form (0x68000 + 0x100 * p.val) tag)
/-- PCK_SHAPE_WRITE (R259). -/
def execPckShapeWrite (tag : BitVec 8) (p : Fin 16) (form : WrForm) (s : State) : Res := .next (s.portWrite form (0x68030 + 0x100 * p.val) tag)
/-- PCK_RESV_WRITE (R184). -/
def execPckResvWrite (tag : BitVec 8) (p : Fin 16) (form : WrForm) (s : State) : Res := .next (s.portWrite form (0x68020 + 0x100 * p.val) tag)
/-- PCK_ORD_WRITE (R163). -/
def execPckOrdWrite (tag : BitVec 8) (p : Fin 16) (form : WrForm) (s : State) : Res := .next (s.portWrite form (0x68018 + 0x100 * p.val) tag)
/-- SLC_EGRANT_WRITE (R256). -/
def execSlcEgrantWrite (tag : BitVec 8) (n : Fin 66) (form : WrForm) (s : State) : Res :=
  .next (s.portWrite form (0x10248 + 0x1000 * n.val) tag)

/-- REGISTER_WRITE (R556): any access of the port. -/
def execRegisterWrite (acc : RegAcc) (s : State) : Res := .next (s.portAccess acc)
/-- SECOND_BEAT_TIMEOUT (R540), which a freeze stops with every time-out (R504). -/
def execSecondBeatTimeout (acc : RegAcc) (s : State) : Res := .next (s.unlessFrozen fun s => s.beatTimeout acc)

end Sys2Proof.Machine
end

