-- ==== Sys2Proof/Machine/EngineCmds.lean ====
section
/-! DEFINITION. The commands of the Burin engine, the Ledger, the Bark unit and the interrupt output (R455 to R497, R542, R543). -/

namespace Sys2Proof.Machine

/-- What a unit of the control island does while the island is on. -/
def State.onIsland (s : State) (f : State → State) : State := s.unlessFrozen fun s => if s.ctl.on then f s else s

/-! ### Burin -/

/-- A write of BRN_CMD. -/
def State.burinPort (s : State) (tag : BitVec 8) (op slot : Nat) (cancel : Bool) : State :=
  s.portAccess (acc8 true 0x78008 tag (put op 0 ||| put slot 8 ||| putB cancel 16))
/-- BRN_CMD_SUBMIT (R466). -/
def execBrnCmdSubmit (tag : BitVec 8) (slot : Fin 16) (s : State) : Res := .next (s.burinPort tag 1 slot false)
/-- BRN_CMD_CANCEL (R468). -/
def execBrnCmdCancel (tag : BitVec 8) (slot : Fin 16) (s : State) : Res := .next (s.burinPort tag 2 slot false)
/-- BRN_SUBMIT_CANCEL (R469). -/
def execBrnSubmitCancel (tag : BitVec 8) (slot : Fin 16) (s : State) : Res := .next (s.burinPort tag 1 slot true)
/-- BURIN_JOB_START (R467). -/
def execBurinJobStart (s : State) : Res := .next (s.onIsland fun s => if s.sh.stop then s else s.burinStart)
/-- BURIN_CHUNK_ISSUE (R458). -/
def execBurinChunkIssue (s : State) : Res := .next (s.onIsland fun s => if s.sh.stop then s else s.burinIssue)
/-- BURIN_CHUNK_COMPLETE (R458). -/
def execBurinChunkComplete (s : State) : Res := .next (s.onIsland State.burinComplete)

/-! ### Ledger -/

/-- LEDGER_TAKE_RECORD (R478). -/
def execLedgerTakeRecord (s : State) : Res := .next (s.onIsland fun s => s.ldgTake.warmPoll)
/-- LEDGER_FLUSH_AGE (R477): the open block has reached LDG_FLUSH.AGE, in units of 100 ns. -/
def execLedgerFlushAge (s : State) : Res :=
  .next (s.onIsland fun s =>
    if s.ctl.ldg.openAt + 100 * fld s.ctl.ldg.flush 15 0 ≤ s.sh.now then s.ldgClose.warmPoll else s)
/-- LDG_CMD_FLUSH (R477). -/
def execLdgCmdFlush (tag : BitVec 8) (s : State) : Res := .next (s.portAccess (acc8 true 0x79060 tag 1))
/-- LEDGER_SPILL_DONE (R480). -/
def execLedgerSpillDone (pkt : Pkt) (s : State) : Res := .next (s.onIsland fun s => (s.ctlPkt pkt).warmPoll)
/-- LEDGER_REFILL (R481): the packets of a block read back, in the order in which they arrive. -/
def execLedgerRefill (pkts : List Pkt) (s : State) : Res := .next (s.onIsland fun s => (pkts.foldl State.ctlPkt s).warmPoll)
/-- LEDGER_REFILL_TIMEOUT (R481) of the read under TXID k. -/
def execLedgerRefillTimeout (k : BitVec 5) (s : State) : Res := .next (s.onIsland fun s => (s.ldgTimeout k.toNat).warmPoll)
/-- LDG_HEAD_READ (R483): a normal-window read of LDG_HEAD[7]. -/
def execLdgHeadRead (tag : BitVec 8) (s : State) : Res := .next (s.portAccess (acc8 false 0x79138 tag 0))
/-- LDG_RING_WRITE (R486). -/
def execLdgRingWrite (tag : BitVec 8) (form : WrForm) (s : State) : Res := .next (s.portWrite form 0x79008 tag)
/-- LDG_CTL_WRITE (R486). -/
def execLdgCtlWrite (tag : BitVec 8) (form : WrForm) (s : State) : Res := .next (s.portWrite form 0x79000 tag)

/-! ### Bark -/

/-- BARK_COMMIT (R491): one control-island cycle of the Bark unit. -/
def execBarkCommit (s : State) : Res := .next (s.onIsland fun s => s.updBrk fun b => b.commit1 s.sh.now)
/-- MODERATION_EXPIRY (R494). -/
def execModerationExpiry (t : Fin 8) (s : State) : Res := .next (s.onIsland fun s => s.updBrk fun b => b.expire s.sh.now t)
/-- BRK_SWSET_RAISE (R489), with WDRAW as the write has it. -/
def execBrkSwsetRaise (tag : BitVec 8) (src : BitVec 10) (wdraw : Bool) (s : State) : Res :=
  .next (s.portAccess (acc8 true 0x7A300 tag (put src.toNat 0 ||| putB true 16 ||| putB wdraw 17)))
/-- BRK_SWSET_WDRAW (R490). -/
def execBrkSwsetWdraw (tag : BitVec 8) (src : BitVec 10) (s : State) : Res :=
  .next (s.portAccess (acc8 true 0x7A300 tag (put src.toNat 0 ||| putB true 17)))
/-- BRK_PEND_CLEAR (R490). -/
def execBrkPendClear (tag : BitVec 8) (k : Fin 16) (form : WrForm) (s : State) : Res := .next (s.portWrite form (0x7A200 + 8 * k.val) tag)
/-- BRK_CLAIM_READ (R496): a normal-window read of BRK_CLAIM[t]. -/
def execBrkClaimRead (tag : BitVec 8) (t : Fin 8) (s : State) : Res := .next (s.portAccess (acc8 false (0x7A310 + 8 * t.val) tag 0))
/-- IRQ_TRANSFER (R542). -/
def execIrqTransfer (s : State) : Res := .next (s.unlessFrozen State.irqTransfer)
/-- IRQ_DROP (R543). -/
def execIrqDrop (s : State) : Res := .next (s.unlessFrozen State.irqDropped)

end Sys2Proof.Machine
end

