-- ==== Sys2Proof/Machine/FreezeCmds.lean ====
section
/-! DEFINITION. The freeze, the proof readout, the TAP and the debug array read as commands (R498 to R513, R548). They act while
Xejan is frozen. -/

namespace Sys2Proof.Machine

/-- FRZ_CMD_FREEZE (R498). -/
def execFrzCmdFreeze (tag : BitVec 8) (s : State) : Res := .next (s.portAccess (acc8 true 0x7C000 tag 1))

/-- XJ_FREEZE_ASSERT (R498). -/
def execXjFreezeAssert (s : State) : Res := .next ((s.updFrz fun f => { f with pin := true }).frzBegin 0)

/-- XJ_FREEZE_DEASSERT (R506). A freeze that has not come to FROZEN is over at once (Table 17-2; DEDUCED, log entry 29). -/
def execXjFreezeDeassert (s : State) : Res := .next (s.updFrz fun f => { f with pin := false }).frzEnd.release

/-- The PMBus transaction that a freeze cuts is invalid (R285, R505): that of the first regulator with a poll in progress. -/
def State.pmbusCut (s : State) : State :=
  match (List.range 4).find? fun r => ((s.kn.regs.getD r {}).poll).isSome with
  | some r => s.pmbusDone r false 0
  | none => s

/-- FROZEN (R499). -/
def execFrozen (s : State) : Res :=
  .next (if s.canFreeze then s.pmbusCut.frzFrozen else s)

/-- The TAP's instruction register holds a code (R548): an update of a data register is made under its code (DEDUCED, log entry 50). -/
def State.tapIr (s : State) (code : BitVec 8) : State := s.updFrz fun f => { f with ir := code }

/-- An update of FRZDR; the TAP answers while it is not held in reset. -/
def State.tapUpdate (s : State) (v : Word) : State := if s.kn.on then ((s.tapIr 0x20).frzdr v).release else s

/-- An update of DBGDR. -/
def State.tapDebug (s : State) (v : Word) : State := if s.kn.on then (s.tapIr 0x22).dbgdr v else s

/-- TAP_SETHOLD (R498). -/
def execTapSethold (s : State) : Res := .next (s.tapUpdate 1)
/-- TAP_CLRHOLD (R498). -/
def execTapClrhold (s : State) : Res := .next (s.tapUpdate 2)
/-- TAP_PRFPORT (R508). -/
def execTapPrfport (arrays scent : Bool) (s : State) : Res := .next (s.tapUpdate (4 ||| putB arrays 5 ||| putB scent 6))
/-- TAP_PRFTAP (R508). -/
def execTapPrftap (arrays scent : Bool) (s : State) : Res := .next (s.tapUpdate (8 ||| putB arrays 5 ||| putB scent 6))
/-- TAP_ABORT (R512). -/
def execTapAbort (s : State) : Res := .next (s.tapUpdate 16)
/-- READOUT_END (R511). -/
def execReadoutEnd (s : State) : Res := .next s.readoutEnd

/-- THAW_COMPLETE (R506): Xejan goes on where it stood, and the accesses held are performed. -/
def execThawComplete (s : State) : Res := .next s.frzThaw.release

/-- DBGDR_READ (R512): a quiet-alias read at an offset. -/
def execDbgdrRead (off : BitVec 20) (s : State) : Res := .next (s.tapDebug (off.setWidth 64))
/-- DBGDR_WRITE_AADDR (R512). -/
def execDbgdrWriteAaddr (v : BitVec 63) (s : State) : Res := .next (s.tapDebug (v.setWidth 64 ||| (1#64 <<< 63)))

/-- TAP_RESET (R548): IDCODE is selected. -/
def execTapReset (s : State) : Res := .next (s.tapIr 1)

/-- FRZ_AADDR (R513): a write of FRZ_AADDR. -/
def execFrzAaddr (tag : BitVec 8) (v : Word) (s : State) : Res := .next (s.portAccess (acc8 true 0x7C020 tag v))

/-- DEBUG_ARRAY_READ (R513). -/
def execDebugArrayRead (s : State) : Res := .next (s.unlessFrozen State.debugRead)

end Sys2Proof.Machine
end

