-- ==== Sys2Proof/Machine/Dispatch.lean ====
section
/-! DEFINITION. One arm for each command. -/

namespace Sys2Proof.Machine

/-- The effect of a command on everything but the queue. -/
def exec (i : Instr) (s : State) : Host.Outcome State Fault Refusal :=
  match i with
  | .requestArrival n pkt => Sys2Proof.Machine.execRequestArrival n pkt s
  | .dataIncomplete n a => Sys2Proof.Machine.execDataIncomplete n a s
  | .admissionPhase n => Sys2Proof.Machine.execAdmissionPhase n s
  | .contestExpiry n a => Sys2Proof.Machine.execContestExpiry n a s
  | .backgroundFloorDue n => Sys2Proof.Machine.execBackgroundFloorDue n s
  | .scrubStepDue n => Sys2Proof.Machine.execScrubStepDue n s
  | .rdShared n t => Sys2Proof.Machine.execRdShared n t s
  | .rdUnique n t => Sys2Proof.Machine.execRdUnique n t s
  | .rdOnce n t => Sys2Proof.Machine.execRdOnce n t s
  | .upgrade n t => Sys2Proof.Machine.execUpgrade n t s
  | .wrBack n t => Sys2Proof.Machine.execWrBack n t s
  | .evictClean n t => Sys2Proof.Machine.execEvictClean n t s
  | .wrFull n t => Sys2Proof.Machine.execWrFull n t s
  | .wrPartial n t => Sys2Proof.Machine.execWrPartial n t s
  | .stash n t => Sys2Proof.Machine.execStash n t s
  | .atomic n t => Sys2Proof.Machine.execAtomic n t s
  | .farAtomicExecute n t => Sys2Proof.Machine.execFarAtomicExecute n t s
  | .leashTake n t => Sys2Proof.Machine.execLeashTake n t s
  | .leashFree n t => Sys2Proof.Machine.execLeashFree n t s
  | .resvWatch n t => Sys2Proof.Machine.execResvWatch n t s
  | .watchInstalled n t => Sys2Proof.Machine.execWatchInstalled n t s
  | .watchAgeReached n t => Sys2Proof.Machine.execWatchAgeReached n t s
  | .cancel n pkt => Sys2Proof.Machine.execCancel n pkt s
  | .barrier n pkt => Sys2Proof.Machine.execBarrier n pkt s
  | .barrierRelease n scope key => Sys2Proof.Machine.execBarrierRelease n scope key s
  | .slBarrierReport n p => Sys2Proof.Machine.execSlBarrierReport n p s
  | .slBarrierRelease n p => Sys2Proof.Machine.execSlBarrierRelease n p s
  | .slGenMismatch n p => Sys2Proof.Machine.execSlGenMismatch n p s
  | .barrierTimeout n scope key => Sys2Proof.Machine.execBarrierTimeout n scope key s
  | .slTimeoutNotice n p => Sys2Proof.Machine.execSlTimeoutNotice n p s
  | .slMemsyncRequest n => Sys2Proof.Machine.execSlMemsyncRequest n s
  | .memsyncDone n => Sys2Proof.Machine.execMemsyncDone n s
  | .ackInval n pkt => Sys2Proof.Machine.execAckInval n pkt s
  | .ackFwd n pkt => Sys2Proof.Machine.execAckFwd n pkt s
  | .wrData n pkt => Sys2Proof.Machine.execWrData n pkt s
  | .memRsp n pkt => Sys2Proof.Machine.execMemRsp n pkt s
  | .dataFromMem n pkt => Sys2Proof.Machine.execDataFromMem n pkt s
  | .memoryRequestRelease n htx => Sys2Proof.Machine.execMemoryRequestRelease n htx s
  | .waitingRequestDecide n t => Sys2Proof.Machine.execWaitingRequestDecide n t s
  | .wayOrRecallFree n t => Sys2Proof.Machine.execWayOrRecallFree n t s
  | .stencilOpComplete n => Sys2Proof.Machine.execStencilOpComplete n s
  | .farRegisterIdle n f => Sys2Proof.Machine.execFarRegisterIdle n f s
  | .leashExpiry n l => Sys2Proof.Machine.execLeashExpiry n l s
  | .responseTimeout n htx a => Sys2Proof.Machine.execResponseTimeout n htx a s
  | .deadWalkDone => Sys2Proof.Machine.execDeadWalkDone s
  | .memAnswerLate ix htx => Sys2Proof.Machine.execMemAnswerLate ix htx s
  | .resend ix pkt => Sys2Proof.Machine.execResend ix pkt s
  | .resendTimeout ix k => Sys2Proof.Machine.execResendTimeout ix k s
  | .epochBoundary => Sys2Proof.Machine.execEpochBoundary s
  | .quotaWindowStart n => Sys2Proof.Machine.execQuotaWindowStart n s
  | .censusJobStart n => Sys2Proof.Machine.execCensusJobStart n s
  | .censusSnoopStart n j => Sys2Proof.Machine.execCensusSnoopStart n j s
  | .censusReport n pkt => Sys2Proof.Machine.execCensusReport n pkt s
  | .controlLogicFault n cause unaccepted => Sys2Proof.Machine.execControlLogicFault n cause unaccepted s
  | .replayDone n => Sys2Proof.Machine.execReplayDone n s
  | .replayOverrun n => Sys2Proof.Machine.execReplayOverrun n s
  | .sliceLinkChannelTimeout n => Sys2Proof.Machine.execSliceLinkChannelTimeout n s
  | .spareReady => Sys2Proof.Machine.execSpareReady s
  | .substitutionCopyDone => Sys2Proof.Machine.execSubstitutionCopyDone s
  | .substitutionMapDone => Sys2Proof.Machine.execSubstitutionMapDone s
  | .substitutionReplayDone => Sys2Proof.Machine.execSubstitutionReplayDone s
  | .recoverEnd => Sys2Proof.Machine.execRecoverEnd s
  | .glbModecmdDrain tag confirm => Sys2Proof.Machine.execGlbModecmdDrain tag confirm s
  | .glbModecmdRun tag confirm => Sys2Proof.Machine.execGlbModecmdRun tag confirm s
  | .glbModecmdDormant tag confirm => Sys2Proof.Machine.execGlbModecmdDormant tag confirm s
  | .glbModecmdWarm tag confirm => Sys2Proof.Machine.execGlbModecmdWarm tag confirm s
  | .dormantDrained => Sys2Proof.Machine.execDormantDrained s
  | .dormantFlushed => Sys2Proof.Machine.execDormantFlushed s
  | .scentBuilt => Sys2Proof.Machine.execScentBuilt s
  | .dormantSettleExpiry => Sys2Proof.Machine.execDormantSettleExpiry s
  | .slicePowerChangeDone n => Sys2Proof.Machine.execSlicePowerChangeDone n s
  | .wakeWaveStart rail => Sys2Proof.Machine.execWakeWaveStart rail s
  | .sliceFillDone n => Sys2Proof.Machine.execSliceFillDone n s
  | .wakeComplete => Sys2Proof.Machine.execWakeComplete s
  | .wakeSliceTimeout n => Sys2Proof.Machine.execWakeSliceTimeout n s
  | .kennelRequest pkt => Sys2Proof.Machine.execKennelRequest pkt s
  | .kennelMemRsp pkt => Sys2Proof.Machine.execKennelMemRsp pkt s
  | .dormantRateWindow => Sys2Proof.Machine.execDormantRateWindow s
  | .controlIslandIdleOff => Sys2Proof.Machine.execControlIslandIdleOff s
  | .xjPwrgoodRise => Sys2Proof.Machine.execXjPwrgoodRise s
  | .xjPwrgoodFall => Sys2Proof.Machine.execXjPwrgoodFall s
  | .xjAonRstAssert => Sys2Proof.Machine.execXjAonRstAssert s
  | .xjAonRstRelease => Sys2Proof.Machine.execXjAonRstRelease s
  | .xjColdRstAssert => Sys2Proof.Machine.execXjColdRstAssert s
  | .xjColdRstRelease => Sys2Proof.Machine.execXjColdRstRelease s
  | .coldResetHeld => Sys2Proof.Machine.execColdResetHeld s
  | .bootRomDone => Sys2Proof.Machine.execBootRomDone s
  | .fuseMapRead => Sys2Proof.Machine.execFuseMapRead s
  | .calibrationCheck => Sys2Proof.Machine.execCalibrationCheck s
  | .plateVerifyDone => Sys2Proof.Machine.execPlateVerifyDone s
  | .powerWaveStart rail => Sys2Proof.Machine.execPowerWaveStart rail s
  | .selftestDone failed => Sys2Proof.Machine.execSelftestDone failed s
  | .creditWave => Sys2Proof.Machine.execCreditWave s
  | .islandSlow isl mhz => Sys2Proof.Machine.execIslandSlow isl mhz s
  | .pmbusPoll r => Sys2Proof.Machine.execPmbusPoll r s
  | .pmbusReadDone r ok word => Sys2Proof.Machine.execPmbusReadDone r ok word s
  | .thermalConversion ix raw => Sys2Proof.Machine.execThermalConversion ix raw s
  | .thermTripCrossing up => Sys2Proof.Machine.execThermTripCrossing up s
  | .storeWordProgrammed ok => Sys2Proof.Machine.execStoreWordProgrammed ok s
  | .calibOverwrite => Sys2Proof.Machine.execCalibOverwrite s
  | .addi d a imm => Sys2Proof.Machine.execAddi d a imm s
  | .aluAdd d a b c => Sys2Proof.Machine.execAluAdd d a b c s
  | .aluSub d a b c => Sys2Proof.Machine.execAluSub d a b c s
  | .aluAnd d a b c => Sys2Proof.Machine.execAluAnd d a b c s
  | .aluOr d a b c => Sys2Proof.Machine.execAluOr d a b c s
  | .aluXor d a b c => Sys2Proof.Machine.execAluXor d a b c s
  | .aluShl d a b c => Sys2Proof.Machine.execAluShl d a b c s
  | .aluShr d a b c => Sys2Proof.Machine.execAluShr d a b c s
  | .aluSar d a b c => Sys2Proof.Machine.execAluSar d a b c s
  | .aluMul d a b c => Sys2Proof.Machine.execAluMul d a b c s
  | .aluMin d a b c => Sys2Proof.Machine.execAluMin d a b c s
  | .aluMax d a b c => Sys2Proof.Machine.execAluMax d a b c s
  | .aluMinu d a b c => Sys2Proof.Machine.execAluMinu d a b c s
  | .aluMaxu d a b c => Sys2Proof.Machine.execAluMaxu d a b c s
  | .lui d a imm => Sys2Proof.Machine.execLui d a imm s
  | .ld d a imm => Sys2Proof.Machine.execLd d a imm s
  | .st d a imm => Sys2Proof.Machine.execSt d a imm s
  | .stp d a imm => Sys2Proof.Machine.execStp d a imm s
  | .bcc a b cond off => Sys2Proof.Machine.execBcc a b cond off s
  | .jal d a imm => Sys2Proof.Machine.execJal d a imm s
  | .sample d a imm => Sys2Proof.Machine.execSample d a imm s
  | .med3 d a b c fn => Sys2Proof.Machine.execMed3 d a b c fn s
  | .iir d a imm => Sys2Proof.Machine.execIir d a imm s
  | .deb d a imm => Sys2Proof.Machine.execDeb d a imm s
  | .rchk d a b c fn => Sys2Proof.Machine.execRchk d a b c fn s
  | .tmo d a imm => Sys2Proof.Machine.execTmo d a imm s
  | .regRead d a b c => Sys2Proof.Machine.execRegRead d a b c s
  | .regWrite d a b c => Sys2Proof.Machine.execRegWrite d a b c s
  | .grant d a b c fn => Sys2Proof.Machine.execGrant d a b c fn s
  | .pwr d a imm => Sys2Proof.Machine.execPwr d a imm s
  | .clk d a b c fn => Sys2Proof.Machine.execClk d a b c fn s
  | .bark d a imm => Sys2Proof.Machine.execBark d a imm s
  | .log d a imm => Sys2Proof.Machine.execLog d a imm s
  | .kstLog d a hi typ => Sys2Proof.Machine.execKstLog d a hi typ s
  | .kstSlot d a hi slot => Sys2Proof.Machine.execKstSlot d a hi slot s
  | .mode d a imm => Sys2Proof.Machine.execMode d a imm s
  | .wait d a imm => Sys2Proof.Machine.execWait d a imm s
  | .waitEnd => Sys2Proof.Machine.execWaitEnd s
  | .wdt d a imm => Sys2Proof.Machine.execWdt d a imm s
  | .watchdogExpiry => Sys2Proof.Machine.execWatchdogExpiry s
  | .sheepdogRestart => Sys2Proof.Machine.execSheepdogRestart s
  | .shdCmdRestart tag => Sys2Proof.Machine.execShdCmdRestart tag s
  | .shdCmdSafe tag => Sys2Proof.Machine.execShdCmdSafe tag s
  | .shdCtlHalt tag form => Sys2Proof.Machine.execShdCtlHalt tag form s
  | .shdMboxWrite tag ix form => Sys2Proof.Machine.execShdMboxWrite tag ix form s
  | .knlPlcmdInstall tag confirm => Sys2Proof.Machine.execKnlPlcmdInstall tag confirm s
  | .plateLineFetched pkts => Sys2Proof.Machine.execPlateLineFetched pkts s
  | .plateFetchTimeout k => Sys2Proof.Machine.execPlateFetchTimeout k s
  | .plateSlotWritten => Sys2Proof.Machine.execPlateSlotWritten s
  | .knlPlcmdReload tag confirm => Sys2Proof.Machine.execKnlPlcmdReload tag confirm s
  | .reloadDone => Sys2Proof.Machine.execReloadDone s
  | .knlPlcmdCheck tag confirm => Sys2Proof.Machine.execKnlPlcmdCheck tag confirm s
  | .glbLockWrite tag form => Sys2Proof.Machine.execGlbLockWrite tag form s
  | .prtKeyrWrite tag a form => Sys2Proof.Machine.execPrtKeyrWrite tag a form s
  | .pckWinWrite tag p w attr form => Sys2Proof.Machine.execPckWinWrite tag p w attr form s
  | .pckFence tag p v => Sys2Proof.Machine.execPckFence tag p v s
  | .fenceDone p => Sys2Proof.Machine.execFenceDone p s
  | .pckGateWrite tag p form => Sys2Proof.Machine.execPckGateWrite tag p form s
  | .pckShapeWrite tag p form => Sys2Proof.Machine.execPckShapeWrite tag p form s
  | .pckResvWrite tag p form => Sys2Proof.Machine.execPckResvWrite tag p form s
  | .pckOrdWrite tag p form => Sys2Proof.Machine.execPckOrdWrite tag p form s
  | .slcEgrantWrite tag n form => Sys2Proof.Machine.execSlcEgrantWrite tag n form s
  | .pckReset tag p v => Sys2Proof.Machine.execPckReset tag p v s
  | .packResetDrained p => Sys2Proof.Machine.execPackResetDrained p s
  | .packResetWalkDone p => Sys2Proof.Machine.execPackResetWalkDone p s
  | .prtRetire tag a v => Sys2Proof.Machine.execPrtRetire tag a v s
  | .retirementDone a => Sys2Proof.Machine.execRetirementDone a s
  | .slcRplCmdForce tag n => Sys2Proof.Machine.execSlcRplCmdForce tag n s
  | .brnCmdSubmit tag slot => Sys2Proof.Machine.execBrnCmdSubmit tag slot s
  | .brnCmdCancel tag slot => Sys2Proof.Machine.execBrnCmdCancel tag slot s
  | .brnSubmitCancel tag slot => Sys2Proof.Machine.execBrnSubmitCancel tag slot s
  | .burinJobStart => Sys2Proof.Machine.execBurinJobStart s
  | .burinChunkIssue => Sys2Proof.Machine.execBurinChunkIssue s
  | .burinChunkComplete => Sys2Proof.Machine.execBurinChunkComplete s
  | .ledgerTakeRecord => Sys2Proof.Machine.execLedgerTakeRecord s
  | .ledgerFlushAge => Sys2Proof.Machine.execLedgerFlushAge s
  | .ldgCmdFlush tag => Sys2Proof.Machine.execLdgCmdFlush tag s
  | .ledgerSpillDone pkt => Sys2Proof.Machine.execLedgerSpillDone pkt s
  | .ledgerRefill pkts => Sys2Proof.Machine.execLedgerRefill pkts s
  | .ledgerRefillTimeout k => Sys2Proof.Machine.execLedgerRefillTimeout k s
  | .ldgHeadRead tag => Sys2Proof.Machine.execLdgHeadRead tag s
  | .ldgRingWrite tag form => Sys2Proof.Machine.execLdgRingWrite tag form s
  | .ldgCtlWrite tag form => Sys2Proof.Machine.execLdgCtlWrite tag form s
  | .barkCommit => Sys2Proof.Machine.execBarkCommit s
  | .moderationExpiry t => Sys2Proof.Machine.execModerationExpiry t s
  | .brkSwsetRaise tag src wdraw => Sys2Proof.Machine.execBrkSwsetRaise tag src wdraw s
  | .brkSwsetWdraw tag src => Sys2Proof.Machine.execBrkSwsetWdraw tag src s
  | .brkPendClear tag k form => Sys2Proof.Machine.execBrkPendClear tag k form s
  | .brkClaimRead tag t => Sys2Proof.Machine.execBrkClaimRead tag t s
  | .irqTransfer => Sys2Proof.Machine.execIrqTransfer s
  | .irqDrop => Sys2Proof.Machine.execIrqDrop s
  | .registerWrite acc => Sys2Proof.Machine.execRegisterWrite acc s
  | .secondBeatTimeout acc => Sys2Proof.Machine.execSecondBeatTimeout acc s
  | .frzCmdFreeze tag => Sys2Proof.Machine.execFrzCmdFreeze tag s
  | .xjFreezeAssert => Sys2Proof.Machine.execXjFreezeAssert s
  | .xjFreezeDeassert => Sys2Proof.Machine.execXjFreezeDeassert s
  | .frozen => Sys2Proof.Machine.execFrozen s
  | .tapSethold => Sys2Proof.Machine.execTapSethold s
  | .tapClrhold => Sys2Proof.Machine.execTapClrhold s
  | .tapPrfport arrays scent => Sys2Proof.Machine.execTapPrfport arrays scent s
  | .tapPrftap arrays scent => Sys2Proof.Machine.execTapPrftap arrays scent s
  | .tapAbort => Sys2Proof.Machine.execTapAbort s
  | .readoutEnd => Sys2Proof.Machine.execReadoutEnd s
  | .thawComplete => Sys2Proof.Machine.execThawComplete s
  | .dbgdrRead off => Sys2Proof.Machine.execDbgdrRead off s
  | .dbgdrWriteAaddr v => Sys2Proof.Machine.execDbgdrWriteAaddr v s
  | .tapReset => Sys2Proof.Machine.execTapReset s
  | .frzAaddr tag v => Sys2Proof.Machine.execFrzAaddr tag v s
  | .debugArrayRead => Sys2Proof.Machine.execDebugArrayRead s
  | .kennelScrub => Sys2Proof.Machine.execKennelScrub s
  | .lifeRecord => Sys2Proof.Machine.execLifeRecord s
  | .controlIslandReady => Sys2Proof.Machine.execControlIslandReady s
  | .networkInterfaceFault n => Sys2Proof.Machine.execNetworkInterfaceFault n s
  | .plateCheckDone => Sys2Proof.Machine.execPlateCheckDone s
  | .slTimeoutReply n p => Sys2Proof.Machine.execSlTimeoutReply n p s

end Sys2Proof.Machine
end

