-- ==== Sys2Proof/Machine/Tick.lean ====
section
/-! DEFINITION. What happens with time alone (R269, R298, R273): one Kennel cycle. -/

namespace Sys2Proof.Machine

/-- XJ_SYS_IDLE in one Kennel cycle: no command names the pin, so the level that the system drives is free in each cycle (log entry 6), and
the filtered level follows it once it has stood for 1 µs (Table 18-8, R330, R549). -/
def State.sysIdleNext (s : State) : State :=
  let raw := (Config.freeWord (s.kn.fv * 2 ^ 34 + 2 ^ 33)).getLsbD 0
  (s.updPins fun p =>
    let ns := if raw = p.sysIdleRaw then Nat.min (p.sysIdleNs + 4) 1000 else 0
    { p with sysIdleRaw := raw, sysIdleNs := ns, sysIdle := if ns = 1000 then raw else p.sysIdle }).updKn fun k => { k with fv := k.fv + 1 }

/-- One Kennel cycle on an empty queue: the timestamp advances by 4 (R269), a waiting Kennel record goes to programming, the Sheepdog
meets an instruction that no command names, and accesses that can now be performed are. While Xejan is frozen only the freeze controller
counts the duration, from FROZEN on, and the pin filters go on (R504, R506). Nothing happens while the Kennel is off. -/
def State.tick (s : State) : State :=
  if !s.kn.on then s
  else if s.frozen then
    (if s.ctl.frz.st == .frozen || s.ctl.frz.st == .reading then s.updFrz fun f => { f with frozenNs := f.frozenNs + 4 } else s).sysIdleNext
  else ((s.updSh fun g => { g with now := g.now + 4 }).updKn fun k => k.pump (s.sh.now + 4)).sysIdleNext.sheepTick.release

end Sys2Proof.Machine
end

