-- ==== Sys2Proof/Machine/Proof.lean ====
section
/-! DEFINITION. The proof image of a frozen block and what the proof port and the TAP show of it (R501, R502, R508 to R512). No
command reads an image word into the state: these are outputs, functions of the frozen state. -/

namespace Sys2Proof.Machine

/-- The defined registers of a window of the register map, in ascending offset order, each with its value (Table 17-4). -/
def State.windowRegs (s : State) (lo hi : Nat) : List Word :=
  (List.range ((hi - lo) / 8)).filterMap fun i => (regAt (lo + 8 * i)).map s.regRead

/-- The registers that an island holds (Table 19-1). The slice link has none; the freeze controller stands in the control island (R499). -/
def State.islandRegs (s : State) (isl : Nat) : List Word :=
  if isl < 66 then s.windowRegs (0x10000 + 0x1000 * isl) (0x11000 + 0x1000 * isl)
  else if isl = 67 then s.windowRegs 0 0x1000 ++ s.windowRegs 0x60000 0x69000 ++ s.windowRegs 0x78000 0x80000
  else if isl = 68 then s.windowRegs 0x70000 0x71000
  else []

/-- The islands that were on at the freeze, ascending (Table 17-3): a slice that fills its arrays is clocked, and on. -/
def State.islandsOn (s : State) : List Nat :=
  (List.range 69).filter fun i => if i < 66 then (s.slice i).clocked else if i = 66 then s.ctl.lnk else if i = 67 then s.ctl.on else s.kn.on

/-- The words of a STATE section of an island (Table 17-4). -/
def stateLen (isl : Nat) : Nat := if isl < 66 then 24576 else if isl = 66 then 2048 else if isl = 67 then 16384 else 4096

/-- A STATE section: the island's defined registers, then its other flops. -/
def State.stateSection (s : State) (isl : Nat) : List Word :=
  let r := s.islandRegs isl
  r ++ (List.range (stateLen isl - r.length)).map fun i => s.frozenWord (isl * 2 ^ 15 + r.length + i)

/-- The two words of channel j (Table 17-5, R501, R502). -/
def State.chanEntry (s : State) (j : Nat) : List Word :=
  let c := s.chan j
  let l := c.levels
  [c.bundle.1,
   put c.bundle.2.toNat 0 ||| putB l.sreq 8 ||| putB l.sack 9 ||| putB l.rreq 10 ||| putB l.rack 11 ||| put l.state 12 ||| putB l.incon 14]

/-- Eight stored words as a group of 9: the payloads, then the check bytes (Table 17-4). -/
def rowGroup (ws : List W72) : List Word :=
  ws.map (·.data) ++ [ws.zipIdx.foldl (fun (c : Word) (x : W72 × Nat) => c ||| put x.1.chk.toNat (8 * x.2)) (0 : Word)]

/-- A memory of the Kennel in groups of 9. -/
def groupsOf (m : KMem) (rows : Nat) : List Word :=
  (List.range rows).flatMap fun r => rowGroup ((List.range 8).map fun k => KMem.read m (8 * r + k))

/-- A copy of the program store: two instructions a native word, the first the lower (Table 17-4, log entry 53). -/
def progWords (p : List (Nat × PIns)) : List Word :=
  (List.range 2048).flatMap fun j =>
    let a : PIns := tget {} p (2 * j)
    let b : PIns := tget {} p (2 * j + 1)
    let w : BitVec 72 := b.code ++ a.code
    [w.setWidth 64, (w >>> 64).setWidth 64 ||| putB a.par 8 ||| putB b.par 9]

/-- The KMEM section (Table 17-4). -/
def Sheep.kmem (h : Sheep) : List Word := groupsOf h.dmem 256 ++ progWords h.prog0 ++ progWords h.prog1

/-- The ARRAY section of slice n: every row of Table 13-1 as it is stored, nothing corrected (R508). -/
def State.arraySection (s : State) (n : Nat) : List Word :=
  (List.range 30).flatMap fun b => (List.range (bankRows b)).flatMap fun r => rowGroup ((List.range 8).map fun k =>
    let a := bankAddr b (8 * r + k)
    if heldBank b then (s.slice n).heldWord n a else (s.slice n).fetch a)

/-- A section: its TYPE, its ISL, its length and its words. -/
structure ProofSect where
  typ : Nat
  isl : Nat
  len : Nat
  words : List Word
  deriving DecidableEq, Repr

/-- The sections in their order: STATE, CHAN, KMEM, ARRAY, SCENT (R510, Table 17-4). -/
def State.proofSections (s : State) : List ProofSect :=
  (s.islandsOn.map fun i => ⟨1, i, stateLen i, s.stateSection i⟩) ++
  [⟨2, 0, 804, (List.range 402).flatMap s.chanEntry⟩, ⟨3, 68, 10496, s.kn.sheep.kmem⟩] ++
  (if s.ctl.frz.rdArr then (s.islandsOn.filter (· < 66)).map fun n => ⟨4, n, 702936, s.arraySection n⟩ else []) ++
  (if s.ctl.frz.rdScent then [⟨5, 68, 147456, groupsOf s.kn.scent 16384⟩] else [])

/-- LENW: the header, the section table with its CRC word, and the sections (R509). -/
def proofLen (ss : List ProofSect) : Nat := ss.foldl (fun n x => n + x.len) (9 + 2 * ss.length)

/-- Words 0 to 6 of the header (Table 17-3). -/
def State.proofHead (s : State) (ss : List ProofSect) : List Word :=
  let f := s.ctl.frz
  let on := s.islandsOn
  [put 0x50524F46 32 ||| put 1 16 ||| put 8 0,
   (f.count.setWidth 64 <<< 32) ||| put 0xB0 24 ||| put f.left.code 20 ||| put s.ctl.ms.phase 16 ||| put f.src.toNat 8,
   BitVec.ofNat 64 s.sh.now,
   put ss.length 32 ||| put (proofLen ss) 0,
   (List.range 64).foldl (fun w i => w ||| putB (on.contains i) i) 0,
   (List.range 5).foldl (fun w i => w ||| putB (on.contains (64 + i)) i) 0 ||| putB f.rdArr 8 ||| putB f.rdScent 9,
   0]

/-- The section table (R509). -/
def proofTable (ss : List ProofSect) : List Word :=
  (ss.foldl (fun (x : List Word × Nat) t =>
    (x.1 ++ [put t.typ 56 ||| put t.isl 48 ||| put x.2 0, ((wordCrc t.words).setWidth 64 <<< 32) ||| put t.len 0], x.2 + t.len))
    ([], 9 + 2 * ss.length)).1

/-- The whole image (R509). -/
def State.proofImage (s : State) : List Word :=
  let ss := s.proofSections
  let h := s.proofHead ss
  let t := proofTable ss
  h ++ [(wordCrc h).setWidth 64] ++ t ++ [(wordCrc t).setWidth 64] ++ ss.flatMap (·.words)

/-- The data register that an IR code selects (R548): IDCODE, FRZDR, PRFDR and DBGDR have codes, and every other code selects BYPASS. -/
inductive TapReg where
  | idcode | frzdr | prfdr | dbgdr | bypass
  deriving DecidableEq, Repr

/-- The selection by the IR (R548). -/
def tapReg (ir : BitVec 8) : TapReg :=
  if ir = 0x01 then .idcode else if ir = 0x20 then .frzdr else if ir = 0x21 then .prfdr else if ir = 0x22 then .dbgdr else .bypass

/-- The length of a data register (Table 17-6; IEEE 1149.1 for IDCODE and BYPASS). -/
def TapReg.length : TapReg → Nat
  | .idcode => 32 | .frzdr => 64 | .prfdr => 64 | .dbgdr => 66 | .bypass => 1

/-- What PRFDR captures as word i of a readout through the TAP: zero when none runs or it has ended (Table 17-6). -/
def State.prfdr (s : State) (i : Nat) : Word :=
  if s.ctl.frz.st == .reading && !s.ctl.frz.rdPort then s.proofImage.getD i 0 else 0

/-- What Capture-DR gives with code `ir` in the instruction register (Table 17-6, R548); `i`: the words of the image that PRFDR has captured
before. -/
def State.capture (s : State) (ir : BitVec 8) (i : Nat) : BitVec 66 :=
  let f := s.ctl.frz
  match tapReg ir with
  | .idcode => 0xB0512001
  | .frzdr => f.stat.setWidth 66
  | .prfdr => (s.prfdr i).setWidth 66
  | .dbgdr => BitVec.ofBool f.dbgDone ++ BitVec.ofBool f.dbgErr ++ f.dbgData
  | .bypass => 0

/-- XJ_PRF_D after k rising edges of XJ_PRF_CLK since the readout started: 16 words of ones, the image, then zero (R511). -/
def State.prfD (s : State) (k : Nat) : Word :=
  if s.ctl.frz.st == .reading && s.ctl.frz.rdPort then
    if k < 16 then BitVec.allOnes 64 else s.proofImage.getD (k - 16) 0
  else 0

end Sys2Proof.Machine
end

