-- ==== Sys2Proof/Safety.lean ====
section
/-! DEFINITION. What a sound state of the block is, and the conditions and frames in whose terms the claims are stated. -/

namespace Sys2Proof.Machine

/-- The accesses outstanding at the register port: those it holds, and the one whose response it owes (R539, R560). -/
def State.outstanding (s : State) : Nat := s.ctl.rp.outstanding

/-! ### The Sheepdog -/

/-- The Sheepdog is about to execute the instruction `enc`: it runs, and that instruction was fetched intact (R273). -/
def State.atIns (s : State) (enc : BitVec 36) : Prop :=
  s.sheepRuns = true ∧ s.kn.sheep.ir = enc ∧ s.kn.sheep.irBad = false

/-- Nothing differs but registers, the program counter, and what the fetch of the next instruction changes (R273). -/
def State.sheepOnly (s t : State) : Prop :=
  t = s.updSheep fun h => { h with
    g := t.kn.sheep.g, pc := t.kn.sheep.pc, ir := t.kn.sheep.ir, irBad := t.kn.sheep.irBad
    prog0 := t.kn.sheep.prog0, prog1 := t.kn.sheep.prog1, corr := t.kn.sheep.corr }

/-- Every register of the Sheepdog reads as before, but g[d], which reads `v` unless it is g0 (R270). -/
def Sheep.wrote (h k : Sheep) (d : GReg) (v : W32) : Prop :=
  ∀ r, k.get r = if r = d ∧ d ≠ 0 then v else h.get r

/-- The effect of an instruction that writes `v` to g[d] and goes on with the next instruction, and its frame. -/
def State.wrote (s : State) (d : GReg) (v : W32) (t : State) : Prop :=
  s.kn.sheep.wrote t.kn.sheep d v ∧ t.kn.sheep.pc = s.kn.sheep.pc + 1 ∧ s.sheepOnly t

/-- The same for the pair g[d], g[d+1], with `lo` and `hi` (R274); a pair never names g0. -/
def State.wrotePair (s : State) (d : GReg) (lo hi : W32) (t : State) : Prop :=
  (∀ r, t.kn.sheep.get r = if r = d then lo else if r = d + 1 then hi else s.kn.sheep.get r) ∧
  t.kn.sheep.pc = s.kn.sheep.pc + 1

/-- The next instruction, with no register changed. -/
def State.wentOn (s t : State) : Prop :=
  t.kn.sheep.g = s.kn.sheep.g ∧ t.kn.sheep.pc = s.kn.sheep.pc + 1

/-- A Sheepdog fault with `code` (R280): nothing of the instruction takes effect, and the Sheepdog waits for its restart. -/
def State.faulted (s : State) (code : BitVec 4) (t : State) : Prop :=
  t.kn.sheep.code = code ∧ t.kn.sheep.fpc = s.kn.sheep.pc ∧ t.kn.sheep.runState = 4 ∧ t.kn.sheep.g = s.kn.sheep.g ∧
  t.kn.sheep.dmem = s.kn.sheep.dmem ∧ t.kn.sheep.pc = s.kn.sheep.pc ∧ t.slices = s.slices ∧ t.sh = s.sh

/-! ### Slices and messages -/

/-- The logic of slice n runs: the block is not frozen, and the slice is on, active and not in replay (R428). -/
def State.awake (s : State) (n : Nat) : Prop := s.frozen = false ∧ (s.slice n).works s.sh = true

/-- Between `s` and `t` the block has sent exactly the messages `ms`, in this order, whatever their routes. -/
def State.sends (s t : State) (ms : List Msg) : Prop :=
  ∃ l, t.out = s.out ++ l ∧ l.map (fun m => { m with route := 0 }) = ms

/-- Between `s` and `t` the block has sent the message `m` at least, whatever its route. -/
def State.sent (s t : State) (m : Msg) : Prop :=
  ∃ l, t.out = s.out ++ l ∧ m ∈ l.map (fun x => { x with route := 0 })

/-- Nothing differs but slice n, the messages and the credit tokens sent. -/
def State.sliceOnly (s : State) (n : Nat) (t : State) : Prop :=
  t = { s.updSlice n (fun _ => t.slice n) with out := t.out, tokens := t.tokens }

/-- The packet passes every check of Table 18-4 at slice n without a correction, and spells `m`. -/
def State.intact (s : State) (n : Nat) (p : Pkt) (m : Msg) : Prop :=
  netCheck s.sh .slice (sliceNode n) p = .ok m ∧ netCorrected p = 0 ∧ (unitWord p 0 1).1.usable = true

/-- The same at the Kennel's interface or at the control island's. -/
def State.passes (s : State) (i : Ifc) (p : Pkt) (m : Msg) : Prop :=
  netCheck s.sh i (if i = .kennel then kennelNode else ctlNode) p = .ok m ∧ netCorrected p = 0 ∧ (unitWord p 0 1).1.usable = true

/-- A Retry of slice n to a request (Table 4-5, R243). -/
def retryMsg (n : Nat) (r : Req) (backoff : Nat) : Msg := rspTo n r 5 (fPut backoff 0)
/-- An Error of slice n to a request (R99). -/
def errorMsg (n : Nat) (r : Req) (code : Nat) : Msg := rspTo n r 7 (fPut code 0)
/-- A Comp of slice n to a request (R116). -/
def compMsg (n : Nat) (r : Req) (status grant : Nat) : Msg := rspTo n r 4 (fPut status 0 ||| fPut grant 3)
/-- The Comp of a tracker, with POISON as told (R116, R121). -/
def compOf (n : Nat) (k : Tracker) (poison : Bool) : Msg :=
  rspTo n k.req 4 (fPut k.status.toNat 0 ||| fPut k.grant.toNat 3 ||| (if poison then fPut 1 17 else 0))

/-- Tracker `k` of slice n is the only work in the slice, and its request is for a directory line whose set can be read. -/
def State.single (s : State) (n : Nat) (k : Tracker) : Prop :=
  let x := s.slice n
  let r := k.req
  s.awake n ∧ x.trk = [k] ∧ x.rcl = [] ∧ x.collapses = [] ∧ x.stq = [] ∧ x.stwait = [] ∧ x.far = [] ∧ x.lsh = [] ∧ x.wat = [] ∧
  x.bq = [] ∧ x.owed = [] ∧ x.slcp = false ∧ x.parErr = [] ∧ k.no < 240 ∧ k.exp = [] ∧ k.poison = false ∧ k.unit = none ∧ r.poison = false ∧
  r.port < 512 ∧ (s.sh.port r.port).absent = false ∧ s.sh.isScratch r.line = false ∧
  (s.sh.target r.line).all (fun m => decide (m < 32)) = true ∧
  (∀ a ∈ x.lookupWords s.sh r.line, (x.readC a).1 = .clean) ∧
  (∀ v, v < s.sh.dirw →
    let e := x.readD (entAddr (lpSet (s.sh.lp r.line)) v)
    eState e ≠ 5 ∧ (eState e = 0 → e = 0))

/-- It has just been admitted, and every check of R47 passes it: it is about to be decided on. -/
def State.alone (s : State) (n : Nat) (k : Tracker) : Prop :=
  s.single n k ∧ k.stat = .admitted ∧ (s.slice n).check s.sh k.req = .pass

/-- Tracker `k` of slice n, decided, is the only work in the slice and awaits the answer `e` alone. -/
def State.awaits (s : State) (n : Nat) (k : Tracker) (e : Exp) : Prop :=
  let x := s.slice n
  s.awake n ∧ x.trk = [k] ∧ x.rcl = [] ∧ x.collapses = [] ∧ x.far = [] ∧ k.stat = .decided ∧ k.exp = [e] ∧ e.held = false ∧
  k.h1 = false ∧ k.unit = none ∧ k.no < 240 ∧ k.req.port < 512 ∧ (s.sh.port k.req.port).absent = false

/-- Nothing waits for the register decoder: no access of the port, no REG of the Sheepdog and no DBGDR of the TAP (R559). -/
def State.nothingHeld (s : State) : Prop :=
  s.ctl.rp.held = [] ∧ s.ctl.rp.owed = none ∧ s.ctl.rp.taken = none ∧ s.kn.sheep.regWait = none ∧ s.ctl.frz.dbgWait = none

/-- Bark source `src` waits: at the Bark unit, or in the Kennel queue while the control island is off (R287, R489). -/
def State.barked (t : State) (src : Nat) : Prop := src ∈ t.ctl.brk.pend ∨ ∃ e ∈ t.kn.evq, e.bark = some src

/-- The directory holds the request's line as holder set `e` at `way`, or not at all, and it is not leased (Table 3-2, Table 3-6). -/
def State.entry (s : State) (n : Nat) (r : Req) (way : Option Nat) (e : EntNew) : Prop :=
  let x := s.slice n
  x.entryOf s.sh r.line = (way, e) ∧ e.st ≠ .l ∧
  way.all (fun v => x.entOk s.sh r.line (x.readD (entAddr (lpSet (s.sh.lp r.line)) v))) = true

/-- The set of the request's line has a way in I that nothing else is about to use (R76). -/
def State.freeWay (s : State) (n : Nat) (r : Req) : Prop :=
  ∃ v, v < s.sh.dirw ∧ (s.slice n).freeWay s.sh (lpSet (s.sh.lp r.line)) v = true

/-- What the tables of the manual call for, by request type, from the holder set `e` and requester `a` (Tables 4-9 and 7-6, R174, R192,
R222): a declined Stash, a near Atomic, and a LeashFree of no leash among them. -/
def tablePlan (k : ReqKind) (e : EntNew) (a : Nat) : Plan :=
  match k with
  | .rdShared => planRdShared e a
  | .rdUnique => planRdUnique e a false
  | .rdOnce => planRdOnce e
  | .upgrade | .leashTake => planUpgrade e a false
  | .wrBack => planWrBack e a
  | .evictClean => planEvictClean e a
  | .wrFull => planWrFull e
  | .wrPartial => planWrPartial e
  | .stash => { planWrFull e with status := 2 }
  | .atomic => planNear e a false
  | _ => { new := e, status := 3 }

/-- The messages of a decision, in the order of R114: the forward, the memory request, SnpInval and SnpRecall in ascending agent, and the
Comp when no answer is awaited (R115). -/
def planMessages (n : Nat) (g : Shared) (k : Tracker) (p : Plan) : List Msg :=
  let r := k.req
  (match p.fwd with
    | some (o, uniq, once) => [snp n (if uniq then 2 else 1) o k.no r.pack r.line (fwdF once r.port r.txid r.crit)]
    | none => []) ++
  (memMsgOf n g k p).toList ++
  (sortNat (p.invals ++ p.recl.toList)).map (fun a => snp n (if p.recl = some a then 4 else 3) a k.no r.pack r.line) ++
  (if p.snoops = 0 ∧ memMsgOf n g k p = none then [compMsg n r p.status.toNat p.grant.toNat] else [])

/-- The decision command of a request type. -/
def decisionOf (k : ReqKind) (n : Fin 66) (t : Fin 240) : Instr :=
  match k with
  | .rdShared => .rdShared n t | .rdUnique => .rdUnique n t | .rdOnce => .rdOnce n t | .upgrade => .upgrade n t
  | .wrBack => .wrBack n t | .evictClean => .evictClean n t | .wrFull => .wrFull n t | .wrPartial => .wrPartial n t
  | .stash => .stash n t | .atomic => .atomic n t | .leashTake => .leashTake n t | .leashFree => .leashFree n t
  | _ => .resvWatch n t

/-! ### The register port -/

/-- The register port performs an access that arrives now: the Kennel and the control island are on, Xejan is neither frozen nor held in
cold reset, and no access is outstanding (R325, R505, R539, R585). -/
def State.portFree (s : State) : Prop :=
  s.kn.on = true ∧ s.ctl.on = true ∧ s.frozen = false ∧ s.pins.coldRst = false ∧ s.ctl.rp.held = [] ∧ s.ctl.rp.owed = none ∧
  s.ctl.rp.taken = none

/-- The state in which an access has been performed with response `r`; the access also keeps the control island on (R325). -/
def State.responded (s : State) (r : RpRsp) : State :=
  (s.updCtl fun c => { c with idleAt := s.sh.now }).updRp fun p => { p with rsp := p.rsp ++ [r] }

/-- What an accepted write of form f leaves of a register with the fields `mask`, all writable, that stood at `old` (R554). -/
def formWritten (f : WrForm) (old mask : Word) : Word :=
  match f with
  | .whole v => v &&& mask
  | .low x => (old &&& mask &&& 0xFFFFFFFF00000000) ||| (x.setWidth 64 &&& mask)
  | .high x => (old &&& mask &&& 0xFFFFFFFF) ||| ((x.setWidth 64 <<< 32) &&& mask)

/-- An access performed without an error, reading `v`. -/
def State.answered (s : State) (tag : BitVec 8) (v : Word := 0) : State :=
  s.responded { tag := tag, err := false, data := v }

/-- An 8-byte access refused with `code`: GLB_RP_STAT and an error response, and no other effect (R556). -/
def State.turnedAway (s : State) (off : Nat) (tag : BitVec 8) (code : Nat) : State :=
  (s.updRp fun r => { r with errs := satInc r.errs, code := BitVec.ofNat 4 code, off := BitVec.ofNat 20 off, src := 0 }).responded
    { tag := tag, err := true, data := 0 }

end Sys2Proof.Machine
end

