-- ==== Sys2Proof/Certificates/Slice0/Obligations.lean ====
section
/-! DEFINITION. The statements about the block, for the provers. -/

open Sys2Proof Sys2Proof.Machine

/-! ### The whole block -/

/-- A step takes the command at the front of the queue and answers what `exec` of it answers on the state with the rest queued; and
every command completes, in every state: no row of the table ends in a stop. -/
def Obligations.step_takes_front : Prop :=
  (∀ (c : Instr) (rest : List Instr) (s : State), s.pending = c :: rest → step s = exec c { s with pending := rest }) ∧
  (∀ (c : Instr) (s : State), ∃ t, exec c s = .next t)

/-- With nothing waiting, a step is one Kennel cycle of a running Kennel: the timestamp rises by 4 (R269), and while Xejan is frozen it
stands and only the duration of the freeze counts, from FROZEN on (R504, R506). That the empty queue stands for one cycle is the model's
choice (log entry 2). -/
def Obligations.idle_step_counts : Prop :=
  ∀ s : State, s.pending = [] → s.kn.on = true →
    (s.frozen = false → ∃ t, step s = .next t ∧ t.sh.now = s.sh.now + 4) ∧
    (s.frozen = true → ∃ t, step s = .next t ∧ t.sh = s.sh ∧ t.slices = s.slices ∧ t.ctl = { s.ctl with frz := { s.ctl.frz with
      frozenNs := if s.ctl.frz.st = .frozen ∨ s.ctl.frz.st = .reading then s.ctl.frz.frozenNs + 4 else s.ctl.frz.frozenNs } })

/-- GLB_LOCK is sticky: no step clears LOCK, whatever command it takes and also with none waiting, but that of an event that resets the
block (R7, R558). -/
def Obligations.lock_is_sticky : Prop :=
  ∀ s t : State, s.pending.head? ≠ some .xjColdRstAssert → s.pending.head? ≠ some .xjAonRstAssert → s.pending.head? ≠ some .xjPwrgoodFall →
    s.lock.lock = true → step s = .next t → t.lock.lock = true

/-- g0 is never written: its cell stays zero over every step (R270). -/
def Obligations.g0_stays_zero : Prop :=
  ∀ s t : State, s.kn.sheep.g[0] = 0 → step s = .next t → t.kn.sheep.g[0] = 0

/-- At most 16 accesses are outstanding at the register port after every step (R539). -/
def Obligations.port_holds_sixteen : Prop :=
  ∀ s t : State, s.outstanding ≤ 16 → step s = .next t → t.outstanding ≤ 16

/-- The state after reset meets the premises of the invariants: g0 zero, no access outstanding, no command waiting; and LOCK is 0. -/
def Obligations.reset_is_sound : Prop :=
  State.reset.kn.sheep.g[0] = 0 ∧ State.reset.outstanding = 0 ∧ State.reset.pending = [] ∧ State.reset.lock.lock = false

/-- No command changes the queue behind it, and none but a crossing of the trip temperature changes XJ_THERM_TRIP (R545). -/
def Obligations.queue_and_trip_frames : Prop :=
  (∀ (c : Instr) (s t : State), (∀ up, c ≠ .thermTripCrossing up) → exec c s = .next t → t.pins.thermTrip = s.pins.thermTrip) ∧
  (∀ (c : Instr) (s t : State), exec c s = .next t → t.pending = s.pending)

/-! ### The Sheepdog's instructions -/

/-- ADDI, LUI and the thirteen ALU operations of Table 10-5, for every operand. -/
def Obligations.alu_results : Prop :=
  ∀ (s : State) (d a b : GReg) (imm : BitVec 19),
    let x := s.kn.sheep.get a
    let y := s.kn.sheep.get b
    let op := fun (fn : BitVec 7) => s.atIns (encA 1 d a b 0 fn)
    (s.atIns (encI 0 d a imm) → ∃ t, exec (.addi d a imm) s = .next t ∧ s.wrote d (x + imm.signExtend 32) t) ∧
    (s.atIns (encI 2 d 0 imm) → ∃ t, exec (.lui d 0 imm) s = .next t ∧ s.wrote d (BitVec.ofNat 32 (imm.toNat * 8192)) t) ∧
    (op 0 → ∃ t, exec (.aluAdd d a b 0) s = .next t ∧ s.wrote d (x + y) t) ∧
    (op 1 → ∃ t, exec (.aluSub d a b 0) s = .next t ∧ s.wrote d (x - y) t) ∧
    (op 2 → ∃ t, exec (.aluAnd d a b 0) s = .next t ∧ s.wrote d (x &&& y) t) ∧
    (op 3 → ∃ t, exec (.aluOr d a b 0) s = .next t ∧ s.wrote d (x ||| y) t) ∧
    (op 4 → ∃ t, exec (.aluXor d a b 0) s = .next t ∧ s.wrote d (x ^^^ y) t) ∧
    (op 5 → ∃ t, exec (.aluShl d a b 0) s = .next t ∧ s.wrote d (x <<< (y.toNat % 32)) t) ∧
    (op 6 → ∃ t, exec (.aluShr d a b 0) s = .next t ∧ s.wrote d (x >>> (y.toNat % 32)) t) ∧
    (op 7 → ∃ t, exec (.aluSar d a b 0) s = .next t ∧ s.wrote d (x.sshiftRight (y.toNat % 32)) t) ∧
    (op 8 → ∃ t, exec (.aluMul d a b 0) s = .next t ∧ s.wrote d (x * y) t) ∧
    (op 9 → ∃ t, exec (.aluMin d a b 0) s = .next t ∧ s.wrote d (BitVec.ofInt 32 (min x.toInt y.toInt)) t) ∧
    (op 10 → ∃ t, exec (.aluMax d a b 0) s = .next t ∧ s.wrote d (BitVec.ofInt 32 (max x.toInt y.toInt)) t) ∧
    (op 11 → ∃ t, exec (.aluMinu d a b 0) s = .next t ∧ s.wrote d (BitVec.ofNat 32 (min x.toNat y.toNat)) t) ∧
    (op 12 → ∃ t, exec (.aluMaxu d a b 0) s = .next t ∧ s.wrote d (BitVec.ofNat 32 (max x.toNat y.toNat)) t)

/-- MED3, IIR, DEB, RCHK and TMO of Table 10-5 (R275), with the debounce of R277. That RCHK tests the lower bound first, which tells apart
bounds that cross, is a reading (log entry 23). -/
def Obligations.filter_results : Prop :=
  ∀ (s : State) (d a b c : GReg) (imm : BitVec 19),
    let x := s.kn.sheep.get a
    let y := s.kn.sheep.get b
    let z := s.kn.sheep.get c
    let old := s.kn.sheep.get d
    (s.atIns (encA 9 d a b c 0) → ∃ t, exec (.med3 d a b c 0) s = .next t ∧
      s.wrote d (BitVec.ofInt 32 (max (min x.toInt y.toInt) (min (max x.toInt y.toInt) z.toInt))) t) ∧
    (s.atIns (encI 10 d a imm) → imm.toNat < 16 → ∃ t, exec (.iir d a imm) s = .next t ∧
      s.wrote d (old + (x - old).sshiftRight imm.toNat) t) ∧
    (s.atIns (encI 11 d a imm) → 1 ≤ imm.toNat → imm.toNat ≤ 65535 → ∃ t, exec (.deb d a imm) s = .next t ∧
      s.wrote d (
        let out := old.getLsbD 31
        let inp := decide (x ≠ 0)
        let cnt := old.toNat % 65536 + 1
        if inp = out then (if out then 0x80000000 else 0)
        else if imm.toNat ≤ cnt then (if inp then 0x80000000 else 0)
        else (if out then 0x80000000 else 0) + BitVec.ofNat 32 cnt) t) ∧
    (s.atIns (encA 12 d a b c 0) → ∃ t, exec (.rchk d a b c 0) s = .next t ∧
      s.wrote d (if x.toInt < y.toInt then 1 else if z.toInt < x.toInt then 2 else 0) t) ∧
    (s.atIns (encA 12 d a b c 1) → ∃ t, exec (.rchk d a b c 1) s = .next t ∧
      s.wrote d (if x.toNat < y.toNat then 1 else if z.toNat < x.toNat then 2 else 0) t) ∧
    (s.atIns (encI 13 d a imm) → ∃ t, exec (.tmo d a imm) s = .next t ∧
      s.wrote d (
        let age := (2 ^ 31 + s.sh.now / 1024 % 2 ^ 31 - x.toNat % 2 ^ 31) % 2 ^ 31
        if x.toNat < 2 ^ 31 ∨ imm.toNat < age then 1 else 0) t)

/-- BCC and JAL: where the program goes on (Table 10-4, Table 10-5). That JAL at the last instruction writes pc + 1 as a 32-bit value is a
reading (log entry 23). -/
def Obligations.branch_results : Prop :=
  ∀ (s : State) (d a b : GReg) (cond : BitVec 3) (off : BitVec 16) (imm : BitVec 19),
    let x := s.kn.sheep.get a
    let y := s.kn.sheep.get b
    (s.atIns (encB 6 a b cond off) → cond ≠ 7 → ∃ t, exec (.bcc a b cond off) s = .next t ∧
      t.kn.sheep.g = s.kn.sheep.g ∧ s.sheepOnly t ∧
      t.kn.sheep.pc =
        if (cond = 0 ∧ x = y) ∨ (cond = 1 ∧ x ≠ y) ∨ (cond = 2 ∧ x.toInt < y.toInt) ∨ (cond = 3 ∧ y.toInt ≤ x.toInt) ∨
           (cond = 4 ∧ x.toNat < y.toNat) ∨ (cond = 5 ∧ y.toNat ≤ x.toNat) ∨ cond = 6
        then BitVec.ofInt 12 ((s.kn.sheep.pc.toNat : Int) + off.toInt) else s.kn.sheep.pc + 1) ∧
    (s.atIns (encB 6 a b 7 off) → ∃ t, exec (.bcc a b 7 off) s = .next t ∧ s.faulted 1 t) ∧
    (s.atIns (encI 7 d a imm) → ∃ t, exec (.jal d a imm) s = .next t ∧ s.sheepOnly t ∧
      s.kn.sheep.wrote t.kn.sheep d (BitVec.ofNat 32 (s.kn.sheep.pc.toNat + 1)) ∧
      t.kn.sheep.pc = BitVec.ofNat 12 (x.toNat + imm.toNat))

/-- LD, ST and STP over the ranges of Table 10-2: what is read, what is written, and the faults (R271, R272, R278). -/
def Obligations.load_store_results : Prop :=
  ∀ (s : State) (d a : GReg) (imm : BitVec 19),
    let h := s.kn.sheep
    let w := (h.get a + imm.signExtend 32).toNat
    let x := h.get d
    (s.atIns (encI 3 d a imm) →
      (∀ v, w < 0x1000 → KMem.readC h.dmem (w / 2) = (.clean, v) →
        ∃ t, exec (.ld d a imm) s = .next t ∧ s.wrote d (halfOf v (w % 2 == 1)) t) ∧
      (0x10000 ≤ w → w < 0x10010 → ∃ t, exec (.ld d a imm) s = .next t ∧
        s.wrote d (halfOf (s.kn.mbox.getD ((w - 0x10000) / 2) 0) (w % 2 == 1)) t) ∧
      (∀ v, 0x1000000 ≤ w → w < 0x1200000 →
        ((w - 0x1000000) / 2 < 0x400000 / 8 ∨ 0x410000 / 8 ≤ (w - 0x1000000) / 2) →
        s.kn.storeRead ((w - 0x1000000) / 2) = (.clean, v) →
        ∃ t, exec (.ld d a imm) s = .next t ∧ s.wrote d (halfOf v (w % 2 == 1)) t) ∧
      (0x1000 ≤ w → (w < 0x10000 ∨ 0x10010 ≤ w) → (w < 0x1000000 ∨ 0x1200000 ≤ w) →
        ∃ t, exec (.ld d a imm) s = .next t ∧ s.faulted 3 t) ∧
      (∀ v, w < 0x1000 → KMem.readC h.dmem (w / 2) = (.uncorrectable, v) →
        ∃ t, exec (.ld d a imm) s = .next t ∧ s.faulted 4 t)) ∧
    (s.atIns (encI 4 d a imm) →
      (∀ v, w < 0x1000 → KMem.readC h.dmem (w / 2) = (.clean, v) → ∃ t, exec (.st d a imm) s = .next t ∧ s.wentOn t ∧
        KMem.read t.kn.sheep.dmem (w / 2) = encode72 (setHalf v (w % 2 == 1) x) (w / 2) ∧
        (∀ i, i ≠ w / 2 → KMem.read t.kn.sheep.dmem i = KMem.read h.dmem i) ∧ t.kn.mbox = s.kn.mbox) ∧
      (0x10000 ≤ w → w < 0x10010 → ∃ t, exec (.st d a imm) s = .next t ∧ s.wentOn t ∧
        t.kn.mbox = s.kn.mbox.modify ((w - 0x10000) / 2) (fun v => setHalf v (w % 2 == 1) x) ∧ t.kn.sheep.dmem = h.dmem) ∧
      (0x1000 ≤ w → (w < 0x10000 ∨ 0x10010 ≤ w) → ∃ t, exec (.st d a imm) s = .next t ∧ s.faulted 3 t)) ∧
    (s.atIns (encI 5 d a imm) → d ≠ 0 → d.toNat % 2 = 0 → ∃ t, exec (.stp d a imm) s = .next t ∧ s.wentOn t ∧
      let i := ((h.get a).toNat + imm.toNat) % 4096
      let k := ({ h with pc := h.pc + 1 } : Sheep).fetch
      t.kn.sheep.ir = k.ir ∧ t.kn.sheep.irBad = k.irBad ∧
      (∀ j, tget {} t.kn.sheep.prog0 j = if j = i then ⟨(x.setWidth 4 ++ h.get (d + 1)), parity64 ((x.setWidth 4 ++ h.get (d + 1)).setWidth 64)⟩
        else tget {} k.prog0 j) ∧
      (∀ j, j ≠ i → tget {} t.kn.sheep.prog1 j = tget {} k.prog1 j) ∧
      tget {} t.kn.sheep.prog1 i = tget {} t.kn.sheep.prog0 i)

/-- SAMPLE, REG_READ and REG_WRITE: the pair and the status they write (Table 10-5, R279, R283); a write whose response waits for slices in
replay stalls the Sheepdog until then (R560). That the status of a REG_READ stands when B lies in pair D, and that pair D takes the data of
an error response, zero, are readings (log entry 23). -/
def Obligations.sample_reg_results : Prop :=
  ∀ (s : State) (d a b : GReg) (imm : BitVec 19), d ≠ 0 → d.toNat % 2 = 0 →
    let o := (s.kn.sheep.get a).toNat % 2 ^ 20
    (s.atIns (encI 8 d 0 imm) → imm.toNat < 4096 →
      let cls := imm.toNat / 256
      let idx := imm.toNat % 256
      (sourceOk cls idx = true → ∃ t, exec (.sample d 0 imm) s = .next t ∧
        s.wrotePair d (s.sample cls idx).1 (BitVec.ofBool (s.sample cls idx).2.1 ++ (s.sample cls idx).2.2) t) ∧
      (cls = 0 → idx < 24 → (s.sample cls idx).1 = (s.kn.temps.getD idx {}).val) ∧
      (cls = 5 → idx < 66 → s.sample cls idx = (BitVec.ofNat 32 (s.slice idx).pwr.code, true, s.sh.tick)) ∧
      (cls = 8 → idx = 0 → s.sample cls idx = (s.sh.tick.setWidth 32, true, s.sh.tick)) ∧
      (cls = 8 → idx = 2 → s.sample cls idx = (if s.pins.thermTrip then 1 else 0, true, s.sh.tick)) ∧
      (sourceOk cls idx = false → ∃ t, exec (.sample d 0 imm) s = .next t ∧ s.faulted 1 t)) ∧
    (s.atIns (encA 14 d a b 0 0) → o % 8 = 0 → o < 0x80000 →
      let acc := acc8 false (o + 0x80000) 0 (s.kn.sheep.pair d)
      let x := (s.access .sheep acc).2.1
      s.waitsTurn .sheep acc = false → s.kn.sheep.regWait = none ∨ s.kn.sheep.regWait = some ⟨d, a, b, false, false⟩ →
      ∃ t, exec (.regRead d a b 0) s = .next t ∧ t.kn.sheep.regWait = none ∧ t.kn.sheep.pc = s.kn.sheep.pc + 1 ∧
        ∀ r, t.kn.sheep.get r = if r = b ∧ b ≠ 0 then (if x.err then 1 else 0) else if r = d then x.data.setWidth 32
          else if r = d + 1 then (x.data >>> 32).setWidth 32 else s.kn.sheep.get r) ∧
    (s.atIns (encA 14 d a b 0 1) → o % 8 = 0 → o < 0x80000 →
      let acc := acc8 true o 0 (s.kn.sheep.pair d)
      let op : RegOp := ⟨d, a, b, true, false⟩
      let u := (s.updSheep fun h => { h with regWait := some op }).access .sheep acc
      s.waitsTurn .sheep acc = false → s.kn.sheep.regWait = none ∨ s.kn.sheep.regWait = some op → u.1.kn.sheep.regWait = some op →
      (u.2.2 = [] → ∃ t, exec (.regWrite d a b 0) s = .next t ∧ t.kn.sheep.regWait = none ∧
        t.kn.sheep.pc = u.1.kn.sheep.pc + 1 ∧ u.1.kn.sheep.wrote t.kn.sheep b (if u.2.1.err then 1 else 0)) ∧
      (u.2.2 ≠ [] → ∃ t, exec (.regWrite d a b 0) s = .next t ∧ t.kn.sheep = u.1.kn.sheep ∧ t.ctl.rp.owed = some ⟨.sheep, u.2.1, u.2.2⟩)) ∧
    (s.atIns (encA 14 d a b 0 0) → (o % 8 ≠ 0 ∨ 0x80000 ≤ o) → ∃ t, exec (.regRead d a b 0) s = .next t ∧ s.faulted 1 t) ∧
    (s.atIns (encA 14 d a b 0 1) → (o % 8 ≠ 0 ∨ 0x80000 ≤ o) → ∃ t, exec (.regWrite d a b 0) s = .next t ∧ s.faulted 1 t)

/-- GRANT, PWR and CLK: accepted or refused as Table 10-8 states, and nothing else (R286). That a GRANT counts as hardware, which a
software write of SLC_EGRANT in the same cycle overrides, and that a cycle is one timestamp, are the model's choices (log entry 68). -/
def Obligations.sheepdog_actions : Prop :=
  ∀ (s : State) (d a b : GReg) (imm : BitVec 19),
    let n := (s.kn.sheep.get a).toNat
    let v := (s.kn.sheep.get b).toNat
    let mode := s.sh.mode = .run ∨ s.sh.mode = .drain ∨ s.sh.mode = .recover
    let spare := s.usable n = true ∧ (s.slice n).active = false ∧ (s.slice n).failed = false ∧ (s.slice n).sink = false ∧
      ¬(s.ctl.rcv.step ≠ 0 ∧ s.ctl.rcv.newp.toNat = n)
    let clk := (n < 66 ∧ 800 ≤ v ∧ v ≤ 2400) ∨ ((n = 66 ∨ n = 67) ∧ 500 ≤ v ∧ v ≤ 1000)
    (s.atIns (encA 15 d a b 0 0) →
      (mode → n < 66 → (s.slice n).active = true → (s.slice n).egrantAt ≠ some s.sh.now → ∃ t, exec (.grant d a b 0 0) s = .next t ∧
        (s.updSlice n fun x => { x with egrant := BitVec.ofNat 64 (v % 2 ^ 24), stale := 0, grantW := true }).wrote d 0 t) ∧
      (mode → n < 66 → (s.slice n).active = true → (s.slice n).egrantAt = some s.sh.now →
        ∃ t, exec (.grant d a b 0 0) s = .next t ∧ s.wrote d 0 t) ∧
      (¬(mode ∧ n < 66 ∧ (s.slice n).active = true) → ∃ t, exec (.grant d a b 0 0) s = .next t ∧ s.wrote d 1 t)) ∧
    (s.atIns (encI 16 d a 2) → n < 66 → spare →
      ((s.slice n).pwr = .off → ∃ t, exec (.pwr d a 2) s = .next t ∧ (s.updSlice n fun x => { x with pwr := .settling }).wrote d 0 t) ∧
      ((s.slice n).pwr = .on → ∃ t, exec (.pwr d a 2) s = .next t ∧ s.wrote d 0 t)) ∧
    (s.atIns (encI 16 d a 0) → n < 66 → spare → (s.slice n).pwr = .on → (s.slice n).quiet = true →
      ∃ t, exec (.pwr d a 0) s = .next t ∧ (s.updSlice n fun x => { x with pwr := .toOff }).wrote d 0 t) ∧
    (s.atIns (encI 16 d a imm) → imm.toNat < 3 → ¬spare → s.sh.mode ≠ .dormant → ∃ t, exec (.pwr d a imm) s = .next t ∧ s.wrote d 1 t) ∧
    (s.atIns (encA 17 d a b 0 0) →
      (clk → ∃ t, exec (.clk d a b 0 0) s = .next t ∧ (s.updCtl fun c => { c with ceil := c.ceil.set n v }).wrote d 0 t) ∧
      (¬clk → ∃ t, exec (.clk d a b 0 0) s = .next t ∧ s.wrote d 1 t))

/-- BARK, LOG, KST_LOG and KST_SLOT: what they raise, send and queue (Table 10-5, R287), and that they post and go on (R279); MODE: the
requests that the Sheepdog may make, and the status of each (R318, Table 10-8). A request that falls in the cycle of a software command is
refused (R316); that a cycle is one timestamp is the model's choice (log entry 68), and that a request of any other mode has status 1 also
during a change is a reading (log entry 98). -/
def Obligations.sheepdog_posts_and_modes : Prop :=
  (∀ (s : State) (a : GReg) (imm : BitVec 19) (k : BitVec 8),
     let h := s.kn.sheep
     let lo : Word := h.pair a
     let hi : Word := h.pair (a + 2)
     (s.atIns (encI 18 0 a imm) → imm.toNat < 16 → ∃ t, exec (.bark 0 a imm) s = .next t ∧ s.wentOn t ∧
       (s.ctl.on = true → 832 + imm.toNat ∈ t.ctl.brk.pend ∧ (∀ x ∈ s.ctl.brk.pend, x ∈ t.ctl.brk.pend))) ∧
     (s.atIns (encI 19 0 a imm) → imm.toNat < 256 → 1 ≤ a.toNat → a.toNat ≤ 60 → ∃ t, exec (.log 0 a imm) s = .next t ∧ s.wentOn t ∧
       (s.ctl.ldg.ctl.getLsbD 0 = true → s.ctl.ldg.unitOn 68 = true → s.ctl.ldg.ten.getLsbD 9 = true → s.kn.evq.length < 64 →
         t.ctl = s.ctl ∧ t.kn.evq = s.kn.evq ++ [{ at_ := s.sh.now, recs := [{ typ := 9, sub := imm.toNat, data := [lo, hi] }] }])) ∧
     (s.atIns (encI 20 0 a (0#10 ++ 0#1 ++ k)) → 1 ≤ a.toNat → a.toNat ≤ 60 → ∃ t, exec (.kstLog 0 a 0 k) s = .next t ∧ s.wentOn t ∧
       t.ctl = s.ctl ∧ (s.kn.queue.length < 16 → (∃ p ∈ s.kn.prog, p.why = .log) →
         t.kn.queue = s.kn.queue ++ [{ dest := .log, typ := k, at_ := BitVec.ofNat 64 s.sh.now, lo := lo, hi := hi }])) ∧
     (s.atIns (encI 20 0 a (0#10 ++ 1#1 ++ k)) → 1 ≤ a.toNat → a.toNat ≤ 60 → ∃ t, exec (.kstSlot 0 a 0 k) s = .next t ∧ s.wentOn t ∧
       t.ctl = s.ctl ∧ (s.kn.queue.length < 16 → (∃ p ∈ s.kn.prog, p.why = .log) →
         ∃ ty, t.kn.queue = s.kn.queue.filter (·.dest != .slot k) ++
           [{ dest := .slot k, typ := ty, at_ := BitVec.ofNat 64 s.sh.now, lo := lo, hi := hi }]))) ∧
  (∀ (s : State) (d a : GReg) (imm : BitVec 19), s.atIns (encI 21 d a imm) →
     (imm = 0 → s.changing = false → (s.sh.mode = .run ∨ s.sh.mode = .drain) → s.dormantRefused = false → s.ctl.ms.cmdAt ≠ some s.sh.now →
       ∃ t, exec (.mode d a imm) s = .next t ∧ s.kn.sheep.wrote t.kn.sheep d 0 ∧ t.kn.sheep.pc = s.kn.sheep.pc + 1 ∧
         t.sh.mode = .dormant ∧ t.sh.prev = s.sh.mode ∧ t.ctl.ms.chg = true ∧ t.ctl.ms.step = 1) ∧
     (imm = 2 → s.sh.mode = .dormant → s.ctl.ms.chg = false → s.ctl.ms.cmdAt ≠ some s.sh.now →
       ∃ t, exec (.mode d a imm) s = .next t ∧ s.kn.sheep.wrote t.kn.sheep d 0 ∧ t.kn.sheep.pc = s.kn.sheep.pc + 1 ∧
         t.ctl.ms.chg = true ∧ t.ctl.ms.step = 6 ∧
         ∀ n, (s.slice n).active = true → (s.slice n).pwr = .retained → (t.slice n).pwr = .fromRet) ∧
     (imm = 0 ∨ imm = 2 → s.sh.mode ≠ .dormant → s.changing = true → ∃ t, exec (.mode d a imm) s = .next t ∧ s.wrote d 2 t) ∧
     (imm = 0 → s.changing = false → s.dormantRefused = true → ∃ t, exec (.mode d a imm) s = .next t ∧ s.wrote d 1 t) ∧
     (imm.toNat < 8 → imm ≠ 0 → imm ≠ 2 → ∃ t, exec (.mode d a imm) s = .next t ∧ s.wrote d 1 t) ∧
     (imm = 0 ∨ imm = 2 → s.ctl.ms.cmdAt = some s.sh.now →
       ∃ t, exec (.mode d a imm) s = .next t ∧ s.wrote d (if s.changing = true then 2 else 1) t))

/-- WAIT and WAIT_END: the lowest enabled latch that is set ends the wait and is the one cleared; the tick ends it, with 4, only when no
enabled latch is set (R276); a HALT written meanwhile acts at the end of the WAIT (Table 10-13). WDT, WATCHDOG_EXPIRY and SHEEPDOG_RESTART:
the watchdog counts from the last WDT, its expiry is fault 0x6, and a restart runs the plate's program from instruction 0 with every
register zero, or after the fourth fault within 3,600 s the ROM safe program (R280, R281). -/
def Obligations.waits_and_watchdog : Prop :=
  (∀ (s : State) (d a : GReg) (imm : BitVec 19) (w : WaitOp) (b : Nat),
     let h := s.kn.sheep
     let set := fun (m : BitVec 4) (i : Nat) => m.getLsbD i = true ∧ h.latch.getLsbD i = true
     let passed := fun (t : W32) => (2 ^ 31 + s.sh.now / 1024 % 2 ^ 31 - t.toNat % 2 ^ 31) % 2 ^ 31 < 2 ^ 30
     let lowest := fun (m : BitVec 4) => b < 4 ∧ set m b ∧ ∀ i, i < b → ¬set m i
     (s.atIns (encI 22 d a imm) → imm.toNat < 16 →
       (lowest (imm.setWidth 4) → ∃ t, exec (.wait d a imm) s = .next t ∧
         s.wrote d (BitVec.ofNat 32 b) { t with kn := { t.kn with sheep := { t.kn.sheep with latch := h.latch } } } ∧
         t.kn.sheep.latch = h.latch &&& ~~~(1#4 <<< b)) ∧
       (h.latch &&& imm.setWidth 4 = 0 → passed (h.get a) → ∃ t, exec (.wait d a imm) s = .next t ∧ s.wrote d 4 t) ∧
       (h.latch &&& imm.setWidth 4 = 0 → ¬passed (h.get a) →
         exec (.wait d a imm) s = .next (s.updSheep fun h => { h with wait := some ⟨d, imm.setWidth 4, h.get a, false⟩ }))) ∧
     (s.kn.on = true → s.frozen = false → h.runState = 1 → h.wait = some w →
       (lowest w.mask → ∃ t, exec .waitEnd s = .next t ∧ t.kn.sheep.wait = none ∧ h.wrote t.kn.sheep w.d (BitVec.ofNat 32 b) ∧
         t.kn.sheep.pc = h.pc + 1 ∧ t.kn.sheep.latch = h.latch &&& ~~~(1#4 <<< b) ∧ t.kn.sheep.halted = (h.halted || w.halt)) ∧
       (h.latch &&& w.mask = 0 → passed w.tick → ∃ t, exec .waitEnd s = .next t ∧ t.kn.sheep.wait = none ∧ h.wrote t.kn.sheep w.d 4 ∧
         t.kn.sheep.pc = h.pc + 1 ∧ t.kn.sheep.latch = h.latch ∧ t.kn.sheep.halted = (h.halted || w.halt)))) ∧
  (∀ s : State,
     let h := s.kn.sheep
     (s.atIns (encI 23 0 0 0) → ∃ t, exec (.wdt 0 0 0) s = .next t ∧ s.wentOn t ∧ t.kn.sheep.wdtAt = s.sh.now) ∧
     (s.kn.on = true → s.frozen = false → h.runState = 1 → h.halted = false → h.wdtAt + s.kn.wdt.toNat % 2 ^ 17 * 1000 ≤ s.sh.now →
       ∃ t, exec .watchdogExpiry s = .next t ∧ s.faulted 6 t ∧ t.kn.sheep.faults = satInc h.faults) ∧
     (s.kn.on = true → s.frozen = false → h.runState = 4 → ∃ t, exec .sheepdogRestart s = .next t ∧
       (∀ r, t.kn.sheep.get r = 0) ∧ t.kn.sheep.pc = 0 ∧ t.kn.sheep.latch = 0 ∧ t.kn.sheep.wait = none ∧ t.kn.sheep.wdtAt = s.sh.now ∧
       t.kn.sheep.runState = (if 4 ≤ h.hist.length then 2 else 1) ∧
       (h.hist.length < 4 → t.kn.sheep.dmem = h.image.foldl (fun m x => KMem.writeD m x.1 x.2) [])))

/-! ### The register port -/

/-- The Sheepdog's registers: SHD_CMD starts the plate's program or the ROM's (R280, R282), HALT takes the Sheepdog in and out of its halt,
at the end of the WAIT under way if there is one (Table 10-13), and a mailbox write sets the latch of WAIT bit 2 (R276). Software may write
them in every mode of Table 11-6. -/
def Obligations.sheepdog_registers : Prop :=
  ∀ (s : State) (tag : BitVec 8) (i : Fin 8) (v : Word) (x : BitVec 32), s.portFree →
    let free := s.kn.sheep.wait = none ∧ s.kn.sheep.regWait = none
    (∃ t, exec (.shdCmdRestart tag) s = .next t ∧ t.ctl.rp.rsp = s.ctl.rp.rsp ++ [⟨tag, false, 0, none⟩] ∧
      t.kn.sheep.runState = 1 ∧ t.kn.sheep.pc = 0 ∧ t.kn.sheep.hist = [] ∧ (∀ r, t.kn.sheep.get r = 0) ∧ t.kn.sheep.wdtAt = s.sh.now ∧
      t.kn.sheep.dmem = s.kn.sheep.image.foldl (fun m x => KMem.writeD m x.1 x.2) [] ∧ t.slices = s.slices ∧ t.sh = s.sh) ∧
    (∃ t, exec (.shdCmdSafe tag) s = .next t ∧ t.ctl.rp.rsp = s.ctl.rp.rsp ++ [⟨tag, false, 0, none⟩] ∧
      t.kn.sheep.runState = 2 ∧ t.kn.sheep.pc = 0 ∧ (∀ r, t.kn.sheep.get r = 0) ∧ t.slices = s.slices ∧ t.sh = s.sh) ∧
    (s.lock.lock = false → s.reloading = false → s.pins.dormant = false →
      ∃ t, exec (.shdCtlHalt tag (.whole v)) s = .next t ∧ t.ctl.rp.rsp = s.ctl.rp.rsp ++ [⟨tag, false, 0, none⟩] ∧
        t.kn.ctl = v &&& 0x100 ∧ t.kn.sheep.g = s.kn.sheep.g ∧ t.kn.sheep.pc = s.kn.sheep.pc ∧
        (free → t.kn.sheep.halted = v.getLsbD 0) ∧
        (∀ w, s.kn.sheep.wait = some w → s.kn.sheep.halted = false →
          t.kn.sheep.halted = false ∧ t.kn.sheep.wait = some { w with halt := v.getLsbD 0 })) ∧
    (s.lock.lock = false → s.reloading = false → s.pins.dormant = false →
      ∃ t, exec (.shdCtlHalt tag (.low x)) s = .next t ∧ t.ctl.rp.rsp = s.ctl.rp.rsp ++ [⟨tag, false, 0, none⟩] ∧
        t.kn.ctl = x.setWidth 64 &&& 0x100 ∧ (free → t.kn.sheep.halted = x.getLsbD 0)) ∧
    (s.reloading = false → exec (.shdCtlHalt tag (.high x)) s = .next (s.answered tag)) ∧
    (s.lock.lock = true → exec (.shdCtlHalt tag (.whole v)) s = .next (s.turnedAway 0x70000 tag 7)) ∧
    (s.lock.lock = false → s.pins.dormant = true → v.getLsbD 0 = true →
      exec (.shdCtlHalt tag (.whole v)) s = .next (s.turnedAway 0x70000 tag 8)) ∧
    exec (.shdMboxWrite tag i (.whole v)) s = .next (State.answered ((s.updKn fun k => { k with mbox := k.mbox.set i.val v }).updSheep fun h =>
      { h with latch := h.latch ||| 4 }) tag) ∧
    exec (.shdMboxWrite tag i (.low x)) s = .next (State.answered ((s.updKn fun k =>
      { k with mbox := k.mbox.set i.val (setHalf (k.mbox.getD i.val 0) false x) }).updSheep fun h => { h with latch := h.latch ||| 4 }) tag) ∧
    exec (.shdMboxWrite tag i (.high x)) s = .next (State.answered ((s.updKn fun k =>
      { k with mbox := k.mbox.set i.val (setHalf (k.mbox.getD i.val 0) true x) }).updSheep fun h => { h with latch := h.latch ||| 4 }) tag)

/-- Accesses of the port (Table 19-3, R540, R556, R558): a bad size, a write through the quiet alias and an unmapped offset are refused by
their codes; GLB_ESAFE, an RWL register, is written, read, and refused under LOCK, which goes first, and in ENGRAVE; a 16-byte access whose
second beat does not arrive is answered with an error and changes nothing but what a refusal records. -/
def Obligations.port_accesses : Prop :=
  ∀ (s : State) (tag : BitVec 8) (o : BitVec 19) (v : Word) (acc : RegAcc), s.portFree →
    (accBadSize acc = true → s.sliceMoving acc = false → exec (.registerWrite acc) s = .next ((s.refuse .port acc 1).responded (errRsp acc))) ∧
    (o.toNat % 8 = 0 → s.sliceMoving (acc8 true (o.toNat + 0x80000) tag v) = false →
      exec (.registerWrite (acc8 true (o.toNat + 0x80000) tag v)) s = .next (s.turnedAway (o.toNat + 0x80000) tag 3)) ∧
    (o.toNat % 8 = 0 → regAt o.toNat = none →
      exec (.registerWrite (acc8 true o.toNat tag v)) s = .next (s.turnedAway o.toNat tag 4) ∧
      exec (.registerWrite (acc8 false o.toNat tag v)) s = .next (s.turnedAway o.toNat tag 4)) ∧
    (s.lock.lock = false → s.sh.mode ≠ .engrave → s.anyReplay = false → s.reloading = false →
      exec (.registerWrite (acc8 true 0x220 tag v)) s = .next ((s.updSh fun g => { g with esafe := v &&& 0xFFFFFF }).answered tag)) ∧
    (s.lock.lock = true → exec (.registerWrite (acc8 true 0x220 tag v)) s = .next (s.turnedAway 0x220 tag 7)) ∧
    (s.lock.lock = false → s.sh.mode = .engrave → exec (.registerWrite (acc8 true 0x220 tag v)) s = .next (s.turnedAway 0x220 tag 8)) ∧
    (s.sh.mode ≠ .engrave → exec (.registerWrite (acc8 false 0x220 tag v)) s = .next (s.answered tag s.sh.esafe)) ∧
    (s.sh.mode = .engrave → exec (.registerWrite (acc8 false 0x220 tag v)) s = .next (s.turnedAway 0x220 tag 8)) ∧
    (acc.size = 4 → accBadSize acc = false → s.sliceMoving acc = false →
      exec (.secondBeatTimeout acc) s = .next ((s.refuse .port acc 2).responded (errRsp acc)))

/-- GLB_LOCK, PRT_KEYR and the windows of a pack: the bits that a write sets, and where a window's is refused, BASE while EN is 1 and LIMIT
below BASE or changed while EN stays 1 (R39, R40, R558), in every lane form. -/
def Obligations.key_and_window_writes : Prop :=
  ∀ (s : State) (tag : BitVec 8) (a : Fin 512) (p : Fin 16) (w : Fin 8) (v : Word) (x : BitVec 32) (f : WrForm),
    s.portFree → s.sh.mode ≠ .engrave → s.anyReplay = false → s.reloading = false →
    let win := (s.sh.pack p).wins.getD w {}
    let off := 0x68040 + 0x100 * p.val + 16 * w.val + (match f with | .high _ => 4 | _ => 0)
    let base := formWritten f win.base 0xFFFFFFFFF000
    let attr := formWritten f win.attr 0xFFFFFFFFF0F5
    let limit := attr.toNat / 2 ^ 12 % 2 ^ 36
    let take := fun (g : Win → Win) => Host.Outcome.next ((s.updSh fun h => h.updPack p fun k => { k with wins := k.wins.modify w g }).answered tag)
    exec (.glbLockWrite tag (.whole v)) s = .next (State.answered { s with lock := { lock := s.lock.lock || v.getLsbD 0 } } tag) ∧
    exec (.glbLockWrite tag (.low x)) s = .next (State.answered { s with lock := { lock := s.lock.lock || x.getLsbD 0 } } tag) ∧
    exec (.glbLockWrite tag (.high x)) s = .next (s.answered tag) ∧
    exec (.prtKeyrWrite tag a (.whole v)) s =
      .next ((s.updSh fun g => g.updPort a fun k => { k with keyr := v &&& 0xFFFFFFFF }).answered tag) ∧
    exec (.prtKeyrWrite tag a (.low x)) s = .next ((s.updSh fun g => g.updPort a fun k => { k with keyr := x.setWidth 64 }).answered tag) ∧
    exec (.prtKeyrWrite tag a (.high x)) s = .next (s.answered tag) ∧
    (win.en = false → exec (.pckWinWrite tag p w false f) s = take fun y => { y with base := base }) ∧
    (win.en = true → exec (.pckWinWrite tag p w false f) s = .next (s.turnedAway off tag 9)) ∧
    (attr.getLsbD 0 = false ∨ (win.en = false ∧ win.lo ≤ limit) ∨ (win.en = true ∧ win.hi = limit) →
      exec (.pckWinWrite tag p w true f) s = take fun y => { y with attr := attr }) ∧
    (attr.getLsbD 0 = true → (win.en = false ∧ limit < win.lo) ∨ (win.en = true ∧ win.hi ≠ limit) →
      exec (.pckWinWrite tag p w true f) s = .next (s.turnedAway (off + 8) tag 9))

/-- PCK_GATE, PCK_SHAPE, PCK_RESV, PCK_ORD and SLC_EGRANT through a free register port: what each write changes, and where it is
refused. A rise of DRAIN answers an unreleased barrier with Retry (R216, R265); PCK_SHAPE moves every level, after its refill to the
moment of the write (R258, R259), and takes no narrow write; PCK_RESV and PCK_ORD want a drained pack (R163, R184); SLC_EGRANT clears
STALE (R256) and wants its slice on (R562). -/
def Obligations.pack_and_grant_registers : Prop :=
  ∀ (s : State) (tag : BitVec 8) (p : Fin 16) (n : Fin 66) (v : Word) (x : BitVec 32) (b : BarArr),
    s.portFree → s.sh.mode ≠ .engrave → s.anyReplay = false → s.reloading = false →
    let pk := s.sh.pack p
    let drained := s.drainedFor p
    let put := fun (f : Pack → Pack) => Host.Outcome.next ((s.updSh fun g => g.updPack p f).answered tag)
    let off := 0x68000 + 0x100 * p.val
    let slow := fun (l : Int) => let cap : Int := 16 * (v.toNat / 2 ^ 32 % 2 ^ 12 : Nat)
      if pk.shEn = false ∧ v.getLsbD 63 = true then cap
      else if v.getLsbD 62 = true then max (min l cap) 0 else max (min l cap) (-4 * cap)
    ((pk.drain = true ∨ v.getLsbD 0 = false) → exec (.pckGateWrite tag p (.whole v)) s = put fun k => { k with gate := v &&& 1 }) ∧
    ((pk.drain = true ∨ x.getLsbD 0 = false) →
      exec (.pckGateWrite tag p (.low x)) s = put fun k => { k with gate := x.setWidth 64 &&& 1 }) ∧
    exec (.pckGateWrite tag p (.high x)) s = .next (s.answered tag) ∧
    (pk.drain = false → v.getLsbD 0 = true → (s.slice n).active = true → (s.slice n).pwr = .on →
      (∀ q, q < 66 → q ≠ n.val → (s.slice q).bar = [] ∧ (s.slice q).coord = []) → (s.slice n).bar = [b] → b.stage ≠ 2 →
      (s.slice n).coord = [] → s.link = [] → s.ctl.rcv.step ≠ 4 → b.port < 512 → (s.sh.port b.port).packNo = p → (s.sh.port b.port).absent = false →
      ∃ t, exec (.pckGateWrite tag p (.whole v)) s = .next t ∧ (t.sh.pack p).drain = true ∧ (t.slice n).bar = [] ∧
        s.sends t [retryMsg n (b.req s.sh) 0]) ∧
    (1 ≤ v.toNat / 2 ^ 32 % 2 ^ 12 → ∃ t, exec (.pckShapeWrite tag p (.whole v)) s = .next t ∧
      (t.sh.pack p).shape = v &&& 0x80000FFF0000FFFF ∧ ∀ q : Fin 66, (t.slice q).level p = slow (((s.slice q).refill s.sh).level p)) ∧
    (v.toNat / 2 ^ 32 % 2 ^ 12 = 0 → exec (.pckShapeWrite tag p (.whole v)) s = .next (s.turnedAway (off + 0x30) tag 9)) ∧
    exec (.pckShapeWrite tag p (.low x)) s = .next (s.turnedAway (off + 0x30) tag 5) ∧
    exec (.pckShapeWrite tag p (.high x)) s = .next (s.turnedAway (off + 0x34) tag 5) ∧
    (drained = true → v.toNat % 8 ≤ 6 → (∀ q, q < 66 → (s.slice q).wat = []) →
      exec (.pckResvWrite tag p (.whole v)) s = put fun k => { k with resv := v &&& 7 }) ∧
    (drained = true → v.toNat % 8 = 7 → exec (.pckResvWrite tag p (.whole v)) s = .next (s.turnedAway (off + 0x20) tag 9)) ∧
    (drained = false → exec (.pckResvWrite tag p (.whole v)) s = .next (s.turnedAway (off + 0x20) tag 8)) ∧
    (drained = true → exec (.pckOrdWrite tag p (.whole v)) s = put fun k => { k with ord := v &&& 1 }) ∧
    (drained = false → exec (.pckOrdWrite tag p (.whole v)) s = .next (s.turnedAway (off + 0x18) tag 8)) ∧
    ((s.slice n).pwr = .on → (s.slice n).replay = false → exec (.slcEgrantWrite tag n (.whole v)) s =
      .next ((s.updSlice n fun y => { y with
        egrant := v &&& 0xFFFFFF, stale := 0, grantW := true, egrantAt := some s.sh.now }).answered tag)) ∧
    (((s.slice n).pwr = .off ∨ (s.slice n).pwr = .retained) →
      exec (.slcEgrantWrite tag n (.whole v)) s = .next (s.turnedAway (0x10248 + 0x1000 * n.val) tag 6))

/-! ### Arrival and admission -/

/-- REQUEST_ARRIVAL: an intact request takes its port's admission entry (R229, R231), or is answered at once while the slice answers
every request with a Retry that carries DRBK (R245, R428), after a domain stop (R449), or when it is lost (R444). -/
def Obligations.request_arrives : Prop :=
  ∀ (s : State) (n : Fin 66) (pkt : Pkt) (m : Msg) (r : Req),
    s.frozen = false → (s.slice n).up = true → s.intact n pkt m → m.cls = 0 → m.cmd ≠ 14 → m.cmd ≠ 15 → reqOf m = some r →
    (s.slice n).ent.any (·.port == r.port) = false →
    let x := s.slice n
    let entry : AdmEntry := { port := r.port, req := r, complete := true, contest := x.arb.toNat % 2 ^ 11, est := x.estimate s.sh r, at_ := s.sh.now }
    let token : Token := ⟨false, 512 + n.val, r.port, (x.port r.port).reqTok + 1⟩
    let answer := fun (b : Msg) => ∃ t, exec (.requestArrival n pkt) s = .next t ∧ s.sends t [b] ∧ t.tokens = s.tokens ++ [token] ∧
      (t.slice n).ent = x.ent ∧ (t.slice n).trk = x.trk ∧ s.sliceOnly n t
    (s.sh.stop = false → x.dead = false → x.retrying s.sh = false → x.parErr = [] →
      exec (.requestArrival n pkt) s = .next (s.updSlice n fun x => { x with ent := x.ent ++ [entry] })) ∧
    (s.sh.stop = true → answer (errorMsg n r 0x1C)) ∧
    (s.sh.stop = false → x.dead = true → answer (errorMsg n r 0x1B)) ∧
    (s.sh.stop = false → x.dead = false → x.retrying s.sh = true →
      answer (retryMsg n r (if s.sh.settle then 0 else s.sh.glbArb.toNat % 16)))

/-- DATA_INCOMPLETE, CONTEST_EXPIRY and CANCEL: the entry is answered and freed, with Error 0x1A once its data timeout has passed (R231),
a Retry that carries the port's BACKOFF and raises it (R235, R244), or Cancelled (R142); a Cancel that matches nothing is discarded
(R143). A command that is not due does nothing (log entry 1). -/
def Obligations.entries_answered : Prop :=
  ∀ (s : State) (n : Fin 66) (a : Fin 512) (pkt : Pkt) (m : Msg) (e : AdmEntry), (s.sh.port a).absent = false →
    let x := s.slice n
    let freed := fun (t : State) => (t.slice n).ent = x.ent.filter (·.port != a.val) ∧ (t.slice n).trk = x.trk
    let mine := x.ent.find? (·.port == a.val) = some e ∧ e.req.port = a.val
    (s.awake n → mine → e.complete = false → e.at_ + 100 * (s.sh.tmo.toNat / 2 ^ 32 % 2 ^ 10) ≤ s.sh.now →
      ∃ t, exec (.dataIncomplete n a) s = .next t ∧ s.sends t [errorMsg n e.req 0x1A] ∧ freed t) ∧
    (s.awake n → mine → s.sh.now < e.at_ + 100 * (s.sh.tmo.toNat / 2 ^ 32 % 2 ^ 10) → exec (.dataIncomplete n a) s = .next s) ∧
    (s.awake n → mine → e.complete = true → e.admitted = false → e.contest ≤ e.age → (x.port a).loss ≠ 6 →
      ∃ t, exec (.contestExpiry n a) s = .next t ∧ s.sends t [retryMsg n e.req (x.port a).exp] ∧ freed t ∧
        ((t.slice n).port a).exp = min ((x.port a).exp + 1) (s.sh.port a).bkmax ∧ ((t.slice n).port a).loss = min ((x.port a).loss + 1) 6) ∧
    (s.frozen = false → x.up = true → s.intact n pkt m → m.cls = 0 → m.cmd = 15 → m.src.toNat = a.val → x.replay = false →
      s.sh.stop = false → s.sh.gated m.pack.toNat = false → (∀ u ∈ x.trk, u.req.port ≠ a.val ∧ u.no < 240) → (∀ u ∈ x.agedq, u.1.port ≠ a.val) →
      (mine → (∀ u ∈ x.ent, u.req.port = u.port) → e.admitted = false → e.req.txid = m.txid → e.req.line = m.line →
        (e.req.intent = 1 ∨ e.req.intent = 2) →
        ∃ t, exec (.cancel n pkt) s = .next t ∧ s.sends t [rspTo n e.req 6 0] ∧ freed t) ∧
      ((∀ u ∈ x.ent, u.req.port ≠ a.val) →
        ∃ t, exec (.cancel n pkt) s = .next t ∧ s.sends t [] ∧ (t.slice n).ent = x.ent ∧ (t.slice n).trk = x.trk ∧
          t.tokens = s.tokens ++ [⟨true, 512 + n.val, a.val, (x.port a).ctlTok + 1⟩]))

/-- ADMISSION_PHASE and QUOTA_WINDOW_START: the entry of a gated pack is answered (R263), an aged request goes first (R148), the entry
that wins the draw is admitted (R233), and a quota window's start lifts every muzzle (R241). A command that is not due does nothing (log
entry 1). -/
def Obligations.admission_phase : Prop :=
  ∀ (s : State) (n : Fin 66) (r : Req) (e : AdmEntry) (est : Int) (rest : List (Req × Int)) (k : Nat), s.awake n →
    let x := s.slice n
    let c := x.cycle s.sh
    let admitted := fun (t : State) (r : Req) (aged : Bool) =>
      ∃ y ∈ (t.slice n).trk, y.no = k ∧ y.req = r ∧ y.aged = aged ∧ y.stat = .admitted
    (x.serving s.sh = true → x.claimed s.sh = false → x.claim = 0 → x.dslot = 0 → x.bgCount + 1 < x.arb.toNat / 2 ^ 32 % 2 ^ 13 →
      (x.ent = [] → x.agedq = (r, est) :: rest → c.takeNo s.sh r true = some k →
        ∃ t, exec (.admissionPhase n) s = .next t ∧ s.sends t [] ∧ (t.slice n).agedq = rest ∧ admitted t r true) ∧
      (x.agedq = [] → (∀ u ∈ x.ent, s.sh.gated u.req.pack.toNat = false ∧ x.aged u.port = false) → c.draw s.sh = some e →
        c.takeNo s.sh e.req false = some k →
        ∃ t, exec (.admissionPhase n) s = .next t ∧ s.sends t [] ∧ (t.slice n).cyc = x.cyc + 1 ∧ admitted t e.req false)) ∧
    (x.serving s.sh = true → x.ent = [e] → e.req.port = e.port → e.complete = true → e.admitted = false →
      s.sh.gated e.req.pack.toNat = true → (s.sh.port e.port).absent = false → e.port < 512 →
      ∃ t, exec (.admissionPhase n) s = .next t ∧ s.sent t (retryMsg n e.req (if s.sh.settle then 0 else s.sh.glbArb.toNat % 16)) ∧
        (t.slice n).ent = []) ∧
    (x.qwin ≤ x.qpos → ∃ t, exec (.quotaWindowStart n) s = .next t ∧ s.sliceOnly n t ∧ (∀ a, ((t.slice n).port a).quota = 0) ∧
      (t.slice n).qpos = 0) ∧
    (x.qpos < x.qwin → exec (.quotaWindowStart n) s = .next s)

/-- Background work and the epoch: a due floor takes one background step (R261), a scrub step falls due by time (R388), by the PERIOD with
which its pass began (Table 13-14), and a boundary, of the length in force in its epoch (Table 9-8), gives every slice its grant with the
debt of the last epoch (R254, R256) and sets the latch of WAIT bit 0 (R276). A command that is not due does nothing (log entry 1). -/
def Obligations.background_and_epoch : Prop :=
  ∀ (s : State) (n : Fin 66),
    let x := s.slice n
    let len := s.ctl.epLen * 1000
    let per := if x.scDue = 0 then s.sh.scrub.toNat % 2 ^ 17 else x.scPer
    (s.awake n → x.serving s.sh = true → x.claimed s.sh = false → x.claim = 0 → x.arb.toNat / 2 ^ 32 % 2 ^ 13 ≤ x.bgCount → x.bgFree = true →
      ∃ t, exec (.backgroundFloorDue n) s = .next t ∧ (t.slice n).bgCount = 0 ∧ (t.slice n).bgTurn = (x.bgNext s.sh + 1) % 4) ∧
    (s.awake n → x.bgCount < x.arb.toNat / 2 ^ 32 % 2 ^ 13 → exec (.backgroundFloorDue n) s = .next s) ∧
    (s.awake n → x.scDue < 78104 → x.scStart + x.scDue * (per * 1000000000) / 78104 ≤ s.sh.now →
      exec (.scrubStepDue n) s = .next (s.updSlice n fun x => { x with scDue := x.scDue + 1, scPer := per })) ∧
    (s.awake n → s.sh.now < x.scStart + x.scDue * (per * 1000000000) / 78104 → exec (.scrubStepDue n) s = .next s) ∧
    (s.frozen = false → s.ctl.on = true → s.sh.mode ≠ .engrave → 0 < len → s.ctl.epochAt < s.sh.now / len * len → s.kn.sheep.runState ≠ 2 →
      ∃ t, exec .epochBoundary s = .next t ∧ t.ctl.epochAt = s.sh.now / len * len ∧ t.ctl.epLen = s.sh.epoch.toNat % 2 ^ 7 ∧
        t.kn.sheep.latch = s.kn.sheep.latch ||| 1 ∧
        ((s.slice n).active = true → (s.slice n).pwr = .on →
          (t.slice n).remain = (t.slice n).grantE + min x.remain 0 ∧ (t.slice n).grantW = false ∧
          (t.slice n).grantE = if x.grantW = true ∨ x.stale < s.sh.epoch.toNat / 2 ^ 24 % 2 ^ 8 then x.egrant.toNat % 2 ^ 24
            else s.sh.esafe.toNat % 2 ^ 24))

/-! ### Decisions -/

/-- The decision of a request that meets nothing else in its slice, for every request type that reads a decision table and every holder
set: the block sends exactly the messages that the table's row calls for, in the order of R114, and the request then waits for their
answers or is complete. The Stash is one that is not offered, the Atomic one that is near. -/
def Obligations.decision_messages : Prop :=
  ∀ (s : State) (n : Fin 66) (t : Fin 240) (k : Tracker) (kind : ReqKind) (way : Option Nat) (e : EntNew),
    let x := s.slice n
    let r := k.req
    let p := tablePlan kind e r.port
    kind ≠ .resvWatch → kind ≠ .barrier → kind ≠ .cancel →
    s.alone n k → k.no = t.val → r.kind = kind → s.entry n r way e → (way.isSome = true ∨ p.new.canon.st = .i ∨ s.freeWay n r) →
    unlisted kind false e r.port = false → (∀ a ∈ p.snooped, a < 512 ∧ (s.sh.port a).absent = false) →
    (kind = .stash → x.offers s.sh r = false) → (kind = .atomic → x.goesFar s.sh r (x.ownEvent s.sh r).2.1 e.pred = false) →
    ∃ u, exec (decisionOf kind n t) s = .next u ∧ s.sends u (planMessages n s.sh k p) ∧
      (u.slice n).ent = (if k.entry = true then x.ent.filter (·.port != r.port) else x.ent) ∧
      (0 < p.snoops ∨ memMsgOf n s.sh k p ≠ none → ∃ y, (u.slice n).trk = [y] ∧ y.no = k.no ∧ y.req = r ∧ y.stat = .decided ∧
        y.status = p.status ∧ y.grant = p.grant ∧ y.exp.length = p.snoops + (memMsgOf n s.sh k p).toList.length)

/-- What a request finds and leaves in the directory when the line is not there (Table 4-9): a read with ownership takes a way for the
requester in X, and a LeashTake a leash table entry beside it (R192); RdOnce, WrFull and WrPartial take none. The way is the lowest free
one (log entry 14). -/
def Obligations.uncached_lines : Prop :=
  ∀ (s : State) (n : Fin 66) (t : Fin 240) (k : Tracker),
    let x := s.slice n
    let r := k.req
    let set := lpSet (s.sh.lp r.line)
    let entry := fun (u : State) (v : Nat) (st : DirSt) =>
      ∃ e : EntNew, e.st = st ∧ e.owner = r.port ∧ e.leash < 32 ∧ e.pred = false ∧
        (u.slice n).fetch (entAddr set v) = encode72 (e.inlineWord (lpTag (s.sh.lp r.line))) (entAddr set v)
    s.alone n k → k.no = t.val → s.entry n r none { st := .i } → x.stuck = [] → x.repair = [] →
    (∀ v, (List.range s.sh.dirw).find? (x.freeWay s.sh set) = some v →
      (r.kind = .rdShared → ∃ u, exec (.rdShared n t) s = .next u ∧ entry u v .x) ∧
      (r.kind = .rdUnique → ∃ u, exec (.rdUnique n t) s = .next u ∧ entry u v .x) ∧
      (r.kind = .upgrade → ∃ u, exec (.upgrade n t) s = .next u ∧ entry u v .x) ∧
      (r.kind = .leashTake → ∃ u, exec (.leashTake n t) s = .next u ∧ entry u v .l ∧
        ∃ l, (u.slice n).lsh = [l] ∧ l.no < 32 ∧ l.agent = r.port ∧ l.slot = r.f.getLsbD 0 ∧ l.line = r.line ∧
          l.limit = (s.sh.port r.port).leashLimit * 250 ∧ l.start = none)) ∧
    (r.kind = .rdOnce → ∃ u, exec (.rdOnce n t) s = .next u ∧ (u.slice n).mem = x.mem) ∧
    (r.kind = .wrFull → ∃ u, exec (.wrFull n t) s = .next u ∧ (u.slice n).mem = x.mem) ∧
    (r.kind = .wrPartial → ∃ u, exec (.wrPartial n t) s = .next u ∧ (u.slice n).mem = x.mem)

/-- The rows of Tables 4-9, 7-4 and 7-6 for a line in X with another owner, and for one in S and O: whom a request reaches, what it asks
of memory, and the holder set it leaves. -/
def Obligations.decision_tables : Prop :=
  ∀ (o a : Nat) (v : Vec) (pr : Bool), o ≠ a → a < 512 → v.getLsbD a = false →
    let X : EntNew := { st := .x, owner := o, pred := pr }
    let O : EntNew := { st := .o, owner := o, sharers := v, pred := pr }
    let S : EntNew := { st := .s, sharers := v, pred := pr }
    -- reads
    ((planRdShared X a).fwd = some (o, false, false) ∧ (planRdShared X a).mem = .none ∧ (planRdShared X a).invals = [] ∧
      (∀ b, b < 512 → ((planRdShared X a).new.holds b = true ↔ b = o ∨ b = a)) ∧ (planRdShared X a).new.owns o = true) ∧
    ((planRdShared S a).fwd = none ∧ (planRdShared S a).mem = .read 1 ∧
      ∀ b, b < 512 → ((planRdShared S a).new.holds b = true ↔ v.getLsbD b = true ∨ b = a)) ∧
    ((planRdUnique O a pr).fwd = some (o, true, false) ∧ (planRdUnique O a pr).invals = vecMembers v ∧
      (planRdUnique O a pr).new = EntNew.x a pr) ∧
    ((planRdUnique S a pr).fwd = none ∧ (planRdUnique S a pr).invals = vecMembers v ∧ (planRdUnique S a pr).mem = .read 2 ∧
      (planRdUnique S a pr).new = EntNew.x a pr) ∧
    ((planRdOnce X).fwd = some (o, false, true) ∧ (planRdOnce X).new = X ∧ (planRdOnce S).mem = .read 0 ∧ (planRdOnce S).new = S) ∧
    ((planUpgrade { S with sharers := vecAdd v a } a pr).invals = (vecMembers (vecAdd v a)).filter (· != a) ∧
      (planUpgrade { S with sharers := vecAdd v a } a pr).mem = .none ∧ (planUpgrade { S with sharers := vecAdd v a } a pr).grant = 2 ∧
      (planUpgrade { S with sharers := vecAdd v a } a pr).new = EntNew.x a pr) ∧
    -- writes
    ((planWrFull O).invals = vecMembers (vecAdd v o) ∧ (planWrFull O).mem = .write ∧ (planWrFull O).recl = none ∧ (planWrFull O).new.st = .i) ∧
    ((planWrPartial O).recl = some o ∧ (planWrPartial O).invals = vecMembers v ∧ (planWrPartial O).mem = .afterOwner ∧
      (planWrPartial O).new.st = .i) ∧
    ((planWrPartial S).recl = none ∧ (planWrPartial S).invals = vecMembers v ∧ (planWrPartial S).mem = .write) ∧
    -- departures
    ((planWrBack X o).mem = .write ∧ (planWrBack X o).new.st = .i ∧ (planWrBack X a).status = 3 ∧ (planWrBack X a).mem = .none) ∧
    ((planWrBack O o).mem = .write ∧ ∀ b, b < 512 → ((planWrBack O o).new.holds b = true ↔ v.getLsbD b = true)) ∧
    ((planEvictClean S a).status = 3 ∧ (planEvictClean S a).new = S ∧
      ∀ b c, b < 512 → v.getLsbD c = true → c < 512 → ((planEvictClean S c).new.holds b = true ↔ v.getLsbD b = true ∧ b ≠ c)) ∧
    -- far Atomics
    ((planFar X a false).recl = some o ∧ (planFar X a false).mem = .afterOwner ∧ (planFar S a false).mem = .farRead ∧
      (planFar S a false).invals = vecMembers v ∧ (planFar S a false).new.st = .i)

/-- A waiting request whose condition has ended is decided as one that had just been admitted (R155, R78), and a memory request that R113
held back is sent once nothing of its line is before it. -/
def Obligations.waiting_decisions : Prop :=
  ∀ (s : State) (n : Fin 66) (t : Fin 240) (k : Tracker) (way : Option Nat) (e : EntNew) (m : Exp),
    let x := s.slice n
    let r := k.req
    let p := tablePlan r.kind e r.port
    let decided := fun (i : Instr) => ∃ u, exec i s = .next u ∧ s.sends u (planMessages n s.sh k p)
    (k.no = t.val → s.single n k → s.entry n r way e → (way.isSome = true ∨ p.new.canon.st = .i ∨ s.freeWay n r) →
      unlisted r.kind false e r.port = false → (∀ a ∈ p.snooped, a < 512 ∧ (s.sh.port a).absent = false) →
      r.kind ∈ [ReqKind.rdShared, .rdUnique, .rdOnce, .upgrade, .wrBack, .evictClean, .wrFull, .wrPartial, .leashFree] →
      (k.stat = .waiting .order → decided (.waitingRequestDecide n t)) ∧ (k.stat = .waiting .way → decided (.wayOrRecallFree n t))) ∧
    (s.awake n → x.trk = [k] → x.rcl = [] → x.collapses = [] → x.far = [] → k.exp = [m] → m.kind = .mem → m.held = true →
      512 ≤ m.msg.dst.toNat → k.no < 240 →
      ∃ u, exec (.memoryRequestRelease n (BitVec.ofNat 12 k.no)) s = .next u ∧ s.sends u [{ m.msg with route := 0 }] ∧
        ∃ y, (u.slice n).trk = [y] ∧ y.no = k.no ∧ y.exp = [{ m with held := false, sentAt := s.sh.now }])

/-- The stencil unit's oldest operation: an entry that fits is written inline, one that does not takes the lowest-numbered free row
(R61, R65, R68). -/
def Obligations.stencil_operations : Prop :=
  ∀ (s : State) (n : Fin 66) (o : StnOp) (r : Nat),
    let x := s.slice n
    let a := entAddr o.set o.way
    s.awake n → x.stq = [o] → x.stwait = [] → x.collapses = [] → o.release = none → o.task = none → o.htx = none → x.stuck = [] →
    x.repair = [] → x.parErr = [] → (x.readC a).1 = .clean → eForm (x.readD a) = false → eState (x.readD a) ≠ 5 → o.set < 32768 → o.way < 16 →
    (o.new.fits = true → ∃ u, exec (.stencilOpComplete n) s = .next u ∧ s.sends u [] ∧ (u.slice n).stq = [] ∧
      (u.slice n).fetch a = encode72 (o.new.inlineWord (lpTag (s.sh.lp o.line))) a) ∧
    (o.new.fits = false → x.stnFind s.sh o.new.sharers = none → x.freeRow s.sh = some r → r < 8192 →
      (∀ i ∈ x.findWords s.sh o.new.sharers, (x.readC i).1 = .clean) →
      ∃ u, exec (.stencilOpComplete n) s = .next u ∧ s.sends u [] ∧ (u.slice n).stq = [] ∧
        (u.slice n).fetch a = encode72 (o.new.stnWord (lpTag (s.sh.lp o.line)) r) a)

/-- The operations of Table 7-2 on the operand at OFF of the line: the value returned, the new value, and every other byte as before
(R167). -/
def Obligations.atomic_operations : Prop :=
  ∀ (r : Req) (line : BitVec 512),
    let k := 8 * r.opSize
    let off := 8 * (r.f.toNat / 2 ^ 6 % 2 ^ 6)
    let V : BitVec k := BitVec.ofNat k (line.toNat / 2 ^ off)
    let A : BitVec k := BitVec.ofNat k r.operands.1
    let C : BitVec k := BitVec.ofNat k r.operands.2
    let new : BitVec k := match r.f.toNat % 16 with
      | 0 => A
      | 1 => if V = C then A else V
      | 2 => V + A
      | 3 => V &&& ~~~A
      | 4 => V ||| A
      | 5 => V ^^^ A
      | 6 => if V.slt A then A else V
      | 7 => if A.slt V then A else V
      | 8 => if V.ult A then A else V
      | _ => if A.ult V then A else V
    r.f.toNat % 16 ≤ 9 → r.opSize ≤ 16 → off + k ≤ 512 →
    (r.performAtomic line).2.toNat = V.toNat ∧
    BitVec.ofNat k ((r.performAtomic line).1.toNat / 2 ^ off) = new ∧
    ∀ i, i < 512 → (i < off ∨ off + k ≤ i) → (r.performAtomic line).1.getLsbD i = line.getLsbD i

/-- Far Atomics: on a line that is nowhere one takes a far register and reads the line from memory (R176), the merge unit answers V and
keeps the new line in the register (R177), and an idle register writes its line back with the home TXID 328 + f and PACK 0 (R179). -/
def Obligations.far_atomics : Prop :=
  ∀ (s : State) (n : Fin 66) (t : Fin 240) (f : Fin 8) (k : Tracker) (y : FarReg) (m : Nat) (rest : List Nat),
    let x := s.slice n
    let r := k.req
    let a := bankAddr 28 (8 * f.val)
    let clean := ∀ j, j < 8 → (x.readC (a + j)).1 = .clean
    (s.alone n k → k.no = t.val → r.kind = .atomic → s.entry n r none { st := .i } → x.goesFar s.sh r (x.ownEvent s.sh r).2.1 false = true →
      s.sh.target r.line = some m →
      ∃ u, exec (.atomic n t) s = .next u ∧ s.sends u [memRd n m k.no r.pack r.line false (512 + n.val) r.txid 0 r.crit] ∧
        (u.slice n).mem = x.mem ∧ ∃ z, (u.slice n).far = [z] ∧ z.no < 8 ∧ z.line = r.line ∧ z.queue = [k.no] ∧ z.valid = false) ∧
    (s.awake n → x.trk = [k] → x.rcl = [] → x.collapses = [] → x.far = [y] → k.no = t.val → k.far = some f.val → k.stat = .decided →
      k.poison = false → (∀ e ∈ k.exp, e.kind = .data) → y.no = f.val → y.valid = true → y.poison = false → y.queue = k.no :: rest →
      y.wbWanted = false → r.kind = .atomic → r.port < 512 → (s.sh.port r.port).absent = false → clean → x.stuck = [] → x.repair = [] →
      let v := (x.readLine a).1
      ∃ u, exec (.farAtomicExecute n t) s = .next u ∧
        s.sends u [{ compOf n k false with units := [(r.performAtomic v).2] }] ∧ (u.slice n).trk = [] ∧
        (u.slice n).far = [{ y with queue := rest, idle := 0, last := s.sh.now }] ∧
        ∀ j, j < 8 → (u.slice n).fetch (a + j) = encode72 (((r.performAtomic v).1 >>> (64 * j)).setWidth 64) (a + j)) ∧
    (s.awake n → x.far = [y] → y.no = f.val → y.valid = true → y.queue = [] → y.wb = none → x.atmCtl.toNat / 2 ^ 16 % 2 ^ 16 ≤ y.idle → clean →
      s.sh.target y.line = some m → m < 32 →
      ∃ u, exec (.farRegisterIdle n f) s = .next u ∧
        s.sends u [memWr n m (328 + f.val) 0 y.line beAll (unitsOfLine (x.readLine a).1 0) y.poison] ∧
        ∃ z, (u.slice n).far = [z] ∧ z.no = f.val ∧ z.wb.isSome = true)

/-- Leashes and watches: an expired leash is cut (R195), an installed watch is held by every active slice (R186), the deregistering form
removes it (R185), a pack without watches completes at once (R184), a ResvWatch that waited for the oldest watch to age is
installed (R186), and the holder's LeashFree frees its leash and leaves the entry in X (R192). -/
def Obligations.leashes_and_watches : Prop :=
  ∀ (s : State) (n : Fin 66) (t : Fin 240) (li : Fin 32) (k : Tracker) (l : Leash) (t0 v : Nat) (e : EntNew),
    let x := s.slice n
    let r := k.req
    let at_ := entAddr (lpSet (s.sh.lp r.line)) v
    let gran := (s.sh.pack r.pack.toNat).gran
    let th : BitVec 2 := BitVec.ofNat 2 (r.f.toNat % 4)
    let mine := fun (w : Watch) => w.agent = r.port ∧ w.thread = th
    (s.awake n → x.lsh = [l] → l.no = li.val → l.start = some t0 → t0 + l.limit ≤ s.sh.now → l.cut = none → l.agent < 512 →
      (s.sh.port l.agent).absent = false →
      ∃ u, exec (.leashExpiry n li) s = .next u ∧
        s.sends u [snp n 8 l.agent (288 + l.no) (BitVec.ofNat 4 (s.sh.port l.agent).packNo) l.line (if l.slot then 1 else 0)] ∧
        ∃ z, (u.slice n).lsh = [z] ∧ z.no = l.no ∧ z.cut.isSome = true) ∧
    (s.alone n k → k.no = t.val → r.kind = .resvWatch →
      (gran = 0 → ∃ u, exec (.resvWatch n t) s = .next u ∧ s.sends u [compMsg n r k.status.toNat k.grant.toNat]) ∧
      (gran ≠ 0 → r.f.getLsbD 2 = false → ∃ u, exec (.resvWatch n t) s = .next u ∧ s.sends u [] ∧
        ∀ i, (s.slice i).active = true → (s.slice i).pwr = .on →
          ∃ w ∈ (u.slice i).wat, mine w ∧ w.gran = gran ∧ w.at_ = s.sh.now ∧ w.first = BitVec.ofNat 42 (r.line.toNat / 2 ^ gran * 2 ^ gran)) ∧
      (gran ≠ 0 → r.f.getLsbD 2 = true → ∃ u, exec (.resvWatch n t) s = .next u ∧ s.sends u [] ∧
        ∀ i, ∀ w ∈ (u.slice i).wat, ¬mine w)) ∧
    (s.awake n → s.anyReplay = false → x.trk = [k] → x.rcl = [] → x.collapses = [] → k.no = t.val → r.kind = .resvWatch → k.stat = .decided →
      (∀ e ∈ k.exp, e.kind = .data) → k.unit = none → r.port < 512 → (s.sh.port r.port).absent = false →
      ∃ u, exec (.watchInstalled n t) s = .next u ∧ s.sends u [compOf n k k.poison] ∧ (u.slice n).trk = []) ∧
    (s.single n k → k.no = t.val → r.kind = .resvWatch → k.stat = .waiting .watchAge → gran ≠ 0 → r.f.getLsbD 2 = false →
      ∃ u, exec (.watchAgeReached n t) s = .next u ∧ s.sends u [] ∧
        ∀ i, (s.slice i).active = true → (s.slice i).pwr = .on → ∃ w ∈ (u.slice i).wat, mine w ∧ w.gran = gran ∧ w.at_ = s.sh.now) ∧
    ((s.updSlice n fun y => { y with lsh := [] }).alone n k → k.no = t.val → r.kind = .leashFree → x.lsh = [l] → l.agent = r.port →
      l.slot = r.f.getLsbD 0 → l.cut = none → x.entryOf s.sh r.line = (some v, e) → e.st = .l → e.owner = r.port → e.leash = l.no →
      x.entOk s.sh r.line (x.readD at_) = true → x.stuck = [] → x.repair = [] →
      ∃ u, exec (.leashFree n t) s = .next u ∧ s.sends u [compMsg n r 0 0] ∧ (u.slice n).lsh = [] ∧ (u.slice n).trk = [] ∧
        (u.slice n).fetch at_ = encode72 ((EntNew.x r.port e.pred).inlineWord (lpTag (s.sh.lp r.line))) at_)

/-- A Stash that is offered (R222, R223): SnpStash with the line to its target, which the entry now records in X. The way is the lowest
free one (log entry 14). -/
def Obligations.offered_stash : Prop :=
  ∀ (s : State) (n : Fin 66) (t : Fin 240) (k : Tracker) (v : Nat),
    let x := s.slice n
    let r := k.req
    let set := lpSet (s.sh.lp r.line)
    s.alone n k → k.no = t.val → r.kind = .stash → s.entry n r none { st := .i } → x.offers s.sh r = true → x.stuck = [] → x.repair = [] →
    (List.range s.sh.dirw).find? (x.freeWay s.sh set) = some v →
    ∃ u, exec (.stash n t) s = .next u ∧ s.sends u [snp n 6 r.tgt k.no r.pack r.line (fPut 4 3) r.data] ∧
      (u.slice n).fetch (entAddr set v) = encode72 ((EntNew.x r.tgt false).inlineWord (lpTag (s.sh.lp r.line))) (entAddr set v) ∧
      ∃ y, (u.slice n).trk = [y] ∧ y.no = k.no ∧ y.stat = .decided ∧ y.offered = true

/-! ### Answers -/

/-- The one answer that a decided transaction still awaits completes it: the Comp goes out with the decision's STATUS and GRANT and the
POISON of the answer, and the tracker is freed (R115, R116, R121). -/
def Obligations.last_answer_completes : Prop :=
  ∀ (s : State) (n : Fin 66) (pkt : Pkt) (m : Msg) (k : Tracker) (e : Exp),
    s.awaits n k e → s.intact n pkt m → m.txid.toNat = k.no → m.src.toNat = e.node →
    let done := fun (i : Instr) (poison : Bool) =>
      ∃ t, exec i s = .next t ∧ s.sends t [compOf n k poison] ∧ (t.slice n).trk = []
    (m.cls = 2 → m.cmd = 9 → e.kind = .mem → done (.memRsp n pkt) (k.poison || m.f.getLsbD 17)) ∧
    (m.cls = 2 → m.cmd = 1 → m.f.getLsbD 0 = false → m.line = e.msg.line → e.kind = .inval → done (.ackInval n pkt) k.poison) ∧
    (m.cls = 2 → m.cmd = 2 → m.line = e.msg.line → e.kind = .fwd → done (.ackFwd n pkt) (k.poison || m.f.getLsbD 17))

/-- Data for a home: the owner's line that a WrPartial recalls is merged with its enabled bytes and written to memory (R118, R119), and
the line that a far Atomic reads from memory fills its register (R176, R180). -/
def Obligations.data_arrives : Prop :=
  ∀ (s : State) (n : Fin 66) (pkt : Pkt) (m : Msg) (k : Tracker) (e : Exp) (mt : Nat) (y : FarReg),
    let x := s.slice n
    let r := k.req
    s.intact n pkt m → m.txid.toNat = k.no → m.src.toNat = e.node →
    (s.awaits n k e → m.cls = 3 → m.cmd = 3 → m.line = e.msg.line → e.kind = .recall → r.kind = .wrPartial →
      s.sh.target r.line = some mt → mt < 32 →
      ∃ t, exec (.wrData n pkt) s = .next t ∧
        s.sends t [memWr n mt k.no r.pack r.line beAll
          (unitsOfLine (mergeLine (lineOfUnits m.units 0) (lineOfUnits r.data 0) r.be) 0) (m.f.getLsbD 17 || r.poison)] ∧
        ∃ z, (t.slice n).trk = [z] ∧ z.no = k.no ∧ z.exp.map (·.kind) = [.mem]) ∧
    (s.awake n → x.trk = [k] → k.no < 240 → k.far = some y.no → x.far = [y] → y.valid = false → e ∈ k.exp → e.kind = .mem → e.held = false →
      e.msg.cmd = 16 → m.cls = 3 → m.cmd = 2 → x.stuck = [] → x.repair = [] →
      ∃ t, exec (.dataFromMem n pkt) s = .next t ∧ s.sliceOnly n t ∧ s.sends t [] ∧ (t.slice n).trk = [k] ∧
        (t.slice n).far = [{ y with valid := true, poison := m.f.getLsbD 17 }] ∧
        ∀ j, j < 8 → (t.slice n).fetch (bankAddr 28 (8 * y.no) + j) =
          encode72 (((lineOfUnits m.units (fld m.f 27 26)) >>> (64 * j)).setWidth 64) (bankAddr 28 (8 * y.no) + j))

/-- Answers that do not come: a snoop is sent once more and then its agent is declared dead (R445), a late memory answer only counts
(R530), a Resend brings the most recent matching copy (R534), and a packet that still fails 1 µs after its Resend is asked for a second
time (R535). A time-out that is not due does nothing (log entry 1). -/
def Obligations.answers_overdue : Prop :=
  ∀ (s : State) (n : Fin 66) (a : Fin 512) (i : Fin 68) (i' : Fin 67) (pkt : Pkt) (m : Msg) (k : Tracker) (e : Exp) (j : BitVec 12)
      (w : ResendWait),
    let x := s.slice n
    let limit := 1000 * (s.sh.tmo.toNat % 2 ^ 20)
    i.val = n.val → i'.val = n.val →
    (s.awaits n k e → e.node = a.val → e.kind = .inval → e.sentAt + limit ≤ s.sh.now → e.msg.dst.toNat = a.val → (s.sh.port a).absent = false →
      (e.tries = 0 → ∃ t, exec (.responseTimeout n (BitVec.ofNat 12 k.no) a) s = .next t ∧ s.sends t [{ e.msg with route := 0 }] ∧
        ∃ y, (t.slice n).trk = [y] ∧ y.exp = [{ e with tries := 1, sentAt := s.sh.now }]) ∧
      (e.tries = 1 → s.sh.walk = none → ∃ t, exec (.responseTimeout n (BitVec.ofNat 12 k.no) a) s = .next t ∧ s.sends t [] ∧
        (t.sh.port a).dead = true ∧ t.sh.walk = some a.val)) ∧
    (s.awaits n k e → s.sh.now < e.sentAt + limit → exec (.responseTimeout n (BitVec.ofNat 12 k.no) a) s = .next s) ∧
    (s.awaits n k e → e.kind = .mem → e.sentAt + (e.tries + 1) * limit ≤ s.sh.now →
      ∃ t, exec (.memAnswerLate i' (BitVec.ofNat 12 k.no)) s = .next t ∧ s.sends t [] ∧
        ∃ y, (t.slice n).trk = [y] ∧ y.no = k.no ∧ y.stat = .decided ∧ y.exp = [{ e with tries := e.tries + 1 }]) ∧
    (s.frozen = false → x.up = true → s.sh.stop = false → s.intact n pkt m → m.cls = 2 → m.cmd = 8 →
      (∀ c, resendCopy x.copies m = some c → 512 ≤ c.dst.toNat ∨ (s.sh.port c.dst.toNat).absent = false →
        ∃ t, exec (.resend i pkt) s = .next t ∧ s.sends t [{ c with route := 0 }]) ∧
      (resendCopy x.copies m = none → ∃ t, exec (.resend i pkt) s = .next t ∧ s.sends t [] ∧ s.sliceOnly n t)) ∧
    (s.awake n → x.rsends[j.toNat]? = some w → w.left = none → w.sent = 1 → w.at_ + 1000 ≤ s.sh.now →
      (512 ≤ w.src.toNat ∨ (s.sh.port w.src.toNat).absent = false) →
      ∃ t, exec (.resendTimeout i j) s = .next t ∧ s.sends t [resendFor (w.msg (512 + n.val))] ∧
        (t.slice n).rsends[j.toNat]? = some { w with sent := 2, at_ := s.sh.now }) ∧
    (s.awake n → x.rsends[j.toNat]? = some w → s.sh.now < w.at_ + 1000 → exec (.resendTimeout i j) s = .next s)

/-- Replay: a control logic fault puts the slice into replay, software can force one, its end brings the slice back with every port aged,
and one that lasts 50 µs fails the slice (R427 to R431). Which messages had not left the slice is an operand of the fault (log entry 12),
FORCE is answered at once (log entry 49), and a command that is not due does nothing (log entry 1). -/
def Obligations.replay_commands : Prop :=
  ∀ (s : State) (n : Fin 66) (cause tag : BitVec 8) (un : List (BitVec 12)),
    let x := s.slice n
    let inReplay := fun (t : State) (c : BitVec 8) => (t.slice n).replay = true ∧ (t.slice n).rcause = c ∧ (t.slice n).rstart = s.sh.now ∧
      (t.slice n).emergency = true ∧ (t.slice n).trk = x.trk ∧ (t.slice n).ent = x.ent ∧ ∀ i, i ≠ n.val → t.slice i = s.slice i
    s.nothingHeld → s.frozen = false →
    (s.awake n → x.up = true →
      ∃ t, exec (.controlLogicFault n cause un) s = .next t ∧ (∀ m ∈ t.out, m ∈ s.out) ∧ inReplay t cause ∧ (t.slice n).unsent = un.map (·.toNat)) ∧
    (s.portFree → s.awake n → s.lock.lock = false → (s.sh.mode = .run ∨ s.sh.mode = .drain) →
      ∃ t, exec (.slcRplCmdForce tag n) s = .next t ∧ inReplay t 7 ∧ t.ctl.rp.rsp = s.ctl.rp.rsp ++ [⟨tag, false, 0, none⟩]) ∧
    (s.portFree → x.pwr = .on → s.sh.mode ≠ .engrave → s.lock.lock = true →
      exec (.slcRplCmdForce tag n) s = .next (s.turnedAway (0x10328 + 0x1000 * n.val) tag 7)) ∧
    (x.replay = true → x.heldRx = [] → x.unsent = [] → x.unaccepted = [] → x.trk = [] → x.ent = [] → x.agedq = [] → x.stq = [] →
      x.slcp = false → x.sliceCensusAfter = false → s.ctl.rcv.step ≠ 5 → s.sh.stop = false →
      (x.mem.all fun y => (x.unplace y.1).all fun a => a / 32768 != 26) = true →
      ∃ t, exec (.replayDone n) s = .next t ∧ s.sends t [] ∧ (t.slice n).replay = false ∧ (t.slice n).rend = some s.sh.now ∧
        (∀ a, a < 512 → ((t.slice n).port a).loss = 6 ∧ ((t.slice n).port a).quota = 0) ∧ (t.slice n).remain = 0 ∧
        (t.slice n).mem = x.mem) ∧
    (x.replay = true → x.active = true → x.rstart + 50000 ≤ s.sh.now → s.ctl.ms.chg = false → s.ctl.rcv.step = 0 → x.failed = false →
      s.reloading = false → s.sh.mode ≠ .dormant →
      ∃ t, exec (.replayOverrun n) s = .next t ∧ (t.slice n).failed = true) ∧
    (s.sh.now < x.rstart + 50000 → exec (.replayOverrun n) s = .next s)

/-- Census: a queued line job takes a slot and marks its way P (R407, R411), its snoops go to every agent that can hold a line (R408), and
the last report, naming no holder, rebuilds the entry as I (R410, Table 13-11). -/
def Obligations.census_of_a_line : Prop :=
  ∀ (s : State) (n : Fin 66) (ji : Fin 8) (pkt : Pkt) (m : Msg) (q : CenQueued) (rest : List CenQueued) (j : CenJob) (c : CenAgent),
    let x := s.slice n
    let a := entAddr q.set q.way
    let b := entAddr j.set j.way
    (s.awake n → x.jobs = [] → x.jobq = q :: rest → q.kind = .line → x.slcp = false → x.lsh = [] → x.stuck = [] → x.repair = [] →
      x.bgFree = true → (x.readC a).1 = .clean → eForm (x.readD a) = false →
      ∃ t, exec (.censusJobStart n) s = .next t ∧ s.sends t [] ∧ (t.slice n).jobq = rest ∧
        (t.slice n).fetch a = encode72 (pWord (eTag (x.readD a)) false q.cjob.toNat) a ∧
        ∃ y, (t.slice n).jobs = [y] ∧ y.slot < 8 ∧ y.cjob = q.cjob ∧ y.kind = .line ∧ y.line = q.line ∧ y.step = 2) ∧
    (s.awake n → x.jobs = [j] → j.slot = ji.val → j.step = 2 → j.kind = .line → x.cenReady s.sh j = true →
      ∃ t, exec (.censusSnoopStart n ji) s = .next t ∧
        (∃ f, s.sends t (s.sh.cachers.map f) ∧ ∀ ag ∈ s.sh.cachers, (f ag).cls = 1 ∧ (f ag).cmd = 5 ∧ (f ag).dst.toNat = ag ∧
          (f ag).line = j.line ∧ (f ag).txid = BitVec.ofNat 12 (320 + j.slot)) ∧
        ∃ y, (t.slice n).jobs = [y] ∧ y.slot = j.slot ∧ y.step = 4 ∧ y.agents.map (·.agent) = s.sh.cachers) ∧
    (s.awake n → s.intact n pkt m → m.cls = 2 → m.cmd = 3 → x.jobs = [j] → j.slot < 8 → j.step = 4 → j.kind = .line → j.agents = [c] →
      c.agent = m.src.toNat → c.rseqs = [] → j.recs = [] → x.rcl = [] → x.stuck = [] → x.repair = [] → x.bgFree = true → m.txid.toNat = 320 + j.slot →
      m.units = [BitVec.ofNat 128 (j.cjob.toNat + 2 ^ 32)] →
      ∃ t, exec (.censusReport n pkt) s = .next t ∧ s.sends t [] ∧ (t.slice n).jobs = [] ∧ (t.slice n).fetch b = encode72 0 b)

/-! ### Barriers -/

/-- BARRIER, BARRIER_RELEASE and BARRIER_TIMEOUT of an agent's own instance: the arrival is recorded (R210), its release is the Comp, or
with MEM 1 a memory sync of every slice first (R212, R217), and its timeout is Error 0x19 (R214); a Barrier at another home than its
group's is Error 0x10. A command that is not due does nothing (log entry 1). -/
def Obligations.agent_barriers : Prop :=
  ∀ (s : State) (n : Fin 66) (pkt : Pkt) (m : Msg) (a : Fin 512) (b : BarArr),
    let x := s.slice n
    let p := s.sh.port a
    let q := p.packNo
    (s.frozen = false → x.up = true → s.intact n pkt m → m.cls = 0 → m.cmd = 14 → m.src.toNat = a.val → s.sh.stop = false → x.dead = false →
      x.retrying s.sh = false → s.sh.gated q = false →
      (x.logical = p.group → m.f.toNat % 4 = 0 → x.bar = [] → ∃ t, exec (.barrier n pkt) s = .next t ∧ s.sends t [] ∧
        (t.slice n).bar = [{
          port := a, txid := m.txid, scope := 0, mem := m.f.getLsbD 2, gen := BitVec.ofNat 4 (m.f.toNat / 16),
          at_ := s.sh.now, due := s.sh.now + (s.sh.pack q).bar.toNat / 2 ^ 32 % 2 ^ 20 * 1000 }] ∧
        t.tokens = s.tokens ++ [⟨true, 512 + n.val, a.val, (x.port a).ctlTok + 1⟩]) ∧
      (x.logical ≠ p.group → ∃ t, exec (.barrier n pkt) s = .next t ∧ (t.slice n).bar = x.bar ∧
        ∃ r : Req, r.port = a.val ∧ r.txid = m.txid ∧ s.sends t [errorMsg n r 0x10])) ∧
    (s.awake n → x.bar = [b] → b.scope = 0 → b.port = a.val → b.stage = 0 → p.absent = false →
      (s.anyReplay = false → b.mem = false → ∃ t, exec (.barrierRelease n 0 a) s = .next t ∧
        s.sends t [compMsg n (b.req s.sh) 0 0] ∧ (t.slice n).bar = [] ∧ t.link = s.link) ∧
      (s.anyReplay = false → b.mem = true → ∃ t, exec (.barrierRelease n 0 a) s = .next t ∧ s.sends t [] ∧
        (t.slice n).bar = [{ b with stage := 2 }] ∧ t.link = s.link ++ s.liveSlices.map (fun i => .memSync i n 0 a)) ∧
      (b.due ≤ s.sh.now → ∃ t, exec (.barrierTimeout n 0 a) s = .next t ∧ s.sends t [errorMsg n (b.req s.sh) 0x19] ∧ (t.slice n).bar = []) ∧
      (s.sh.now < b.due → exec (.barrierTimeout n 0 a) s = .next s))

/-- What each message of the slice link does where it arrives, for a system barrier of pack p and for a memory sync: the coordinator
notes a report (R212), the barrier homes answer Comp, Error 0x18 or Error 0x19 (R211, R212, R214), the coordinator ends a timed-out
instance (R214), and a memory sync is noted and its end reported (R217). -/
def Obligations.slice_link_messages : Prop :=
  ∀ (s : State) (n c : Fin 66) (p : Fin 16) (b : BarArr) (rest : List Link) (src grp arr missing scope key : Nat) (gen : BitVec 4) (mem : Bool)
      (k : Coord) (y : MSync) (z : LocalSync),
    let x := s.slice n
    let here := b.scope = 2 ∧ (s.sh.port b.port).packNo = p.val ∧ x.bar = [b] ∧ b.port < 512 ∧ (s.sh.port b.port).absent = false
    let answered := fun (i : Instr) (m : Msg) => ∃ t, exec i s = .next t ∧ s.sends t [m] ∧ (t.slice n).bar = []
    s.awake n →
    (s.link = .barReport n src p grp gen mem arr :: rest → x.coord = [] → ∃ t, exec (.slBarrierReport n p) s = .next t ∧ t.link = rest ∧
      (t.slice n).coord = [{ pack := p, gen := some gen, groups := [{ grp := grp, arr := arr, mem := mem }] }]) ∧
    (s.link = .barFirst n src p arr key :: rest → x.coord = [] → ∃ t, exec (.slBarrierReport n p) s = .next t ∧ t.link = rest ∧
      (t.slice n).coord = [{ pack := p, firsts := [{ home := src, at_ := arr, due := key }] }]) ∧
    (s.link = .barRelease n p :: rest → here → answered (.slBarrierRelease n p) (compMsg n (b.req s.sh) 0 0)) ∧
    (s.link = .barMismatch n p :: rest → here → b.stage = 1 → answered (.slGenMismatch n p) (errorMsg n (b.req s.sh) 0x18)) ∧
    (s.link = .barTimeout n p :: rest → here → answered (.slTimeoutNotice n p) (errorMsg n (b.req s.sh) 0x19) ∧
      ∃ t, exec (.slTimeoutNotice n p) s = .next t ∧ ∃ miss, t.link = rest ++ [.barReply (s.sh.phys p) n p 1 miss]) ∧
    (s.link = .barReply n src p arr missing :: rest → x.coord = [k] → k.pack = p.val → k.timedOut = true → k.replies = [] →
      (∀ g ∈ s.sh.agentGroups p, s.sh.phys g = src) → s.ctl.on = true →
      ∃ t, exec (.slTimeoutReply n p) s = .next t ∧ t.link = rest ∧ (t.slice n).coord = [] ∧ 800 + p.val ∈ t.ctl.brk.pend) ∧
    (s.link = .memSync n c scope key :: rest → x.far = [] → x.trk = [] → x.rcl = [] →
      ∃ t, exec (.slMemsyncRequest n) s = .next t ∧ t.link = rest ∧
        (t.slice n).msync = x.msync ++ [{ coord := c, scope := scope, key := key, noted := [] }]) ∧
    (s.awake c → c ≠ n → x.msync = [y] → y.noted = [] → y.coord = c.val → y.scope = 0 → (s.slice c).lsync = [z] → z.scope = 0 → z.key = y.key →
      z.syncs = [n.val] → (s.slice c).bar = [b] → b.scope = 0 → b.port = y.key → b.stage = 2 → b.port < 512 → (s.sh.port b.port).absent = false →
      ∃ t, exec (.memsyncDone n) s = .next t ∧ s.sends t [compMsg c (b.req s.sh) 0 0] ∧ (t.slice n).msync = [] ∧ (t.slice c).lsync = [] ∧
        (t.slice c).bar = [])

/-! ### Modes, DORMANT and the wake -/

/-- Writes of GLB_MODECMD while no change is in progress and no barrier waits: what each begins, and where it is refused (R315, R316,
R319, R320, R337). A warm reset waits for room in the Ledger (log entry 51). -/
def Obligations.mode_commands : Prop :=
  ∀ (s : State) (tag conf : BitVec 8),
    s.portFree → s.changing = false → (∀ q, q < 66 → (s.slice q).bar = [] ∧ (s.slice q).coord = []) →
    (∀ l ∈ s.link, ∀ p, p < 16 → l.tells p = false) →
    let m := s.sh.mode
    let no := fun (c : Nat) => Host.Outcome.next (s.turnedAway 0x108 tag c)
    let done := fun (t : State) => Host.Outcome.next ((t.updMs fun x => { x with cmdAt := some s.sh.now }).answered tag)
    (m = .run → exec (.glbModecmdDrain tag 0) s = done (s.enter .drain .run)) ∧
    (m = .run → conf ≠ 0 → exec (.glbModecmdDrain tag conf) s = no 9) ∧
    (m ≠ .run → exec (.glbModecmdDrain tag conf) s = no 8) ∧
    (m = .drain → exec (.glbModecmdRun tag 0) s = done (s.enter .run .drain)) ∧
    (m = .drain → conf ≠ 0 → exec (.glbModecmdRun tag conf) s = no 9) ∧
    (m ≠ .drain → m ≠ .dormant → exec (.glbModecmdRun tag conf) s = no 8) ∧
    (m = .run ∨ m = .drain → s.dormantRefused = false → exec (.glbModecmdDormant tag 0) s =
      done ((s.updSh fun g => { g with mode := .dormant, prev := m }).updMs fun x =>
        { x with chg := true, phase := 0, step := 1, from_ := m, stepAt := s.sh.now, wakeWanted := false })) ∧
    (m = .run ∨ m = .drain → s.dormantRefused = false → conf ≠ 0 → exec (.glbModecmdDormant tag conf) s = no 9) ∧
    (s.dormantRefused = true ∨ (m ≠ .run ∧ m ≠ .drain) → exec (.glbModecmdDormant tag conf) s = no 8) ∧
    (s.drained = true → s.warmFit.warmRoom = true → ∃ t, exec (.glbModecmdWarm tag 0xA5) s = .next t ∧
      t.sh.mode = .engrave ∧ t.sh.prev = .drain ∧ t.kn.rst.cause = 3 ∧ t.ctl.ms.step = 5 ∧ t.ctl.ms.chg = true ∧ t.lock = s.lock ∧
      t.link = [] ∧ t.ctl.brk.pend = [] ∧ t.ctl.brk.mq = [] ∧ t.ctl.rp.rsp = s.ctl.rp.rsp ++ [{ tag := tag, err := false, data := 0 }] ∧
      (∀ p : Fin 16, (t.sh.pack p).gate = 0) ∧ (∀ q : Fin 66, (t.slice q).trk = [] ∧ (t.slice q).lsh = [] ∧ (t.slice q).wat = [] ∧
        (t.slice q).pwr = (s.slice q).pwr ∧ (t.slice q).filling = ((s.slice q).pwr == .on))) ∧
    (s.drained = true → s.warmFit.warmRoom = false → exec (.glbModecmdWarm tag 0xA5) s =
      done (s.warmFit.updMs fun x => { x with chg := true, step := 20, phase := 0, startAt := s.sh.now })) ∧
    (s.drained = true → conf ≠ 0xA5 → exec (.glbModecmdWarm tag conf) s = no 9) ∧
    (s.drained = false → exec (.glbModecmdWarm tag conf) s = no 8)

/-- The steps of an entry into DORMANT (Table 11-11, R291, R309, R321), a RUN that comes meanwhile (R322), and where each step is not due
yet. That step 4 also waits for every active slice to have answered what arrived is the model's reading (log entry 69). A command that is
not due does nothing (log entry 1). -/
def Obligations.dormant_entry : Prop :=
  ∀ (s : State) (n : Fin 66) (tag : BitVec 8),
    let ms := s.ctl.ms
    let at_ := fun (k : Nat) => s.frozen = false ∧ s.sh.mode = .dormant ∧ ms.chg = true ∧ ms.step = k
    let x := s.slice n
    let quiet := s.nothingHeld ∧ s.ctl.rcv.step = 0 ∧ ms.wakeWanted = false ∧ s.frozen = false
    let run := exec (.glbModecmdRun tag 0) s
    (at_ 1 → s.allIdle = true → (∀ q ∈ s.liveSlices, (s.slice q).lsh = []) → ∃ t, exec .dormantDrained s = .next t ∧
      t.ctl.ms.step = 2 ∧ (∀ q : Fin 66, (t.slice q).wat = []) ∧
      ((∀ q, q < 66 → (s.slice q).far = [] ∧ (s.slice q).wat = []) →
        t = (s.mapSlices fun _ x => { x with tabs := { x.tabs with ver := x.tabs.ver + 1 } }).updMs fun m => { m with step := 2, stepAt := s.sh.now })) ∧
    (at_ 1 → s.allIdle = false → exec .dormantDrained s = .next s) ∧
    (at_ 2 → (∀ q ∈ s.liveSlices, (s.slice q).far = [] ∧ (s.slice q).loose = [] ∧ (s.slice q).rcl = [] ∧ (s.slice q).owed = []) →
      exec .dormantFlushed s =
        .next ((s.updMs fun m => { m with step := 3, phase := 1, stepAt := s.sh.now }).updKn fun k => { k with scent := [], built := false })) ∧
    (at_ 2 → x.active = true → x.pwr = .on → x.far ≠ [] → exec .dormantFlushed s = .next s) ∧
    (at_ 3 → ∃ t, exec .scentBuilt s = .next t ∧ t.sh = { s.sh with settle := true } ∧ t.pins = { s.pins with dormant := true } ∧
      t.slices = s.slices ∧ t.ctl.ms = { ms with step := 4, phase := 2, stepAt := s.sh.now } ∧ t.kn.built = true ∧ t.kn.rate = [] ∧
      t.kn.entries = (s.liveSlices.map fun q => ((s.slice q).heldLines s.sh).length).sum ∧
      ((∀ q ∈ s.liveSlices, (s.slice q).heldLines s.sh = []) → t.kn.scent = s.kn.scent)) ∧
    (at_ 4 → ms.stepAt + 2000 ≤ s.sh.now → (∀ q ∈ s.liveSlices, (s.slice q).quiet = true) → s.ctl.ldg.still = true →
      ∃ t, exec .dormantSettleExpiry s = .next t ∧
      t.sh = { s.sh with settle := false } ∧ t.ctl.on = false ∧ t.ctl.lnk = false ∧
        t.ctl.ms = { ms with step := 5, phase := 3, stepAt := s.sh.now } ∧ t.ctl.ldg = { s.ctl.ldg with offAt := s.sh.now } ∧
        t.kn = { s.kn with save := t.kn.save } ∧ ∀ q : Fin 66,
        (t.slice q).pwr = if (s.slice q).active = true ∧ (s.slice q).pwr = .on then
          (if s.sh.scrw ≠ 0 ∨ (s.slice q).heldLines s.sh ≠ [] then .toRet else .toOff) else (s.slice q).pwr) ∧
    (at_ 4 → s.sh.now < ms.stepAt + 2000 ∨ s.ctl.ldg.still = false → exec .dormantSettleExpiry s = .next s) ∧
    (at_ 4 → x.active = true → x.pwr = .on → x.quiet = false → exec .dormantSettleExpiry s = .next s) ∧
    (quiet → x.pwr = .settling → ∃ t, exec (.slicePowerChangeDone n) s = .next t ∧ (t.slice n).pwr = .filling) ∧
    (quiet → x.pwr = .toRet → ∃ t, exec (.slicePowerChangeDone n) s = .next t ∧ (t.slice n).pwr = .retained) ∧
    (quiet → x.pwr = .toOff → ∃ t, exec (.slicePowerChangeDone n) s = .next t ∧ (t.slice n).pwr = .off) ∧
    (quiet → x.pwr = .fromRet → ∃ t, exec (.slicePowerChangeDone n) s = .next t ∧ (t.slice n).pwr = .on ∧
      (t.slice n).remain = (x.egrant.toNat % 2 ^ 24 : Nat)) ∧
    (quiet → at_ 5 → x.pwr = .toRet → (∀ q ∈ s.actives, q ≠ n.val → (s.slice q).pwr = .retained ∨ (s.slice q).pwr = .off) →
      ∃ t, exec (.slicePowerChangeDone n) s = .next t ∧ t.ctl.ms = { ms with chg := false, step := 0 }) ∧
    (s.portFree → at_ ms.step → ms.step ≤ 3 →
      run = .next ((((s.updKn fun k => { k with scent := [], built := false }).enter ms.from_ .dormant).updMs fun m =>
        { m with cmdAt := some s.sh.now }).answered tag)) ∧
    (s.portFree → at_ ms.step → 4 ≤ ms.step → ms.step ≠ 6 →
      run = .next ((s.updMs fun m => { m with wakeWanted := true, cmdAt := some s.sh.now }).answered tag)) ∧
    (s.portFree → at_ 6 → run = .next (s.turnedAway 0x108 tag 8))

/-- The wake from DORMANT (R326, R329), the fill of a slice that comes on (R312), the control island's switching off (R325), and the
window of the rate counts (R295). A command that is not due does nothing (log entry 1). -/
def Obligations.wake_from_dormant : Prop :=
  ∀ (s : State) (n : Fin 66) (k : Fin 4) (tag : BitVec 8),
    let ms := s.ctl.ms
    let x := s.slice n
    let waking := s.frozen = false ∧ s.sh.mode = .dormant ∧ ms.step = 6
    (s.portFree → s.sh.mode = .dormant → ms.chg = false → s.reloading = false → ∃ t, exec (.glbModecmdRun tag 0) s = .next t ∧
      t.ctl.ms.chg = true ∧ t.ctl.ms.phase = 4 ∧ t.ctl.ms.step = 6 ∧ t.ctl.ms.rails = [] ∧ ∀ q : Fin 66, (t.slice q).pwr =
        if (s.slice q).active = true ∧ (s.slice q).pwr = .retained then .fromRet else (s.slice q).pwr) ∧
    (waking → ms.stepAt + 10000 * k.val ≤ s.sh.now → ms.rails.length = k.val → ∃ t, exec (.wakeWaveStart k) s = .next t ∧
      t.ctl.ms = { ms with rails := ms.rails ++ [s.sh.now] } ∧ ∀ q : Fin 66, t.slice q =
        if (s.slice q).active = true ∧ (s.slice q).pwr = .off ∧ railOf q = k.val then { s.slice q with pwr := .settling } else s.slice q) ∧
    (waking → s.sh.now < ms.stepAt + 10000 * k.val → exec (.wakeWaveStart k) s = .next s) ∧
    (s.frozen = false → s.nothingHeld → s.ctl.rcv.step = 0 → s.sh.mode ≠ .engrave → x.pwr = .filling ∨ x.filling = true →
      ∃ t, exec (.sliceFillDone n) s = .next t ∧ t = s.updSlice n (fun _ => t.slice n) ∧ (t.slice n).pwr = .on ∧ (t.slice n).filling = false ∧
        (t.slice n).mem = [] ∧
        (t.slice n).wat = [] ∧ (t.slice n).far = [] ∧ (t.slice n).remain = (x.egrant.toNat % 2 ^ 24 : Nat)) ∧
    (s.frozen = false → s.nothingHeld → x.pwr ≠ .filling → x.filling = false → exec (.sliceFillDone n) s = .next s) ∧
    (waking → s.nothingHeld → s.ctl.on = true → s.ctl.lnk = true → s.kn.trk = [] → ms.failAfter = [] →
      (∀ q ∈ s.actives, (s.slice q).pwr = .on ∧ (s.slice q).filling = false) → ∃ t, exec .wakeComplete s = .next t ∧
        t.pins = { s.pins with dormant := false } ∧
        t.sh = { s.sh with mode := .run, prev := .dormant, settle := false } ∧ t.kn.scent = [] ∧ t.kn.built = false ∧
        t.ctl.ms = { ms with chg := false, phase := 0, step := 0 } ∧ t.slices = s.slices) ∧
    (waking → s.nothingHeld → x.active = true → x.pwr ≠ .on ∨ x.filling = true → n.val ∉ ms.failAfter → exec .wakeComplete s = .next s) ∧
    (waking → x.active = true → x.pwr = .fromRet → ms.stepAt + 200000 ≤ s.sh.now → n.val ∉ ms.failAfter →
      exec (.wakeSliceTimeout n) s = .next (s.updMs fun m => { m with failAfter := m.failAfter ++ [n.val] })) ∧
    (waking → x.pwr = .fromRet → s.sh.now < ms.stepAt + 200000 → exec (.wakeSliceTimeout n) s = .next s) ∧
    (s.frozen = false → s.sh.mode = .dormant → ms.chg = false → s.ctl.on = true →
      exec .controlIslandIdleOff s = .next (if s.ctl.idleAt + 1000000 ≤ s.sh.now ∧ s.ctl.ldg.still = true then
        s.updCtl fun c => { c with on := false, ldg := { c.ldg with offAt := s.sh.now } } else s)) ∧
    (s.frozen = false → s.pins.dormant = true → exec .dormantRateWindow s =
      .next (if s.kn.rateAt + 1000 * (s.kn.dsrv.toNat / 2 ^ 8 % 2 ^ 12) ≤ s.sh.now then
        s.updKn fun k => { k with rate := [], rateAt := s.sh.now } else s))

/-! ### Resets and start-up -/

/-- XJ_PWRGOOD, XJ_AON_RST_N and XJ_COLD_RST_N: what each edge does, and what it leaves standing (R331, R332, R339 to R342, Table 11-14):
the Kennel store keeps every word but those being programmed when power goes and those of the life records' ring (R573; log entry 99). A
held cold reset at the Kennel's start, and what a release goes on with, are the model's reading (log entry 52). P registers at zero (log
entry 21), what has no reset value in the manual (log entry 54), and which slices stay failed (log entry 86) are the model's too; a command
that is not due does nothing (log entry 1). -/
def Obligations.resets : Prop :=
  ∀ s : State,
    let cleared := fun (t : State) (failed : Nat → Bool) => t.link = [] ∧ t.lock.lock = false ∧ t.pins.dormant = false ∧
      t.pins.thermTrip = s.pins.thermTrip ∧ t.kn.fuse = s.kn.fuse ∧ (∀ q : Fin 66, t.slice q = { fv := (s.slice q).fv, failed := failed q }) ∧
        (s.kn.on = false → t.kn.store = s.kn.store) ∧
      ∀ i, (∀ p ∈ s.kn.prog, s.kn.storeAt p.idx ≠ i) → (∀ k < 1024, s.kn.storeAt (0x80800 + k) ≠ i) →
        KMem.read t.kn.store i = KMem.read s.kn.store i
    let boot := fun (t : State) (cause : BitVec 3) => t.kn.on = true ∧ t.slices = s.slices ∧ t.ctl.ms.step = (if s.pins.coldRst then 0 else 1) ∧
      t.kn.rst.cause = (if s.pins.coldRst then 2 else cause) ∧ t.ctl.ms.phase = (if s.pins.coldRst then 0 else 1)
    (s.pins.pwrgood = false → s.pins.aonRst = false →
      ∃ t, exec .xjPwrgoodRise s = .next t ∧ t.pins = { s.pins with pwrgood := true } ∧ boot t 0) ∧
    (s.pins.pwrgood = false → s.pins.aonRst = true → exec .xjPwrgoodRise s = .next (s.updPins fun p => { p with pwrgood := true })) ∧
    (s.pins.pwrgood = true → exec .xjPwrgoodRise s = .next s) ∧
    (s.pins.pwrgood = true → ∃ t, exec .xjPwrgoodFall s = .next t ∧ cleared t s.kn.substFailed.contains ∧ t.sh = {} ∧ t.kn.on = false ∧
      t.ctl.on = false ∧
      t.pins.pwrgood = false) ∧
    (s.pins.pwrgood = false → exec .xjPwrgoodFall s = .next s) ∧
    (s.pins.aonRst = false → ∃ t, exec .xjAonRstAssert s = .next t ∧ cleared t s.kn.substFailed.contains ∧ t.sh = {} ∧ t.kn.on = false ∧
      t.ctl.on = false ∧
      t.pins.aonRst = true ∧ t.pins.pwrgood = s.pins.pwrgood) ∧
    (s.pins.aonRst = true → s.pins.pwrgood = true →
      ∃ t, exec .xjAonRstRelease s = .next t ∧ t.pins = { s.pins with aonRst := false } ∧ boot t 1) ∧
    (s.pins.aonRst = true → s.pins.pwrgood = false → exec .xjAonRstRelease s = .next (s.updPins fun p => { p with aonRst := false })) ∧
    (s.pins.coldRst = false → s.kn.on = true → s.ctl.rp.held = [] → ∃ t, exec .xjColdRstAssert s = .next t ∧
      cleared t (fun q => (s.slice q).failed && !(s.slice q).active) ∧ t.ctl.rcv.spares = s.ctl.rcv.spares ∧ t.sh = { now := s.sh.now } ∧
        t.pins.coldRst = true ∧ t.kn.rst.cause = 2 ∧ t.kn.rst.ncold = satInc s.kn.rst.ncold ∧ t.ctl.on = false ∧
      t.kn.sheep = s.kn.sheep ∧ t.kn.mbox = s.kn.mbox ∧ t.kn.store = s.kn.store) ∧
    (s.pins.coldRst = false → s.kn.on = false → exec .xjColdRstAssert s = .next (s.updPins fun p => { p with coldRst := true })) ∧
    (s.pins.coldRst = true → s.kn.on = true → s.kn.booted = true → ∃ t, exec .xjColdRstRelease s = .next t ∧
      t.pins = { s.pins with coldRst := false } ∧ t.ctl.ms = { step := 4, phase := 3, startAt := s.sh.now } ∧ t.kn.rst.heldAt = none ∧
      t.slices = s.slices) ∧
    (s.pins.coldRst = true → s.kn.on = true → s.kn.booted = false → s.sh.mode = .engrave → s.kn.fuseFault = false → s.kn.fuseBad = false → ∃ t,
      exec .xjColdRstRelease s = .next t ∧ t.pins = { s.pins with coldRst := false } ∧ t.kn.booted = true ∧ t.slices = s.slices ∧
      t.ctl.ms = { step := 4, phase := 3, startAt := s.sh.now }) ∧
    (s.frozen = false → s.pins.coldRst = true → s.kn.on = true → s.kn.rst.recAt + 60000000000 ≤ s.sh.now → ∃ t,
      exec .coldResetHeld s = .next t ∧ t.kn.rst = { s.kn.rst with recAt := s.sh.now } ∧ t.slices = s.slices ∧ t.ctl = s.ctl) ∧
    (s.frozen = false → s.sh.now < s.kn.rst.recAt + 60000000000 → exec .coldResetHeld s = .next s) ∧
    (s.pins.coldRst = false → exec .xjColdRstRelease s = .next s)

/-- Start-up from the boot ROM to the first credits (Table 11-10, R302, R326, R333, R336, R403). The order of a self-test's second fill is
Table 11-10's; that a later credit wave waits for every active slice to be on, and that the Kennel boots while a cold reset is held, are
readings (log entries 71 and 52). The slice link comes on with the control island but in DORMANT (log entry 77). -/
def Obligations.start_up : Prop :=
  ∀ (s : State) (k : Fin 4) (n : Fin 66) (a : Nat) (half : Bool),
    let ms := s.ctl.ms
    let at_ := fun (i : Nat) => s.frozen = false ∧ s.kn.on = true ∧ s.sh.mode = .engrave ∧ ms.step = i
    let ws := (s.kn.calHalf half).map (·.2)
    let held := fun (a b : Nat) => if s.pins.coldRst then a else b
    (at_ 1 → exec .bootRomDone s = .next (((s.updSheep fun h => { h with dmem := [] }).updKn fun k => { k with scent := [], built := false }).updMs
      fun m => { m with step := 2, phase := held 0 1 })) ∧
    (at_ 2 → s.kn.fuseFault = false → s.kn.fuseBad = false → exec .fuseMapRead s = .next (s.updMs fun m => { m with step := 3, phase := held 0 2 })) ∧
    (at_ 2 → s.kn.fuseFault = false → s.kn.fuseBad = true → exec .fuseMapRead s = .next (s.updKn fun k => { k with fuseFault := true })) ∧
    (at_ 3 → s.kn.calCur = some half → calRanges (ws.drop 2) = true → ∃ t, exec .calibrationCheck s = .next t ∧
      t.kn.booted = true ∧ t.kn.cal.romdef = false ∧ t.kn.cal.crc = (ws.getD 1 0).setWidth 32 ∧ t.kn.cal.sens = (ws.drop 3).take 24 ∧
      t.kn.cal.delay = (ws.drop 106).take 201 ∧ t.ctl.ms = { ms with step := held 0 4, phase := held 0 3 } ∧ t.ctl.brk = s.ctl.brk) ∧
    (at_ 3 → s.kn.calCur = none → s.kn.evq = [] → ∃ t, exec .calibrationCheck s = .next t ∧ t.kn.booted = true ∧
      t.kn.cal.romdef = true ∧ t.kn.cal.fact = false ∧ t.kn.cal.sens = [] ∧ t.kn.cal.delay = [] ∧
      t.ctl.ms = { ms with step := held 0 4, phase := held 0 3 } ∧ t.barked 851) ∧
    (at_ 5 → ms.warm = false → ms.rails.length = k.val → ∃ t, exec (.powerWaveStart k) s = .next t ∧
      t.ctl.ms = { ms with rails := ms.rails ++ [s.sh.now] } ∧ ∀ q : Fin 66, t.slice q =
        if (s.slice q).active = true ∧ (s.slice q).pwr = .off ∧ railOf q = k.val then { s.slice q with pwr := .settling } else s.slice q) ∧
    (at_ 7 → ∃ t, exec (.selftestDone []) s = .next t ∧ t.ctl.ms = { ms with step := 8, st := true } ∧ ∀ q : Fin 66, t.slice q =
      if (s.slice q).active = true ∧ (s.slice q).pwr = .on then { s.slice q with filling := true } else s.slice q) ∧
    (at_ 9 → ms.waves = 0 → ms.failAfter = [] → s.nothingHeld → ∃ t, exec .creditWave s = .next t ∧ t.sh.mode = .run ∧
      t.sh.prev = .engrave ∧ t.ctl.ms.chg = false ∧ t.ctl.ms.waves = 1 ∧ t.ctl.epochAt = s.sh.now ∧ t.ctl.epLen = s.sh.epoch.toNat % 2 ^ 7 ∧
        t.kn.sheep.runState = 1 ∧
      t.kn.sheep.pc = 0) ∧
    (s.frozen = false → s.sh.mode ≠ .engrave → 1 ≤ ms.waves → ms.waves < 7 → ms.stepAt + 100000 ≤ s.sh.now → s.nothingHeld →
      s.allOn = true → s.liveSlices = [n.val] → (s.sh.present.filter fun b => b / 64 == ms.waves) = [a] → ∃ t, exec .creditWave s = .next t ∧
        t.ctl.ms = { ms with waves := ms.waves + 1, stepAt := s.sh.now } ∧ t.out = s.out ∧
        t.tokens = s.tokens ++ [⟨false, 512 + n.val, a, ((s.slice n).port a).reqTok + 1⟩, ⟨true, 512 + n.val, a, ((s.slice n).port a).ctlTok + 1⟩,
          ⟨false, kennelNode, a, (tget {} s.kn.prt a : PortAdm).reqTok + 1⟩, ⟨true, kennelNode, a, (tget {} s.kn.prt a : PortAdm).ctlTok + 1⟩]) ∧
    (s.frozen = false → s.islandWanted = true → s.kn.evq = [] → s.nothingHeld → s.ctl.frz.cond = false →
      exec .controlIslandReady s = .next (s.updCtl fun c => { c with
        on := true, lnk := decide (s.sh.mode ≠ .dormant ∨ ms.step = 6), idleAt := s.sh.now,
        ldg := { c.ldg with openAt := c.ldg.openAt + (s.sh.now - c.ldg.offAt) } }))

/-! ### The Kennel -/

/-- The sensors: a thermal conversion (R283, R284), a poll of a regulator and its readings (R285), one at a time
and the lowest that is due first (Table 18-10), the trip comparator (R545), and a slow
island (R305). The correction of a trimmed sensor is not stated (log entry 5). A command that is not due does nothing (log entry 1). -/
def Obligations.sensors : Prop :=
  ∀ (s : State) (i : Fin 24) (raw w : BitVec 16) (r : Fin 4) (x : Regul) (k : Nat) (bad up : Bool) (n : Fin 66) (isl : Fin 68) (mhz : BitVec 12),
    let run := s.frozen = false ∧ s.kn.on = true
    let e := (bits x.cfg 12 8).toInt
    let due := fun (y : Regul) => y.cfg.getLsbD 7 = true ∧ y.last + 1000000 * (y.cfg.toNat / 2 ^ 16 % 2 ^ 8) ≤ s.sh.now
    let t : BitVec 16 := match s.kn.cal.sens[i.val]? with | some c => Config.thermalCorrect i raw c | none => raw
    let latched := fun (u : State) => u.kn.sheep = { s.kn.sheep with latch := s.kn.sheep.latch ||| 8 } ∧ u.ctl = s.ctl ∧ u.slices = s.slices
    let reading := fun (v : BitVec 32) => ({ val := v, stamp := s.sh.tick, at_ := s.sh.now, ok := true } : Reading)
    (run → -640 ≤ t.toInt → t.toInt ≤ 2400 → ∃ u, exec (.thermalConversion i raw) s = .next u ∧ latched u ∧
      u.kn.temps = s.kn.temps.modify i fun _ => reading (t.signExtend 32)) ∧
    (run → t.toInt < -640 ∨ 2400 < t.toInt → ∃ u, exec (.thermalConversion i raw) s = .next u ∧ latched u ∧
      u.kn.temps = s.kn.temps.modify i fun y => { y with ok := false }) ∧
    (run → s.kn.regs[r.val]? = some x → due x → (∀ y ∈ s.kn.regs, y.poll = none) → (∀ q < r.val, ∀ y ∈ s.kn.regs[q]?, ¬due y) →
      exec (.pmbusPoll r) s =
        .next (s.updKn fun k => { k with regs := k.regs.modify r fun y => { y with poll := some (0, false), last := s.sh.now } })) ∧
    (run → s.kn.regs[r.val]? = some x → ¬due x ∨ (∃ y ∈ s.kn.regs, y.poll ≠ none) ∨ (∃ q < r.val, ∃ y ∈ s.kn.regs[q]?, due y) →
      exec (.pmbusPoll r) s = .next s) ∧
    (run → s.kn.regs[r.val]? = some x → x.poll = some (0, bad) → e ≤ 0 → (w.toNat * 1000) % 2 ^ (-e).toNat = 0 →
      300 * 2 ^ (-e).toNat ≤ w.toNat * 1000 → w.toNat * 1000 ≤ 1500 * 2 ^ (-e).toNat →
      ∃ u, exec (.pmbusReadDone r true w) s = .next u ∧ u.ctl = s.ctl ∧ u.kn.regs = s.kn.regs.set r { x with
        poll := some (1, bad), rd := x.rd.modify 0 fun _ => reading (BitVec.ofNat 32 (w.toNat * 1000 / 2 ^ (-e).toNat)) }) ∧
    (run → s.kn.regs[r.val]? = some x → x.poll = some (k, bad) → k < 2 → ∃ u, exec (.pmbusReadDone r false w) s = .next u ∧
      u.ctl = s.ctl ∧ u.kn.regs = s.kn.regs.set r { x with poll := some (k + 1, true), rd := x.rd.modify k fun y => { y with ok := false } }) ∧
    (run → s.kn.regs[r.val]? = some x → x.poll = some (2, bad) → s.kn.evq = [] → ∃ u, exec (.pmbusReadDone r false w) s = .next u ∧
      u.kn.regs = s.kn.regs.set r { x with poll := none, fails := satInc x.fails, rd := x.rd.modify 2 fun y => { y with ok := false } } ∧
      (x.fails = 2 → u.barked 849)) ∧
    exec (.thermTripCrossing up) s = .next (s.updPins fun p => { p with thermTrip := up }) ∧
    (s.frozen = false → (s.slice n).pwr = .on ∨ (s.slice n).pwr = .filling → mhz.toNat < 800 → s.ctl.on = true →
      ∃ u, exec (.islandSlow ⟨n.val, by omega⟩ mhz) s = .next u ∧
      u.ctl.slow = s.ctl.slow.modify n satInc ∧ (672 + n.val) ∈ u.ctl.brk.pend ∧ u.slices = s.slices ∧ u.sh = s.sh) ∧
    (s.frozen = false → 66 ≤ isl.val → (isl.val = 66 → s.ctl.lnk = true) → mhz.toNat < 500 → s.ctl.on = true →
      ∃ u, exec (.islandSlow isl mhz) s = .next u ∧
      u.ctl.slow = s.ctl.slow ∧ (790 + isl.val) ∈ u.ctl.brk.pend ∧ u.slices = s.slices ∧ u.sh = s.sh) ∧
    (s.frozen = false → 800 ≤ mhz.toNat ∨ (isl.val = n.val ∧ (s.slice n).pwr ≠ .on ∧ (s.slice n).pwr ≠ .filling) →
      exec (.islandSlow isl mhz) s = .next s)

/-- The Kennel store: a word of a plate that is programmed, one that fails its verify once and then again (R298, R299), the overwrite of
the calibration range (R301, R364), the last word of a slot record and of a floor record (R345, R346), the life record (R573) and the
scrub (R392). The order in which waiting words are programmed, and what a failed word holds, are free or the model's (log entries 3 and
6); the layout of the life record and its counts are the model's (log entries 73 and 99). A command that is not due does nothing (log
entry 1). -/
def Obligations.store_work : Prop :=
  ∀ (s : State) (p : PWord) (b : Bool) (f : BitVec 32),
    let run := s.frozen = false ∧ s.kn.on = true
    let prg := s.kn.on = true ∧ (s.frozen = false ∨ (s.ctl.frz.st = .stopping ∧ s.ctl.frz.word = true))
    let k := s.kn
    let ctl := { s.ctl with frz := { s.ctl.frz with word := false } }
    let base := 0x82000 + (if k.cal.half then 2 else 4098)
    (prg → k.prog = [p] → p.why = .plate → k.dead = [] → ∃ t, exec (.storeWordProgrammed true) s = .next t ∧
      t.kn = { k with prog := [], wear := k.wear + 1, store := KMem.write k.store (k.storeAt p.idx) (encode72 p.data (k.storeAt p.idx % 32768)) } ∧
      t.ctl = ctl ∧ t.slices = s.slices) ∧
    (prg → k.prog = [p] → p.why = .slotRec b → k.plate.run = none → k.dead = [] → ∃ t, exec (.storeWordProgrammed true) s = .next t ∧
      t.kn.prog = [] ∧ t.kn.plate = { k.plate with cur := b } ∧ t.ctl = ctl ∧ t.slices = s.slices) ∧
    (prg → k.prog = [p] → p.why = .floorRec f → k.dead = [] → ∃ t, exec (.storeWordProgrammed true) s = .next t ∧
      t.kn.prog = [] ∧ t.kn.plate = { k.plate with floor := f } ∧ t.ctl = ctl ∧ t.slices = s.slices) ∧
    (prg → k.prog = [p] → p.tries = 0 → k.dead = [] → ∃ t, exec (.storeWordProgrammed false) s = .next t ∧
      t.kn.prog = [{ p with tries := 1 }] ∧ t.kn.wear = k.wear + 1 ∧ t.kn.remap = k.remap ∧ t.ctl = ctl) ∧
    (prg → k.prog = [p] → p.tries = 1 → k.dead = [] → k.remap = [] → ∃ t, exec (.storeWordProgrammed false) s = .next t ∧ (∃ r, r < 256 ∧
      t.kn.remap = [(p.idx / 512, r)]) ∧ { p with tries := 0 } ∈ t.kn.prog ∧ t.ctl = ctl) ∧
    (prg → k.prog = [] → exec (.storeWordProgrammed true) s = .next { s with ctl := ctl } ∧
      exec (.storeWordProgrammed false) s = .next { s with ctl := ctl }) ∧
    (s.frozen = true → s.ctl.frz.st ≠ .stopping ∨ s.ctl.frz.word = false → exec (.storeWordProgrammed b) s = .next s) ∧
    (run → s.ctl.ms.waves = 8 → k.cal.due ≠ [] → k.prog = [] → exec .calibOverwrite s = .next (s.updKn fun k => { k with
      prog := (k.cal.due.drop 2).zipIdx.map fun x => { idx := base + x.2, data := x.1, why := .calib } })) ∧
    (s.frozen = false → s.ctl.ms.waves < 8 ∨ k.cal.due = [] → exec .calibOverwrite s = .next s) ∧
    (run → k.lifeAt + 3600000000000 ≤ s.sh.now →
      let seq : BitVec 32 := tget 0 k.idSeq 2 + 1
      let ns := k.poweredNs + (s.sh.now - k.lifeAt)
      let at_ := 0x80800 + 4 * ((seq - 1).toNat % 256)
      ∃ t, exec .lifeRecord s = .next t ∧ t.kn = { k with lifeAt := s.sh.now, poweredNs := ns, idSeq := tset 0 k.idSeq 2 seq, prog := t.kn.prog } ∧
      (∃ w0 : Word, w0.setWidth 32 = seq ∧ t.kn.prog = k.prog ++
        [⟨at_ + 1, BitVec.ofNat 64 s.sh.now, .life, 0⟩, ⟨at_ + 2, BitVec.ofNat 64 ns, .life, 0⟩,
        ⟨at_ + 3, k.wear, .life, 0⟩, ⟨at_, w0, .life, 0⟩]) ∧
      t.ctl = s.ctl ∧ t.slices = s.slices) ∧
    (s.frozen = false → s.sh.now < k.lifeAt + 3600000000000 → exec .lifeRecord s = .next s) ∧
    (run → s.sh.now < k.storeScrubAt + 86400000000000 → s.sh.now < k.scrubAt + 1000000000 * (s.sh.scrub.toNat % 2 ^ 17) →
      exec .kennelScrub s = .next s) ∧
    (run → s.sh.now < k.storeScrubAt + 86400000000000 → k.scrubAt + 1000000000 * (s.sh.scrub.toNat % 2 ^ 17) ≤ s.sh.now →
      ∃ t, exec .kennelScrub s = .next t ∧ t.kn.scrubAt = s.sh.now ∧ t.kn.sheep.dmem = k.sheep.dmem.fixed ∧ t.kn.scent = k.scent.fixed ∧
        t.kn.store = k.store ∧ t.kn.sheep.g = k.sheep.g ∧ t.kn.sheep.pc = k.sheep.pc ∧ t.ctl = s.ctl)

/-- Requests at the Kennel (R42, R293, R294, R295, R328, R449, Table 10-10), the wake that the ROM safe program requests (R282), and the
MemRsp of a line that it serves. The TXID of its memory request is a free choice (log entry 3). -/
def Obligations.dormant_service : Prop :=
  ∀ (s : State) (pkt : Pkt) (m : Msg) (r : Req) (tgt : Nat) (j : KTrk),
    let kn := kennelNode - 512
    let home := lpSlice (s.sh.lp r.line)
    let adm : PortAdm := tget {} s.kn.prt r.port
    let run := s.frozen = false ∧ s.kn.on = true ∧ s.passes .kennel pkt m ∧ r.port < 512 ∧ (s.sh.port r.port).absent = false
    let request := run ∧ m.cls = 0 ∧ reqOf m = some r ∧ r.kind ≠ .barrier
    let credited := fun (t : State) => t.tokens = s.tokens ++ [⟨false, kennelNode, r.port, adm.reqTok + 1⟩]
    let answered := fun (a : Msg) => ∃ t, exec (.kennelRequest pkt) s = .next t ∧ s.sends t [a] ∧ credited t ∧ t.kn.trk = s.kn.trk ∧
      t.slices = s.slices ∧ t.sh = s.sh
    let checked := request ∧ s.sh.stop = false ∧ s.pins.dormant = true ∧ s.sh.knlCheck r = .pass ∧ r.kind ≠ .cancel
    (request → r.kind = .cancel → ∃ t, exec (.kennelRequest pkt) s = .next t ∧ t.out = s.out ∧ t.kn.trk = s.kn.trk ∧
      (s.pins.dormant = true → s.sh.stop = false → t.kn.rate = tset 0 s.kn.rate home (tget 0 s.kn.rate home + 1)) ∧
      t.tokens = s.tokens ++ [⟨true, kennelNode, r.port, adm.ctlTok + 1⟩]) ∧
    (request → r.kind ≠ .cancel → s.sh.stop = true → answered (errorMsg kn r 0x1C)) ∧
    (request → r.kind ≠ .cancel → s.sh.stop = false → s.pins.dormant = false → answered (retryMsg kn r 0)) ∧
    (checked → r.kind = .rdShared ∨ r.kind = .rdUnique ∨ r.kind = .upgrade ∨ r.kind = .wrBack ∨ s.sh.isScratch r.line = true →
      s.kn.sheep.runState ≠ 2 → answered (retryMsg kn r (s.kn.dsrv.toNat % 16)) ∧
      ∃ t, exec (.kennelRequest pkt) s = .next t ∧ t.kn.wakes = satInc s.kn.wakes ∧ t.kn.sheep.latch = s.kn.sheep.latch ||| 2) ∧
    (checked → r.kind = .rdShared → s.kn.sheep.runState = 2 → s.kn.sheep.halted = false → s.sh.mode = .dormant → s.ctl.ms.chg = false →
      ∃ t, exec (.kennelRequest pkt) s = .next t ∧ s.sends t [retryMsg kn r (s.kn.dsrv.toNat % 16)] ∧ credited t ∧
        t.ctl.ms.chg = true ∧ t.ctl.ms.step = 6 ∧ t.ctl.ms.stepAt = s.sh.now) ∧
    (checked → r.kind = .rdOnce → (s.sh.port r.port).kind = 3 → s.sh.isScratch r.line = false → s.kn.scentOf r.line = 0 →
      tget 0 s.kn.rate home + 1 ≤ s.kn.dsrv.toNat / 2 ^ 32 % 2 ^ 16 → s.sh.target r.line = some tgt → s.kn.trk = [] → s.kn.plate.run = none →
      (512 ≤ memNode tgt ∧ memNode tgt < 1024) →
      ∃ t, exec (.kennelRequest pkt) s = .next t ∧ credited t ∧ ∃ no, no < 64 ∧
        s.sends t [memRd kn tgt no r.pack r.line true r.port r.txid 0 r.crit] ∧ t.kn.rate = tset 0 s.kn.rate home (tget 0 s.kn.rate home + 1) ∧
        ∃ y, t.kn.trk = [y] ∧ y.no = no ∧ y.req = r ∧ y.sent = true ∧ y.at_ = s.sh.now) ∧
    (run → m.cls = 2 → m.cmd = 9 → s.kn.trk = [j] → j.sent = true → j.no = m.txid.toNat → j.msg.dst = m.src → j.req = r → s.sh.stop = false →
      m.f.getLsbD 17 = false → s.kn.plate.run = none → ∃ t, exec (.kennelMemRsp pkt) s = .next t ∧
        s.sends t [compMsg kn r (if r.kind = .stash then 2 else 0) 0] ∧ t.kn.trk = [] ∧ t.slices = s.slices ∧ t.sh = s.sh)

/-! ### The plate -/

/-- Writes of KNL_PLCMD: INSTALL fetches the header line, RELOAD and CHECK begin their validation, and where each is refused (R371,
R372, R375, R379, Table 12-17). The TXID is a free choice (log entry 3). -/
def Obligations.plate_commands : Prop :=
  ∀ (s : State) (tag conf : BitVec 8) (tgt : Nat) (route : Word),
    s.portFree → s.sh.mode = .run ∨ s.sh.mode = .drain ∨ s.sh.mode = .dormant →
    let pl := s.kn.plate
    let no := fun (c : Nat) => Host.Outcome.next (s.turnedAway 0x70438 tag c)
    let began := fun (op : Nat) => Host.Outcome.next ((s.updPlate fun p => { p with
      lastop := BitVec.ofNat 4 op, run := some { op := op, slot := p.cur, at_ := s.sh.now } }).answered tag)
    let free := s.drained = true ∧ s.ctl.ms.chg = false ∧ s.ctl.brn.busy = false ∧ ∀ p : Fin 16, (s.sh.pack p).fenceBusy = false
    (pl.busy = true → exec (.knlPlcmdInstall tag conf) s = no 8 ∧ exec (.knlPlcmdReload tag conf) s = no 8 ∧
      exec (.knlPlcmdCheck tag conf) s = no 8) ∧
    (pl.busy = false → conf ≠ 0x5A → exec (.knlPlcmdInstall tag conf) s = no 9) ∧
    (pl.run = none → s.plateTarget 0 = some (tgt, route) → s.kn.trk = [] → ∃ t, exec (.knlPlcmdInstall tag 0x5A) s = .next t ∧ ∃ tx, tx < 64 ∧
      s.sends t [{ cls := 0, cmd := 0x10, src := BitVec.ofNat 10 kennelNode, dst := BitVec.ofNat 10 (memNode tgt), txid := BitVec.ofNat 12 tx,
                   pack := 0, line := plateLine pl 0, f := fPut kennelNode 1, units := [] }] ∧
      t.kn.plate = { pl with lastop := 1, run := some { op := 1, slot := (if pl.inf then !pl.infSlot else pl.cur), at_ := s.sh.now, next := 1,
                                                        out := [{ line := 0, txid := tx, at_ := s.sh.now }] } } ∧
      t.ctl.rp.rsp = s.ctl.rp.rsp ++ [{ tag := tag, err := false, data := 0 }]) ∧
    (pl.busy = false → free → exec (.knlPlcmdReload tag 0) s = began 2) ∧
    (pl.busy = false → free → conf ≠ 0 → exec (.knlPlcmdReload tag conf) s = no 9) ∧
    (s.drained = false → exec (.knlPlcmdReload tag conf) s = no 8) ∧
    (pl.busy = false → exec (.knlPlcmdCheck tag 0) s = began 3) ∧
    (pl.busy = false → conf ≠ 0 → exec (.knlPlcmdCheck tag conf) s = no 9)

/-- The packets of a fetched line of a plate, and the timeout of its fetch (R371 to R374). A command that is not due does nothing (log
entry 1). -/
def Obligations.plate_lines : Prop :=
  ∀ (s : State) (pkt : Pkt) (m : Msg) (o : PlateOp) (f : Fetch) (us : List Unit128) (n tgt : Nat) (route : Word) (k : BitVec 6),
    s.frozen = false → s.kn.on = true → s.kn.plate.run = some o → o.op = 1 → o.out = [f] → s.kn.trk = [] →
    let got := s.passes .kennel pkt m ∧ f.txid = m.txid.toNat
    let rsp := got ∧ m.cls = 2 ∧ m.cmd = 9 ∧ f.data = some us ∧ f.rsp = false
    let clean := f.poison = false ∧ m.f.getLsbD 17 = false
    let ended := fun (i : Instr) (code : BitVec 4) => ∃ t, exec i s = .next t ∧ t.kn.plate.run = none ∧ t.kn.plate.fcode = code ∧
      t.kn.plate.cur = s.kn.plate.cur ∧ ∀ p ∈ t.kn.prog, p.why ≠ .plate
    (got → m.cls = 3 → m.cmd = 2 → f.data = none → f.rsp = false → ∃ t, exec (.plateLineFetched [pkt]) s = .next t ∧
      t.kn.plate.run = some { o with out := [{ f with data := some m.units, poison := f.poison || m.f.getLsbD 17 }] } ∧
      t.kn.prog = s.kn.prog ∧ t.ctl = s.ctl ∧ t.out = s.out) ∧
    (rsp → clean → f.line ≠ 0 → o.lenw = some n → o.lines ≤ o.next → ∃ t, exec (.plateLineFetched [pkt]) s = .next t ∧
      t.kn.plate.run = some { o with out := [] } ∧ t.ctl = s.ctl ∧ t.out = s.out ∧
      t.kn.prog = s.kn.prog ++ ((wordsOfUnits us).zipIdx.filter fun x => decide (8 * f.line + x.2 < n)).map fun x =>
        { idx := slotBase o.slot + 8 * f.line + x.2, data := x.1, why := .plate }) ∧
    (rsp → f.poison = true ∨ m.f.getLsbD 17 = true → ended (.plateLineFetched [pkt]) 1) ∧
    (rsp → clean → f.line = 0 → (fld ((wordsOfUnits us).getD 2 0) 51 32 < 64 ∨ 262144 < fld ((wordsOfUnits us).getD 2 0) 51 32) →
      ended (.plateLineFetched [pkt]) 5) ∧
    (f.txid = k.toNat → f.at_ + 1000000 ≤ s.sh.now → f.poison = true → ended (.plateFetchTimeout k) 1) ∧
    (f.txid = k.toNat → f.at_ + 1000000 ≤ s.sh.now → f.poison = false → f.tries = 0 → s.plateTarget f.line = some (tgt, route) → ∃ t,
      exec (.plateFetchTimeout k) s = .next t ∧ t.kn.plate.run = some { o with
        out := [{ line := f.line, txid := f.txid, at_ := s.sh.now, tries := 1 }] } ∧
      s.sends t [{ cls := 0, cmd := 0x10, src := BitVec.ofNat 10 kennelNode, dst := BitVec.ofNat 10 (memNode tgt), txid := BitVec.ofNat 12 f.txid,
                   pack := 0, line := plateLine s.kn.plate f.line, f := fPut kennelNode 1, units := [] }]) ∧
    (f.txid = k.toNat → f.at_ + 1000000 ≤ s.sh.now → f.poison = false → f.tries = 1 → ended (.plateFetchTimeout k) 2) ∧
    (s.sh.now < f.at_ + 1000000 → exec (.plateFetchTimeout k) s = .next s)

/-- The end of start-up's verification, of INSTALL, of RELOAD and of CHECK, by what the checks of Table 12-8 say of a slot (R368, R369,
R371, R375, R379, Table 11-10). An INSTALL that passes writes its slot record, and its slot is current once that is programmed (R345).
That an INSTALL that fails is recorded and raises its source like one that passes is a reading (log entry 34); a command that is not due
does nothing (log entry 1). -/
def Obligations.plate_results : Prop :=
  ∀ (s : State) (o : PlateOp) (p : PWord) (b : Bool) (e : Nat × Nat × Nat),
    s.frozen = false → s.kn.on = true →
    let pl := s.kn.plate
    let verify := s.sh.mode = .engrave ∧ s.ctl.ms.step = 4
    let said := fun {α : Type} (t : State) (r : Chk12 α) => match r with
      | .ok _ => t.kn.plate.vcode = 0 ∧ t.kn.plate.stype = 0
      | .error (v, y, w) => t.kn.plate.vcode = BitVec.ofNat 8 v ∧ t.kn.plate.stype = BitVec.ofNat 8 y ∧ t.kn.plate.fword = BitVec.ofNat 18 w
    (verify → s.ctl.on = false → exec .plateVerifyDone s = .next s) ∧
    (verify → s.ctl.on = true → pl.first = none → ∃ t, exec .plateVerifyDone s = .next t ∧ said t (s.validate pl.cur 0 none) ∧
      match s.validate pl.cur 0 none with
      | .ok _ => t.ctl.ms.step = 5 ∧ t.ctl.ms.phase = 4 ∧ t.ctl.ms.slot = false ∧ t.kn.plate.inf = true ∧ t.kn.plate.infSlot = pl.cur
      | .error x => t.ctl = s.ctl ∧ t.kn.plate.first = some x) ∧
    (verify → s.ctl.on = true → pl.first = some e → ∃ t, exec .plateVerifyDone s = .next t ∧ said t (s.validate (!pl.cur) 0 none) ∧
      t.kn.plate.first = none ∧ t.barked 852 ∧
      match s.validate (!pl.cur) 0 none with
      | .ok _ => t.ctl.ms.step = 5 ∧ t.ctl.ms.phase = 4 ∧ t.ctl.ms.slot = true ∧ t.kn.plate.inf = true ∧ t.kn.plate.infSlot = (!pl.cur) ∧
        t.kn.plate.fbv = true
      | .error _ => t.ctl.ms.step = 21 ∧ t.ctl.ms.phase = 7 ∧ t.kn.plate.fbv = false) ∧
    (pl.run = some o → o.op = 1 → o.lenw ≠ none → o.lines ≤ o.next → o.out = [] → (∀ q ∈ s.kn.prog, q.why.ofPlate = false) →
      s.kn.evq = [] → s.ctl.ms.failAfter = [] →
      ∃ t, exec .plateSlotWritten s = .next t ∧ said t (s.validate o.slot 1 o.lenw) ∧ t.kn.plate.inf = pl.inf ∧ t.kn.plate.cur = pl.cur ∧
        match s.validate o.slot 1 o.lenw with
        | .ok _ => t.kn.plate.run = some o ∧ t.ctl = s.ctl ∧ (s.kn.prog = [] → t.kn.prog.length = 4 ∧ ∀ q ∈ t.kn.prog, q.why = .slotRec o.slot)
        | .error _ => t.kn.plate.run = none ∧ t.barked 852) ∧
    (pl.run = some o → o.op = 1 → s.kn.prog = [p] → p.why = .slotRec b → s.kn.dead = [] → s.noPlate = false → s.kn.evq = [] →
      s.ctl.ms.failAfter = [] → ∃ t, exec (.storeWordProgrammed true) s = .next t ∧ t.kn.plate.cur = b ∧ t.kn.plate.run = none ∧
        t.kn.plate.inf = pl.inf ∧ t.barked 852) ∧
    (pl.run = some o → o.op = 1 → o.next < o.lines → exec .plateSlotWritten s = .next s) ∧
    (pl.run = some o → o.op = 1 → (∃ q ∈ s.kn.prog, q.why.ofPlate = true) → exec .plateSlotWritten s = .next s) ∧
    (pl.run = some o → o.op = 2 → ∃ t, exec .reloadDone s = .next t ∧ said t (s.validate o.slot 2 none) ∧ t.kn.plate.run = none ∧
      match s.validate o.slot 2 none with
      | .ok _ => t.kn.plate.inf = true ∧ t.kn.plate.infSlot = o.slot ∧ t.kn.sheep.runState = 1 ∧ t.kn.sheep.pc = 0 ∧ t.kn.sheep.hist = []
      | .error _ => t.kn.plate.infSlot = pl.infSlot ∧ t.kn.sheep = { s.kn.sheep with corr := t.kn.sheep.corr }) ∧
    (pl.run = some o → o.op = 3 → ∃ t, exec .plateCheckDone s = .next t ∧
      t = { s with kn := { s.kn with plate := t.kn.plate, sheep := { s.kn.sheep with corr := t.kn.sheep.corr } } } ∧
      said t (s.validate pl.cur 3 none) ∧ t.kn.plate.run = none ∧ t.kn.plate.cur = pl.cur ∧ t.kn.plate.inf = pl.inf ∧
      t.kn.plate.fcode = pl.fcode ∧
      t.kn.plate.fbv = (match s.validate (!pl.cur) 3 none with | .ok _ => true | .error _ => false))

/-! ### Recovery -/

/-- Substitution of a failed slice, step by step (Table 14-6, R442), how it begins, and the loss of a logical slice without a spare
(R441, R444). What the spare is given of credits (log entry 40), the walks it takes up (log entry 88), the names it takes over (log entry 36)
and how it comes on (log entry 52) are readings. A command that is not due does nothing (log entry 1). -/
def Obligations.substitution : Prop :=
  ∀ (s : State) (n : Fin 66) (sp : Nat) (rest : List Nat),
    let rc := s.ctl.rcv
    let at_ := fun (k : Nat) => s.frozen = false ∧ s.sh.mode = .recover ∧ rc.step.toNat = k ∧ s.spare < 66 ∧ s.failedOne < 66 ∧
      s.spare ≠ s.failedOne ∧ s.nothingHeld
    let old := s.slice s.failedOne
    let x := s.slice n
    let fails := s.frozen = false ∧ x.pwr = .on ∧ x.failed = false ∧ x.active = true ∧ s.ctl.ms.chg = false ∧ rc.step = 0 ∧
      s.kn.plate.run = none ∧ s.sh.mode ≠ .dormant ∧ s.nothingHeld
    let begun := fun (i : Instr) => ∃ t, exec i s = .next t ∧ t.sh.mode = .recover ∧ (t.slice n).sink = true ∧ (t.slice n).failed = true ∧
      (t.slice sp).pwr = (s.slice sp).pwr.rising ∧ (t.slice sp).logical = x.logical ∧
      t.ctl.rcv = { rc with step := 2, lslice := BitVec.ofNat 6 x.logical, newp := BitVec.ofNat 7 sp, oldp := BitVec.ofNat 7 n, spares := rc.spares - 1 }
    let lost := fun (i : Instr) => ∃ t, exec i s = .next t ∧ t.sh = s.sh ∧ (t.slice n).dead = true ∧ (t.slice n).failed = true ∧
      (t.slice n).ent = [] ∧ (t.slice n).lsh = [] ∧ t.barked 878 ∧ t.ctl.rcv = rc
    (at_ 2 → ∃ t, exec .spareReady s = .next t ∧ t.ctl.rcv = { rc with step := 3 } ∧ t.sh = s.sh ∧ (t.slice s.spare).pwr = .on ∧
      (t.slice s.spare).mem = [] ∧ t = { s.updSlice s.spare fun _ => t.slice s.spare with ctl := t.ctl }) ∧
    (at_ 3 → s.kn.evq = [] → ∃ t, exec .substitutionCopyDone s = .next t ∧ t.ctl.rcv = { rc with step := 4 } ∧
      t.sh = { s.sh with lsmap := s.sh.lsmap.set rc.lslice.toNat s.spare } ∧ t.kn.substRec = some t.sh.lsmap ∧ t.barked 854 ∧
      let y := t.slice s.spare
      y.trk = old.trk.map (·.renamed s.failedOne s.spare) ∧ y.rcl = old.rcl.map (fun r => { r.renamed s.failedOne s.spare with row := none }) ∧
        y.collapses.map (·.line) = old.collapses.map (·.line) ∧ y.owed = old.owed ∧ y.lsh = old.lsh.map (·.renamed s.failedOne s.spare) ∧
        y.far = old.far.map (·.renamed s.failedOne s.spare) ∧ y.bar = old.bar ∧ y.ent = old.ent ∧ y.agedq = old.agedq ∧
        y.jrn = old.jrn.map (·.renamed s.failedOne s.spare) ∧ y.jobs = old.jobs ∧ t.slice s.failedOne = old) ∧
    (at_ 4 → ∃ t, exec .substitutionMapDone s = .next t ∧ t.ctl.rcv = { rc with step := 5 } ∧ t.sh = s.sh ∧
      (t.slice s.spare).active = true ∧ (t.slice s.spare).replay = true ∧ (t.slice s.spare).logical = rc.lslice.toNat ∧
      (t.slice s.spare).heldRx = old.heldRx ∧ (t.slice s.spare).walks = old.walks.map (Walk.again old.chunkOver) ∧
      (old.walks = [] → (t.slice s.spare).bq = old.bq) ∧ (t.slice s.failedOne).active = false ∧ (t.slice s.failedOne).pwr = .off ∧
      (t.slice s.failedOne).trk = []) ∧
    (at_ 5 → s.sh.stop = false → ∃ t, exec .substitutionReplayDone s = .next t ∧ t.ctl.rcv.step = 6) ∧
    (at_ 5 → s.sh.stop = false → (let y := s.slice s.spare; y.replay = true ∧ y.heldRx = [] ∧ y.unsent = [] ∧ y.slcp = false ∧ y.trk = [] ∧
        y.ent = [] ∧ y.agedq = [] ∧ y.lsh = []) →
      ∃ t, exec .substitutionReplayDone s = .next t ∧ (t.slice s.spare).slcp = true ∧ (t.slice s.spare).replay = false) ∧
    (at_ 6 → (s.slice s.spare).slcp = false → s.ctl.ms.failAfter = [] → ∃ t, exec .recoverEnd s = .next t ∧ t.ctl.rcv.step = 0 ∧
      t.sh = { s.sh with mode := (if s.sh.prev = .dormant then .run else s.sh.prev), prev := .recover, settle := false }) ∧
    (at_ 6 → (s.slice s.spare).slcp = true → exec .recoverEnd s = .next s) ∧
    (fails → s.spares = sp :: rest → begun (.networkInterfaceFault n) ∧ begun (.sliceLinkChannelTimeout n)) ∧
    (fails → s.spares = [] → x.trk = [] → s.kn.evq = [] → lost (.networkInterfaceFault n) ∧ lost (.sliceLinkChannelTimeout n)) ∧
    (s.frozen = false → x.pwr ≠ .on → exec (.networkInterfaceFault n) s = .next s ∧ exec (.sliceLinkChannelTimeout n) s = .next s)

/-- The end of a dead agent's walk: nothing lost, or the domain stops (R446, R447, R449); retirement of an agent (R450). What a slice
census that lacks the agent's report counts for is a reading (log entry 67). A command that is not due does nothing (log entry 1). -/
def Obligations.agents_leave : Prop :=
  ∀ (s : State) (tag : BitVec 8) (a : Fin 512) (v : Word) (n : Fin 66) (lines : Nat),
    let p := s.sh.port a
    let off := 0x60038 + 0x40 * a.val
    let port := s.portFree ∧ s.sh.mode ≠ .engrave
    let walked := s.frozen = false ∧ s.sh.stop = false ∧ s.sh.walk = some a.val
    (walked → s.anyReplay = false → p.barAt ≠ some s.sh.now → s.ctl.rcv.step ≠ 4 → (∀ q ∈ s.liveSlices, ((s.slice q).deadLines s.sh a).1 = 0 ∧
      (s.slice q).heldLines s.sh = [] ∧
      (s.slice q).trk = [] ∧
        (s.slice q).rcl = [] ∧ (s.slice q).collapses = [] ∧ (s.slice q).jobs = []) → s.ctl.deadq = [] → ∃ t, exec .deadWalkDone s = .next t ∧
          t.sh.walk = none ∧ t.sh.stop = false ∧
      ((t.sh.port a).bar).getLsbD 0 = false ∧ ∀ q ∈ s.liveSlices,
        (∀ y ∈ (t.slice q).lsh, y.agent ≠ a.val) ∧ (∀ y ∈ (t.slice q).wat, y.agent ≠ a.val) ∧ (∀ y ∈ (t.slice q).ent, y.port ≠ a.val)) ∧
    (walked → s.anyReplay = false → lines = (s.liveSlices.map fun q => ((s.slice q).deadLines s.sh a).1).sum → 0 < lines →
      ∃ t, exec .deadWalkDone s = .next t ∧
      t.sh.stop = true ∧ t.sh.walk = none ∧ t.ctl.stopAgent = BitVec.ofNat 9 a ∧
      t.ctl.stopLines = BitVec.ofNat 32 (min lines (2 ^ 32 - 1)) ∧ t.ctl.brn.queue = [] ∧ t.ctl.brn.run = none ∧ t.out = s.out) ∧
    (s.frozen = false → s.sh.walk = none ∨ s.anyReplay = true → exec .deadWalkDone s = .next s) ∧
    (port → p.absent = true ∨ a.val ∈ s.ctl.retiring → exec (.prtRetire tag a v) s = .next (s.turnedAway off tag 8)) ∧
    (port → p.absent = false → a.val ∉ s.ctl.retiring → v.toNat % 256 ≠ 1 → exec (.prtRetire tag a v) s = .next (s.turnedAway off tag 9)) ∧
    (port → p.absent = false → a.val ∉ s.ctl.retiring → v.toNat % 256 = 1 → ∃ t, exec (.prtRetire tag a v) s = .next t ∧ t.sh = s.sh ∧
      t.ctl.retiring = s.ctl.retiring ++ [a.val] ∧ t.ctl.rp.rsp = s.ctl.rp.rsp ++ [{ tag := tag, err := false, data := 0 }] ∧ ∀ q : Fin 66,
        t.slice q = if (s.slice q).active = true ∧ (s.slice q).dead = false
          then { s.slice q with walks := (s.slice q).walks ++ [{ why := .retire a.val }] } else s.slice q) ∧
    (s.frozen = false → a.val ∈ s.ctl.retiring → s.ctl.rcv.step = 0 → p.barAt ≠ some s.sh.now → (∀ q ∈ s.actives, (s.slice q).dead = true ∨
        ((s.slice q).pwr = .on ∧ (s.slice q).walkOver (.retire a) = true ∧ (s.slice q).awaits a = false)) → ∃ t,
      exec (.retirementDone a) s = .next t ∧ a.val ∉ t.ctl.retiring ∧ (t.sh.port a).retired = true ∧ ((t.sh.port a).bar).getLsbD 0 = false ∧
      (∀ b : Fin 512, b ≠ a → t.sh.port b = s.sh.port b) ∧ (∀ q : Fin 66, (t.slice q).trk = (s.slice q).trk) ∧
      ∀ q : Fin 66, q.val ∈ s.liveSlices → (t.slice q).lsh = (s.slice q).lsh.filter (·.agent != a.val) ∧
        (t.slice q).wat = (s.slice q).wat.filter (·.agent != a.val)) ∧
    (s.frozen = false → a.val ∉ s.ctl.retiring → exec (.retirementDone a) s = .next s) ∧
    (s.frozen = false → (s.slice n).active = true → (s.slice n).dead = false →
      (s.slice n).pwr ≠ .on ∨ (s.slice n).walkOver (.retire a) = false ∨ (s.slice n).awaits a = true → exec (.retirementDone a) s = .next s)

/-- PCK_FENCE and PCK_RESET: what their writes begin and where they are refused (R49, R451, Tables 2-8 and 14-8), and what the ends of
their walks leave (R51, R451). A command that is not due does nothing (log entry 1). -/
def Obligations.pack_fences_and_resets : Prop :=
  ∀ (s : State) (tag : BitVec 8) (p : Fin 16) (v : Word),
    let pk := s.sh.pack p
    let port := s.portFree ∧ s.sh.mode ≠ .engrave
    let m : BitVec 8 := v.setWidth 8
    let snap := ((List.range 8).zip pk.wins).filterMap fun w => if m.getLsbD w.1 then some (w.2.lo, w.2.hi) else none
    let fenced := s.updSh fun g => g.updPack p fun x => { x with fenceMask := m, fenceSnap := snap, fenceBusy := true }
    let mode := s.sh.mode = .run ∨ s.sh.mode = .drain
    let idle := ∀ q : Fin 16, (s.sh.pack q).resetBusy = false
    let off := 0x680C0 + 0x100 * p.val
    (port → pk.fenceBusy = true → exec (.pckFence tag p v) s = .next (s.turnedAway off tag 8)) ∧
    (port → pk.fenceBusy = false → pk.resetBusy = false → m = 0 → exec (.pckFence tag p v) s = .next (s.answered tag)) ∧
    (port → pk.fenceBusy = false → pk.resetBusy = false → m ≠ 0 → exec (.pckFence tag p v) s =
      .next ((fenced.updBrn fun b => { b with queue := b.queue ++ [.fence p.val] }).answered tag)) ∧
    (s.frozen = false → pk.fenceBusy = true → s.walkDone (.fence p) = true → s.kn.evq = [] → ∃ t, exec (.fenceDone p) s = .next t ∧
      (t.sh.pack p).fenceBusy = false ∧ t.barked (784 + p.val) ∧ t.ctl.brn.run = none) ∧
    (s.frozen = false → s.walkDone (.fence p) = false → exec (.fenceDone p) s = .next s) ∧
    (port → mode → idle → v.toNat % 256 = 1 → s.anyReplay = false → (∀ q, q < 66 → (s.slice q).bar = [] ∧ (s.slice q).coord = []) →
      (∀ l ∈ s.link, l.tells p = false) → (∀ i : Fin 16, (s.ctl.brn.job i).live = false) → s.ctl.brn.queue = [] → exec (.pckReset tag p v) s =
        .next ((s.updSh fun g => g.updPack p fun x => { x with gate := x.gate ||| 1, resetBusy := true, resetStep := 1 }).answered tag)) ∧
    (port → mode → idle → v.toNat % 256 ≠ 1 → exec (.pckReset tag p v) s = .next (s.turnedAway (off + 8) tag 9)) ∧
    (port → ¬mode ∨ pk.resetBusy = true → exec (.pckReset tag p v) s = .next (s.turnedAway (off + 8) tag 8)) ∧
    (s.frozen = false → pk.resetBusy = true → pk.resetStep = 1 → s.packIdle p = true → s.sh.stop = false → s.anyReplay = false →
      (∀ j ∈ s.ctl.brn.jobs, j.live = false) → s.ctl.brn.run = none → s.ctl.brn.paused = none → .fence p.val ∉ s.ctl.brn.queue →
      (∀ q, q < 66 → (s.slice q).lsh = [] ∧ (s.slice q).wat = []) → exec (.packResetDrained p) s =
        .next ((s.updSh fun g => g.updPack p fun x => { x with resetStep := 4, fenceBusy := true, fenceMask := 0 }).updBrn
          fun b => { b with queue := b.queue ++ [.preset p.val] })) ∧
    (s.frozen = false → s.packIdle p = false ∨ s.sh.stop = true ∨ s.anyReplay = true → exec (.packResetDrained p) s = .next s) ∧
    (s.frozen = false → pk.resetBusy = true → pk.resetStep = 4 → s.walkDone (.preset p) = true → s.kn.evq = [] →
      (∀ q ∈ s.liveSlices, (s.slice q).lsh = []) → ∃ t, exec (.packResetWalkDone p) s = .next t ∧ (t.sh.pack p).resetBusy = false ∧
        (t.sh.pack p).deny = List.replicate 5 0 ∧ t.barked (816 + p.val) ∧ ∀ q : Fin 66, (t.slice q).level p = (16 * pk.burst : Nat)) ∧
    (s.frozen = false → s.walkDone (.preset p) = false → exec (.packResetWalkDone p) s = .next s)

/-! ### The engines -/

/-- BRN_CMD: SUBMIT of a legal and of an illegal job, CANCEL, and SUBMIT with CANCEL (R466, R468, R469, R470). -/
def Obligations.burin_commands : Prop :=
  ∀ (s : State) (tag : BitVec 8) (i : Fin 16),
    s.portFree →
    let b := s.ctl.brn
    let j := b.job i
    let op := j.d0.toNat % 16
    let no := fun (c : Nat) => Host.Outcome.next (s.turnedAway 0x78008 tag c)
    let ready := (s.sh.mode = .run ∨ s.sh.mode = .drain ∨ s.sh.mode = .recover) ∧ s.sh.stop = false ∧ j.live = false
    let legal := 1 ≤ op ∧ op ≤ 3 ∧ j.d0.toNat / 2 ^ 20 = 0 ∧ j.d0.toNat / 2 ^ 16 % 16 ≤ 12 ∧ j.d0.toNat / 2 ^ 12 % 16 = 0 ∧
      j.d0.toNat / 2 ^ 5 % 8 = 0 ∧ j.d1.toNat / 2 ^ 48 = 0 ∧ j.d2.toNat / 2 ^ 48 = 0 ∧ j.d1.toNat % 2 ^ 12 = 0 ∧ j.d2.toNat % 2 ^ 12 = 0 ∧
      j.d1.toNat ≤ j.d2.toNat
    let told := fun (t : State) => t.ctl.rp.rsp = s.ctl.rp.rsp ++ [{ tag := tag, err := false, data := 0 }] ∧ t.sh = s.sh
    (ready → legal → exec (.brnCmdSubmit tag i) s = .next ((s.updBrn fun b => { b.setJob i (fun j => { j with
      job := [j.d0, j.d1, j.d2, j.d3], status := 1, why := 0, chunks := 0, next := 0, out := [], cancel := false, visited := 0, wb := 0,
      drop := 0, spare := 0, elapsed := 0, base := [],
      walk := decide (32768 < j.d2.toNat / 2 ^ 12 - j.d1.toNat / 2 ^ 12 + 1) }) with queue := b.queue ++ [.slot i.val] }).answered tag)) ∧
    (¬ready → exec (.brnCmdSubmit tag i) s = no 8 ∧ exec (.brnSubmitCancel tag i) s = no 8) ∧
    (ready → op = 0 ∨ 5 < op ∨ j.d0.toNat / 2 ^ 20 ≠ 0 ∨ 12 < j.d0.toNat / 2 ^ 16 % 16 → exec (.brnCmdSubmit tag i) s = no 9) ∧
    (ready → legal → s.kn.evq = [] → ∃ t, exec (.brnSubmitCancel tag i) s = .next t ∧ told t ∧ (t.ctl.brn.job i).status = 4 ∧
      (t.ctl.brn.job i).why = 0 ∧ .slot i.val ∉ t.ctl.brn.queue ∧ t.barked 855) ∧
    (s.sh.mode ≠ .engrave → j.status = 1 → s.kn.evq = [] → ∃ t, exec (.brnCmdCancel tag i) s = .next t ∧ told t ∧
      (t.ctl.brn.job i).status = 4 ∧ .slot i.val ∉ t.ctl.brn.queue ∧ t.barked 855) ∧
    (s.sh.mode ≠ .engrave → j.status = 2 → j.out ≠ [] →
      exec (.brnCmdCancel tag i) s = .next ((s.updBrn fun b => b.setJob i fun j => { j with cancel := true, why := 0 }).answered tag)) ∧
    (s.sh.mode ≠ .engrave → j.live = false → exec (.brnCmdCancel tag i) s = .next (s.answered tag))

/-- A job of the Burin engine starts, issues its chunks, and ends with the last of them (R457, R458, R467, R470). A command that is not
due does nothing (log entry 1). -/
def Obligations.burin_work : Prop :=
  ∀ (s : State) (i : Fin 16) (rest : List BJob) (k : Nat),
    s.frozen = false → s.ctl.on = true → s.sh.stop = false →
    let b := s.ctl.brn
    let j := b.job i
    let mine := b.run = some (.slot i.val)
    let noPreset := fun (l : List BJob) => l.all (fun x => match x with | .preset _ => false | _ => true) = true
    (b.queue = .slot i.val :: rest → noPreset rest → b.run = none → b.paused = none → j.status = 1 → j.walk = false →
      ∃ t, exec .burinJobStart s = .next t ∧ t.ctl.brn.run = some (.slot i.val) ∧ t.ctl.brn.queue = rest ∧ (t.ctl.brn.job i).status = 2 ∧
        (t.ctl.brn.job i).startAt = s.sh.now ∧ t.slices = s.slices ∧ t.sh = s.sh) ∧
    (b.queue = .slot i.val :: rest → noPreset rest → b.run = none → b.paused = none → j.status = 1 → j.walk = true →
      ∃ t, exec .burinJobStart s = .next t ∧ t.ctl.brn.run = some (.slot i.val) ∧ ∀ q : Fin 66, (t.slice q).walks = (s.slice q).walks ++
        (if (s.slice q).active = true ∧ (s.slice q).dead = false then
          [{ why := .job i, stop := 0, op := j.op, pack := j.owner, range := some (j.lo, j.hi), pace := j.pace }] else [])) ∧
    (mine → noPreset b.queue → exec .burinJobStart s = .next s) ∧
    (mine → j.walk = true → j.op ≠ 4 → j.out = [] → j.next = k → k < 512 → j.cancel = false → noPreset b.queue →
      s.sliceLost = false →
      ∃ t, exec .burinChunkIssue s = .next t ∧ t.ctl.brn = b.setJob i (fun j => { j with out := [k], next := k + 1 }) ∧
        ∀ q : Fin 66, (t.slice q).walks = (s.slice q).walks.map fun w => if w.why = .job i then { w with stop := 64 * (k + 1) } else w) ∧
    (mine → j.walk = false → j.op < 4 → j.out = [] → j.next = k → k < j.chunkCount → j.cancel = false → noPreset b.queue →
      s.sliceLost = false → (∀ q ∈ s.sh.lsmap, q < 66) → ∃ t, exec .burinChunkIssue s = .next t ∧
        t.ctl.brn = b.setJob i (fun j => { j with out := [k], next := k + 1 }) ∧ ∀ l, l < 64 →
        let line : Line := BitVec.ofNat 42 ((j.lo + k) * 64 + l)
        { tag := 544 + i.val, op := j.op, pack := j.owner, pace := j.pace, work := .line line } ∈ (t.slice (s.sh.home line)).bq) ∧
    (b.run = none → exec .burinChunkIssue s = .next s ∧ exec .burinChunkComplete s = .next s) ∧
    (mine → j.status = 2 → j.out = [k] → (∀ q ∈ s.burinSlices, (s.slice q).jobChunkOver j (544 + i.val) k = true) → s.sliceLost = false →
      j.chunkCount ≤ j.next → j.op ≠ 4 → s.kn.evq = [] → ∃ t, exec .burinChunkComplete s = .next t ∧ t.ctl.brn.run = none ∧
        (t.ctl.brn.job i).status = (if j.cancel = true then 4 else 3) ∧ (t.ctl.brn.job i).chunks = j.chunks + 1 ∧ t.barked 855) ∧
    (mine → j.out = [k] → (∃ q ∈ s.burinSlices, (s.slice q).jobChunkOver j (544 + i.val) k = false) →
      exec .burinChunkComplete s = .next s)

/-- The Ledger's FIFO: a record taken, a block closed by age or by FLUSH, a read of LDG_HEAD[7], and the writes of LDG_CTL and LDG_RING
(R474, R477, R478, R483, R484, R486). A command that is not due does nothing (log entry 1). -/
def Obligations.ledger_blocks : Prop :=
  ∀ (s : State) (tag : BitVec 8) (u : Nat) (e : LEvt) (r : LRec) (ws : List Word) (v : Word) (blk : Blk) (rest : List Blk) (rb : RBlk),
    let l := s.ctl.ldg
    let on := s.frozen = false ∧ s.ctl.on = true ∧ s.ctl.ms.step ≠ 20
    let still := l.tail = [] ∧ l.rblk = [] ∧ l.pendRing = none
    let port := s.portFree ∧ s.sh.mode ≠ .engrave ∧ s.reloading = false ∧ s.ctl.ms.step ≠ 20
    let closed := fun (t : State) => t.ctl.ldg.open_ = [] ∧ t.ctl.ldg.bseq = l.bseq + 1 ∧
      t.ctl.ldg.head = [{ bseq := l.bseq, words := l.open_ }] ∧ t.ctl.ldg.tail = []
    let age := l.openAt + 100 * (l.flush.toNat % 2 ^ 16)
    let thr := l.thr.toNat % 2 ^ 15
    (on → still → l.ctl.getLsbD 0 = true → s.ldgNext = some u → u ≠ 68 → l.queue u = [e] → e.recs = [r] → r.data.length ≤ 3 → l.series = [] →
      l.open_ = [] →
      ∃ t, exec .ledgerTakeRecord s = .next t ∧ t.ctl.ldg.queue u = [] ∧ t.ctl.ldg.count = l.count + 1 ∧ t.ctl.ldg.turn = (u + 1) % 73 ∧
        t.ctl.ldg.openAt = s.sh.now ∧ t.ctl.ldg.open_ = recWords u e.at_ r false (tget 0 l.unitLost u) ∧ t.slices = s.slices ∧ t.kn = s.kn) ∧
    (on → still → l.series = [ws] → ws.length ≤ 5 → l.paceOk s.sh.now (recUnit ws) = true → l.open_ = [] →
      ∃ t, exec .ledgerTakeRecord s = .next t ∧ t.ctl.ldg.series = [] ∧ t.ctl.ldg.open_ = ws ∧ t.ctl.ldg.openAt = s.sh.now ∧
        t.ctl.ldg.count = l.count + 1 ∧ t.ctl.ldg.queues = l.queues ∧ t.ctl.ldg.turn = l.turn ∧ t.slices = s.slices ∧ t.kn = s.kn) ∧
    (on → l.full = true ∨ (l.series = [] ∧ (l.ctl.getLsbD 0 = false ∨ s.ldgNext = none)) → exec .ledgerTakeRecord s = .next s) ∧
    (on → still → l.ren = false → l.head = [] → l.open_ ≠ [] → age ≤ s.sh.now →
      ∃ t, exec .ledgerFlushAge s = .next t ∧ closed t ∧ (thr = 1 → t.barked 860)) ∧
    (on → s.sh.now < age → exec .ledgerFlushAge s = .next s) ∧
    (port → still → l.ren = false → l.head = [] → l.open_ ≠ [] → ∃ t, exec (.ldgCmdFlush tag) s = .next t ∧ closed t ∧
      t.ctl.rp.rsp = s.ctl.rp.rsp ++ [{ tag := tag, err := false, data := 0 }]) ∧
    (port → still → l.open_ = [] → exec (.ldgCmdFlush tag) s = .next (s.answered tag)) ∧
    (port → still → l.head = blk :: rest → ∃ t, exec (.ldgHeadRead tag) s = .next t ∧ t.ctl.ldg.head = rest ∧
      t.ctl.rp.rsp = s.ctl.rp.rsp ++
        [{ tag := tag, err := false, data := (blk.bseq.setWidth 64 <<< 32) ||| put (8 * blk.words.length) 0 }]) ∧
    (port → still → l.head = [] → exec (.ldgHeadRead tag) s = .next (s.answered tag (l.bseq.setWidth 64 <<< 32))) ∧
    (port → still → v.getLsbD 0 = true → exec (.ldgCtlWrite tag (.whole v)) s =
      .next ((s.updLdg fun l => { l with ctl := v &&& 0xF01 }).answered tag)) ∧
    (port → still → v.getLsbD 0 = false → ∃ t, exec (.ldgCtlWrite tag (.whole v)) s = .next t ∧ t.ctl.ldg.ctl = v &&& 0xF01 ∧
      t.ctl.ldg.queues = [] ∧ t.kn.evq = (s.kn.evq.filter fun e => e.bark.isSome).map (fun e => { e with recs := [] }) ∧ t.ctl.ldg.filt = l.filt +
        BitVec.ofNat 64 ((l.queues.map fun q => q.2.length).sum + (s.kn.evq.filter fun e => decide (e.recs ≠ [])).length)) ∧
    (port → still → v.getLsbD 63 = false → ∃ t, exec (.ldgRingWrite tag (.whole v)) s = .next t ∧ t.ctl.ldg.ring = v &&& 0x0000FFFFFFFFF00F ∧
      t.ctl.ldg.pendRing = none ∧ t.ctl.rp.rsp = s.ctl.rp.rsp ++ [{ tag := tag, err := false, data := 0 }]) ∧
    (port → l.rblk = [rb] → rb.done = false → l.tail = [] → v.getLsbD 63 = false → v &&& 0x0000FFFFFFFFF00F ≠ l.ring →
      exec (.ldgRingWrite tag (.whole v)) s = .next ((s.updLdg fun l => { l with pendRing := some (v &&& 0x0000FFFFFFFFF00F) }).answered tag)) ∧
    (port → v.getLsbD 63 = true → v.toNat % 16 < 6 → exec (.ldgRingWrite tag (.whole v)) s = .next (s.turnedAway 0x79008 tag 9))

/-- The Ledger's memory ring: the answer to a block's write, the read that follows, a block read back, and the blocks it drops (R479 to
R481, R485). The TXID of a read is a free choice (log entry 3). A command that is not due does nothing (log entry 1). -/
def Obligations.ledger_ring : Prop :=
  ∀ (s : State) (pkt : Pkt) (m : Msg) (b : RBlk) (us : List Unit128) (k : BitVec 5) (len : Nat) (tgt : Nat),
    let l := s.ctl.ldg
    let ws := wordsOfUnits us
    let w7 := ws.getD 7 0
    let on := s.frozen = false ∧ s.ctl.on = true ∧ s.ctl.ms.step ≠ 20 ∧ l.rblk = [b] ∧ l.tail = [] ∧ l.pendRing = none ∧ l.head = []
    let got := on ∧ s.passes .ctl pkt m
    let written := got ∧ m.cls = 2 ∧ m.cmd = 9 ∧ b.done = false ∧ b.txid = m.txid.toNat ∧ b.rd = none
    let back := got ∧ m.cls = 2 ∧ m.cmd = 9 ∧ b.done = true ∧ b.rd = some m.txid.toNat ∧ b.rsp = false ∧ b.data = some us
    let dropped := fun (i : Instr) => ∃ t, exec i s = .next t ∧ t.ctl.ldg.rblk = [] ∧ t.ctl.ldg.head = [] ∧
      t.ctl.ldg.drop = satInc l.drop ∧ t.barked 862
    (written → s.sh.target (ringLine l b.idx) = some tgt → 512 ≤ memNode tgt → memNode tgt < 1024 → 1 ≤ l.cut →
      ∃ t, exec (.ledgerSpillDone pkt) s = .next t ∧ ∃ tx, tx < 32 ∧
      t.ctl.ldg.rblk = [{ b with done := true, rd := some tx, rdAt := s.sh.now }] ∧
      s.sends t [{ cls := 0, cmd := 0x10, src := BitVec.ofNat 10 ctlNode, dst := BitVec.ofNat 10 (memNode tgt), txid := BitVec.ofNat 12 tx,
                   pack := 0, line := ringLine l b.idx, f := fPut ctlNode 1, units := [] }]) ∧
    (got → m.cls = 3 → m.cmd = 2 → b.rd = some m.txid.toNat → b.data = none → b.rsp = false → ∃ t, exec (.ledgerRefill [pkt]) s = .next t ∧
      t.ctl.ldg = { l with rblk := [{ b with data := some m.units, poison := b.poison || m.f.getLsbD 17 }] } ∧ t.out = s.out) ∧
    (back → b.poison = false → m.f.getLsbD 17 = false → 2 ≤ len → len ≤ 7 → w7.toNat % 2 ^ 8 = 8 * len →
      (∀ i, i < 7 → (classify ⟨ws.getD i 0, (w7 >>> (8 * i + 8)).setWidth 8⟩ (ringWaddr b.idx i b.lap)) = (.clean, ws.getD i 0)) →
      ∃ t, exec (.ledgerRefill [pkt]) s = .next t ∧ t.ctl.ldg.rblk = [] ∧
        t.ctl.ldg.head = [{ bseq := b.bseq, words := ((List.range 7).map fun i => ws.getD i 0).take len }]) ∧
    (back → b.poison = true ∨ m.f.getLsbD 17 = true → s.kn.evq = [] → dropped (.ledgerRefill [pkt])) ∧
    (on → b.rd = some k.toNat → b.rdAt + 1000000 ≤ s.sh.now → b.rsp = false ∨ b.data = none → s.kn.evq = [] → dropped (.ledgerRefillTimeout k)) ∧
    (on → b.rd = some k.toNat → s.sh.now < b.rdAt + 1000000 → exec (.ledgerRefillTimeout k) s = .next s)

/-- The Bark unit and the interrupt output: a commit, moderation, sources raised and withdrawn by software, a claim, and a message that
leaves or is dropped (R489 to R496, R542, R543). A source that the hardware raised in the same cycle stays pending against software (R8,
R490); that a cycle is one timestamp is the model's choice (log entry 68). Which sources a moderation interval holds is a reading (log
entry 93); a command that is not due does nothing (log entry 1). -/
def Obligations.bark_and_interrupts : Prop :=
  ∀ (s : State) (tag : BitVec 8) (x y : Nat) (src : BitVec 10) (wd : Bool) (t : Fin 8) (k : Fin 16) (v : Word) (m : IMsg) (ms : List IMsg) (w : Nat),
    let b := s.ctl.brk
    let on := s.frozen = false ∧ s.ctl.on = true
    let port := s.portFree ∧ s.sh.mode ≠ .engrave
    let bark := fun (f : Bark → Bark) => Host.Outcome.next ((s.updBrk f).answered tag)
    let word := b.tgt.getD (b.target x) 0
    let due := b.ctl.getLsbD 0 = true ∧ b.mq = [] ∧ b.enabled x = true ∧ b.tgtOn (b.target x) = true ∧ b.interval (b.target x) = 0
    let committed := fun (left : List Nat) => exec .barkCommit s = .next (s.updBrk fun b => { b with
      pend := left, burst := (b.expireAll s.sh.now).burst.filter (· != x), mqAt := s.sh.now, sent := b.sent + 1, commit := some (x, s.sh.now),
      mq := [{ addr := (word >>> 2).setWidth 46, val := BitVec.ofNat 32 (word.toNat / 2 ^ 54 * 2 ^ 10 + x), src := x }],
      last := (b.target x, s.sh.now) :: b.last.filter (·.1 != b.target x) })
    (on → due → b.pend = [x] → committed []) ∧
    (on → due → b.pend = [y, x] → y < x → isFatal x = true → isFatal y = false → committed [y]) ∧
    (on → due → b.pend = [y, x] → y < x → isFatal x = false → isFatal y = false → b.prio (x / 32) < b.prio (y / 32) → committed [y]) ∧
    (on → b.ctl.getLsbD 0 = false ∨ 16 ≤ b.mq.length ∨ b.pend = [] →
      exec .barkCommit s = .next (s.updBrk fun b => { b.expireAll s.sh.now with commit := none })) ∧
    (on → b.interval t ≠ 0 → b.last = [(t.val, w)] → exec (.moderationExpiry t) s = .next (if w + b.interval t ≤ s.sh.now then
      s.updBrk fun b => { b with burst := (b.burst ++ (b.pend.filter fun z =>
        b.eligible z && b.target z == t.val && decide (tget 0 b.since z < w + b.interval t))).eraseDups } else s)) ∧
    (port → isSource src.toNat = true → isFatal src.toNat = false → exec (.brkSwsetRaise tag src false) s =
      bark fun b => (b.raise s.sh.now src.toNat).noted s.sh.now src.toNat true) ∧
    (port → isSource src.toNat = true → isFatal src.toNat = false → b.raisedBy s.sh.now false src.toNat = false → b.commit = none →
      exec (.brkSwsetWdraw tag src) s = bark fun b => { b with
        pend := b.pend.filter (· != src.toNat), burst := b.burst.filter (· != src.toNat) }) ∧
    (port → isSource src.toNat = true → isFatal src.toNat = false → b.raisedBy s.sh.now false src.toNat = false →
      b.commit = some (src.toNat, s.sh.now) → b.mq = ms ++ [m] →
      m.src = src.toNat → exec (.brkSwsetWdraw tag src) s = bark fun b => { b with
        pend := b.pend.filter (· != src.toNat), burst := b.burst.filter (· != src.toNat), commit := none, spur := satInc b.spur,
        mq := ms ++ [{ m with src := 1023, val := (m.val &&& 0xFFFFFC00) ||| 1023 }] }) ∧
    (port → isSource src.toNat = true → isFatal src.toNat = false → b.raisedBy s.sh.now false src.toNat = true → b.commit = none →
      exec (.brkSwsetWdraw tag src) s = bark id) ∧
    (port → isSource src.toNat = true → isFatal src.toNat = false → b.raisedBy s.sh.now false src.toNat = true →
      b.commit = some (src.toNat, s.sh.now) → b.mq = ms ++ [m] → m.src = src.toNat → exec (.brkSwsetWdraw tag src) s = bark fun b => { b with
        commit := none, spur := satInc b.spur, mq := ms ++ [{ m with src := 1023, val := (m.val &&& 0xFFFFFC00) ||| 1023 }] }) ∧
    (port → isSource src.toNat = false ∨ isFatal src.toNat = true → exec (.brkSwsetRaise tag src wd) s = .next (s.turnedAway 0x7A300 tag 9) ∧
      exec (.brkSwsetWdraw tag src) s = .next (s.turnedAway 0x7A300 tag 9)) ∧
    (port → b.commit = none → ∃ u, exec (.brkPendClear tag k (.whole v)) s = .next u ∧ u.slices = s.slices ∧ u.sh = s.sh ∧
      ∀ z, z ∈ u.ctl.brk.pend ↔ z ∈ b.pend ∧ ¬(z / 64 = k.val ∧ v.getLsbD (z % 64) = true ∧ isSource z = true ∧
        b.raisedBy s.sh.now false z = false)) ∧
    (port → b.pend = [x] → x < 1023 → b.enabled x = true → b.target x = t.val → exec (.brkClaimRead tag t) s =
      .next ((s.updBrk fun b => { b with pend := [], burst := b.burst.filter (· != x) }).answered tag (BitVec.ofNat 64 x))) ∧
    (port → b.pend = [] → exec (.brkClaimRead tag t) s = .next (s.answered tag 1023)) ∧
    (on → b.mq = m :: ms → exec .irqTransfer s =
      .next ((s.updIrq (· ++ [m])).updBrk fun b => { b with mq := ms, mqAt := s.sh.now })) ∧
    (on → b.mq = m :: ms → b.mqAt + 1000000 ≤ s.sh.now → s.kn.evq = [] → ∃ u, exec .irqDrop s = .next u ∧ u.ctl.brk.mq = ms ∧
      u.ctl.brk.irqDrop = satInc b.irqDrop ∧ u.barked 859 ∧ u.irq = s.irq) ∧
    (on → b.mq = [] ∨ s.sh.now < b.mqAt + 1000000 → exec .irqDrop s = .next s) ∧
    (s.frozen = false → b.mq = [] ∨ s.ctl.on = false → exec .irqTransfer s = .next s)

/-! ### Freeze, TAP and the debug read -/

/-- How a freeze is asked for, taken and left (R498, R499, R500, R504, R506, R508); with no power switch in motion and no transaction on the
PMBus. INCON tells of the last proof (R502). That a condition which ends before FROZEN ends the freeze at once (log entry 29), and that DUR
counts from FROZEN in whole µs while a store word is completed (log entry 30), are readings; a command that is not due does nothing (log
entry 1). -/
def Obligations.freeze_and_thaw : Prop :=
  ∀ (s : State) (tag : BitVec 8),
    let f := s.ctl.frz
    let dur := BitVec.ofNat 48 (min (f.frozenNs / 1000) (2 ^ 48 - 1))
    let word := s.kn.nextWord.isSome
    let still := fun (x : Slice) => x.pwr = .on ∨ x.pwr = .off ∨ x.pwr = .retained ∨ x.pwr = .filling
    let upd := fun (g : Frz → Frz) => Host.Outcome.next (s.updFrz g)
    (s.portFree → s.sh.mode ≠ .engrave → f.st = .running → s.pins.coldRst = false → exec (.frzCmdFreeze tag) s =
      .next ((s.updFrz fun f => { f with hold := true, st := .stopping, src := 1, word := word }).answered tag)) ∧
    (f.st = .running → s.kn.on = true → s.pins.coldRst = false → exec .xjFreezeAssert s =
      upd fun f => { f with pin := true, st := .stopping, src := 0, word := word }) ∧
    (f.st ≠ .running ∨ s.kn.on = false ∨ s.pins.coldRst = true → exec .xjFreezeAssert s = upd fun f => { f with pin := true }) ∧
    (f.st ≠ .running → f.hold = true ∨ f.st = .reading ∨ f.st = .thawing → exec .xjFreezeDeassert s = upd fun f => { f with pin := false }) ∧
    (f.st = .running → s.nothingHeld → exec .xjFreezeDeassert s = upd fun f => { f with pin := false }) ∧
    (f.hold = false → f.st = .frozen → exec .xjFreezeDeassert s = upd fun f => { f with pin := false, st := .thawing, dur := dur }) ∧
    (f.hold = false → f.st = .stopping → s.nothingHeld →
      exec .xjFreezeDeassert s = upd fun f => { f with pin := false, st := .running, word := false }) ∧
    (f.st = .stopping → f.hold = true ∨ f.pin = true → f.pcfg.getLsbD 8 = false → f.word = false → (∀ n, n < 66 → still (s.slice n)) →
      (∀ r ∈ s.kn.regs, r.poll = none) → exec .frozen s = .next ((s.updFrz fun f => { f with
        st := .frozen, count := satInc f.count, left := s.sh.mode, prev := s.sh.prev, rdPort := false, rdAuto := false, rdArr := false,
        rdScent := false, frozenNs := 0 }).updSh fun g => { g with prev := g.mode, mode := .freeze })) ∧
    (f.st = .stopping → f.hold = true ∨ f.pin = true → f.pcfg.getLsbD 8 = true → f.word = false → (∀ n, n < 66 → still (s.slice n)) →
      (∀ r ∈ s.kn.regs, r.poll = none) → ∃ t, exec .frozen s = .next t ∧ t.ctl.frz.st = .reading ∧ t.ctl.frz.rdAuto = true ∧
        t.ctl.frz.rdArr = f.pcfg.getLsbD 0 ∧ t.sh = { s.sh with mode := .freeze, prev := s.sh.mode }) ∧
    (f.st ≠ .stopping ∨ f.word = true ∨ (∃ n, n < 66 ∧ ¬still (s.slice n)) → exec .frozen s = .next s) ∧
    (f.st = .thawing → f.cond = false → s.nothingHeld → ∃ t, exec .thawComplete s = .next t ∧ t.ctl.frz.st = .running ∧
      t.sh = { s.sh with mode := f.left, prev := f.prev } ∧ t.slices = s.slices ∧ t.kn.sheep = s.kn.sheep) ∧
    (f.st = .running → s.nothingHeld → exec .thawComplete s = .next s) ∧
    (f.st = .reading → f.cond = true → exec .readoutEnd s = upd fun f => { f with st := .frozen, incon := s.proofIncon }) ∧
    (f.st = .reading → f.cond = false → exec .readoutEnd s = upd fun f => { f with st := .thawing, incon := s.proofIncon, dur := dur }) ∧
    (f.st ≠ .reading → exec .readoutEnd s = .next s)

/-- The TAP's data registers, the debug array read and the start of a proof image on the proof port and in PRFDR (R498, R506, R508, R511,
R512, R513, R548, Tables 17-3, 17-6 and 17-13). A legal FRZ_AADDR that names no word is refused as VALUE, one in a state that the debug read
does not have as STATE, which goes first (Table 19-3). That an update is made under its register's code is a reading (log entry 50), DUR
counts from FROZEN in whole µs (log entry 30), and an access of DBGDR that comes while Xejan stops waits for the thaw (log entry 29). -/
def Obligations.tap_and_debug : Prop :=
  ∀ (s : State) (tag : BitVec 8) (a c : Bool) (off : BitVec 20) (v : Word) (aa : BitVec 63) (n : Fin 66) (b : Fin 30) (w i : Nat) (r : Reg)
      (ir : BitVec 8),
    let f := s.ctl.frz
    let dur := BitVec.ofNat 48 (min (f.frozenNs / 1000) (2 ^ 48 - 1))
    let upd := fun (g : Frz → Frz) => Host.Outcome.next (s.updFrz g)
    let used := fun (g : Frz → Frz) => Host.Outcome.next ((s.updCtl fun c => { c with idleAt := s.sh.now }).updFrz g)
    let reads := fun (port : Bool) => upd fun f => { f with ir := 0x20, st := .reading, rdPort := port, rdAuto := false, rdArr := a, rdScent := c }
    let at_ := bankAddr b w
    let word := if b.val = 26 ∨ b.val = 27 ∨ b.val = 29 then (s.slice n).heldWord n at_ else (s.slice n).fetch at_
    let sl := v.toNat / 2 ^ 56 % 2 ^ 7
    let bk := v.toNat / 2 ^ 48 % 2 ^ 5
    let named := fun (x : Word) => x.toNat / 2 ^ 56 % 2 ^ 7 = n.val ∧ x.toNat / 2 ^ 48 % 2 ^ 5 = b.val ∧ x.toNat % 2 ^ 15 = w
    let mode := s.sh.mode = .run ∨ s.sh.mode = .drain ∨ s.sh.mode = .recover
    let legal := mode ∧ (s.slice n).pwr = .on ∧ w < 8 * bankRows b ∧ f.aslot = none
    (s.kn.on = true → f.st = .running → s.pins.coldRst = false →
      exec .tapSethold s = upd fun f => { f with ir := 0x20, hold := true, st := .stopping, src := 2, word := s.kn.nextWord.isSome }) ∧
    (s.kn.on = true → f.st ≠ .running → f.pin = true ∨ f.st = .reading ∨ f.st = .thawing →
      exec .tapClrhold s = upd fun f => { f with ir := 0x20, hold := false }) ∧
    (s.kn.on = true → f.st = .running → s.nothingHeld → exec .tapClrhold s = upd fun f => { f with ir := 0x20, hold := false }) ∧
    (s.kn.on = true → f.pin = false → f.st = .frozen → exec .tapClrhold s =
      upd fun f => { f with ir := 0x20, hold := false, st := .thawing, dur := dur }) ∧
    (s.kn.on = true → f.st = .frozen → exec (.tapPrfport a c) s = reads true ∧ exec (.tapPrftap a c) s = reads false) ∧
    (s.kn.on = true → f.st ≠ .frozen → f.st ≠ .running ∨ s.nothingHeld → exec (.tapPrfport a c) s = upd (fun f => { f with ir := 0x20 }) ∧
      exec (.tapPrftap a c) s = upd fun f => { f with ir := 0x20 }) ∧
    (s.kn.on = true → f.st = .reading → f.rdAuto = false → f.cond = true → exec .tapAbort s = upd fun f => { f with ir := 0x20, st := .frozen }) ∧
    (s.kn.on = true → f.st ≠ .reading ∨ (f.rdAuto = true ∧ f.rdArr = true) → f.st ≠ .running ∨ s.nothingHeld →
      exec .tapAbort s = upd fun f => { f with ir := 0x20 }) ∧
    (s.kn.on = false → exec .tapSethold s = .next s ∧ exec .tapClrhold s = .next s ∧ exec .tapAbort s = .next s ∧
      exec (.dbgdrRead off) s = .next s) ∧
    exec .tapReset s = upd (fun f => { f with ir := 1 }) ∧
    (s.portFree → s.kn.sheep.regWait = none → off.toNat % 8 = 0 → off.toNat < 0x80000 → regAt off.toNat = some r → s.sh.mode ≠ .engrave →
      (match r with | .slc _ _ => false | _ => true) = true → exec (.dbgdrRead off) s = used fun f => { f with
        ir := 0x22, dbgWait := none, dbgDone := true, dbgErr := false, dbgData := (s.tapIr 0x22).regRead r }) ∧
    (s.kn.on = true → f.st = .stopping → exec (.dbgdrRead off) s = upd fun f => { f with
      ir := 0x22, dbgWait := some (off.setWidth 64), dbgDone := false }) ∧
    (s.kn.on = true → f.st ≠ .running → f.st ≠ .stopping → exec (.dbgdrRead off) s = upd (fun f => { f with
      ir := 0x22, dbgDone := true, dbgErr := true, dbgData := 0 }) ∧ exec (.dbgdrWriteAaddr aa) s = upd fun f => { f with
      ir := 0x22, dbgDone := true, dbgErr := true, dbgData := 0 }) ∧
    (s.portFree → s.kn.sheep.regWait = none → legal → named (aa.setWidth 64) → exec (.dbgdrWriteAaddr aa) s = used fun f => { f with
      ir := 0x22, dbgWait := none, dbgDone := true, dbgErr := false, dbgData := 0, aslot := some (n.val, b.val, w) }) ∧
    (s.portFree → legal → named v → exec (.frzAaddr tag v) s =
      .next ((s.updFrz fun f => { f with aslot := some (n.val, b.val, w) }).answered tag)) ∧
    (s.portFree → ¬mode ∨ f.aslot ≠ none ∨ (named v ∧ (s.slice n).pwr ≠ .on) → exec (.frzAaddr tag v) s = .next (s.turnedAway 0x7C020 tag 8)) ∧
    (s.portFree → mode → f.aslot = none → 66 ≤ sl ∨ ((s.slice sl).pwr = .on ∧ (30 ≤ bk ∨ 8 * bankRows bk ≤ v.toNat % 2 ^ 15)) →
      exec (.frzAaddr tag v) s = .next (s.turnedAway 0x7C020 tag 9)) ∧
    (s.frozen = false → f.aslot = some (n.val, b.val, w) → (s.slice n).pwr = .on → (s.slice n).claimed s.sh = false → (s.slice n).claim = 0 →
      ∃ t, exec .debugArrayRead s = .next t ∧ t.ctl.frz.aslot = none ∧ t.ctl.frz.adata = word.data ∧
        t.ctl.frz.achk = word.chk ∧ t.ctl.frz.asyn = syndrome word at_ ∧ (t.slice n).mem = (s.slice n).mem) ∧
    (s.frozen = false → f.aslot = none → exec .debugArrayRead s = .next s) ∧
    (s.frozen = false → f.aslot = some (n.val, b.val, w) → (s.slice n).claimed s.sh = true ∨ 0 < (s.slice n).claim →
      exec .debugArrayRead s = .next s) ∧
    (f.st ≠ .reading → ∀ k, s.prfD k = 0 ∧ s.prfdr k = 0) ∧
    (f.st = .reading → f.rdPort = true → (∀ k, k < 16 → s.prfD k = BitVec.allOnes 64) ∧ s.prfD 16 = 0x50524F4600010008 ∧
      s.prfD 18 = BitVec.ofNat 64 s.sh.now) ∧
    (f.st = .reading → f.rdPort = false → s.prfdr 0 = 0x50524F4600010008) ∧
    s.capture 0x01 i = 0xB0512001 ∧ s.capture 0x20 i = (s.regRead .frzStat).setWidth 66 ∧ s.capture 0x21 i = (s.prfdr i).setWidth 66 ∧
    (s.capture 0x22 i).toNat = f.dbgData.toNat + (if f.dbgErr = true then 2 ^ 64 else 0) + (if f.dbgDone = true then 2 ^ 65 else 0) ∧
    (ir ≠ 0x01 → ir ≠ 0x20 → ir ≠ 0x21 → ir ≠ 0x22 → s.capture ir i = 0)
end

