-- ==== Sys2Proof/Laws/State.lean ====
section
/-! SUPPORT. What each update of the state changes, field by field: one lemma per field per update. -/

namespace Sys2Proof.Machine

/-! ### State.updSh -/

@[simp] theorem State.updSh_sh (s : State) (f : Shared → Shared) : (s.updSh f).sh = f s.sh := rfl
@[simp] theorem State.updSh_slices (s : State) (f : Shared → Shared) : (s.updSh f).slices = s.slices := rfl
@[simp] theorem State.updSh_link (s : State) (f : Shared → Shared) : (s.updSh f).link = s.link := rfl
@[simp] theorem State.updSh_kn (s : State) (f : Shared → Shared) : (s.updSh f).kn = s.kn := rfl
@[simp] theorem State.updSh_ctl (s : State) (f : Shared → Shared) : (s.updSh f).ctl = s.ctl := rfl
@[simp] theorem State.updSh_lock (s : State) (f : Shared → Shared) : (s.updSh f).lock = s.lock := rfl
@[simp] theorem State.updSh_pins (s : State) (f : Shared → Shared) : (s.updSh f).pins = s.pins := rfl
@[simp] theorem State.updSh_out (s : State) (f : Shared → Shared) : (s.updSh f).out = s.out := rfl
@[simp] theorem State.updSh_tokens (s : State) (f : Shared → Shared) : (s.updSh f).tokens = s.tokens := rfl
@[simp] theorem State.updSh_irq (s : State) (f : Shared → Shared) : (s.updSh f).irq = s.irq := rfl
@[simp] theorem State.updSh_pending (s : State) (f : Shared → Shared) : (s.updSh f).pending = s.pending := rfl
@[simp] theorem State.updSh_slice (s : State) (f : Shared → Shared) (n : Nat) : (s.updSh f).slice n = s.slice n := rfl

/-! ### State.updKn -/

@[simp] theorem State.updKn_sh (s : State) (f : Kennel → Kennel) : (s.updKn f).sh = s.sh := rfl
@[simp] theorem State.updKn_slices (s : State) (f : Kennel → Kennel) : (s.updKn f).slices = s.slices := rfl
@[simp] theorem State.updKn_link (s : State) (f : Kennel → Kennel) : (s.updKn f).link = s.link := rfl
@[simp] theorem State.updKn_kn (s : State) (f : Kennel → Kennel) : (s.updKn f).kn = f s.kn := rfl
@[simp] theorem State.updKn_ctl (s : State) (f : Kennel → Kennel) : (s.updKn f).ctl = s.ctl := rfl
@[simp] theorem State.updKn_lock (s : State) (f : Kennel → Kennel) : (s.updKn f).lock = s.lock := rfl
@[simp] theorem State.updKn_pins (s : State) (f : Kennel → Kennel) : (s.updKn f).pins = s.pins := rfl
@[simp] theorem State.updKn_out (s : State) (f : Kennel → Kennel) : (s.updKn f).out = s.out := rfl
@[simp] theorem State.updKn_tokens (s : State) (f : Kennel → Kennel) : (s.updKn f).tokens = s.tokens := rfl
@[simp] theorem State.updKn_irq (s : State) (f : Kennel → Kennel) : (s.updKn f).irq = s.irq := rfl
@[simp] theorem State.updKn_pending (s : State) (f : Kennel → Kennel) : (s.updKn f).pending = s.pending := rfl
@[simp] theorem State.updKn_slice (s : State) (f : Kennel → Kennel) (n : Nat) : (s.updKn f).slice n = s.slice n := rfl
@[simp] theorem State.updKn_frozen (s : State) (f : Kennel → Kennel) : (s.updKn f).frozen = s.frozen := rfl

/-! ### State.updSheep -/

@[simp] theorem State.updSheep_sh (s : State) (f : Sheep → Sheep) : (s.updSheep f).sh = s.sh := rfl
@[simp] theorem State.updSheep_slices (s : State) (f : Sheep → Sheep) : (s.updSheep f).slices = s.slices := rfl
@[simp] theorem State.updSheep_link (s : State) (f : Sheep → Sheep) : (s.updSheep f).link = s.link := rfl
@[simp] theorem State.updSheep_kn (s : State) (f : Sheep → Sheep) : (s.updSheep f).kn = { s.kn with sheep := f s.kn.sheep } := rfl
@[simp] theorem State.updSheep_ctl (s : State) (f : Sheep → Sheep) : (s.updSheep f).ctl = s.ctl := rfl
@[simp] theorem State.updSheep_lock (s : State) (f : Sheep → Sheep) : (s.updSheep f).lock = s.lock := rfl
@[simp] theorem State.updSheep_pins (s : State) (f : Sheep → Sheep) : (s.updSheep f).pins = s.pins := rfl
@[simp] theorem State.updSheep_out (s : State) (f : Sheep → Sheep) : (s.updSheep f).out = s.out := rfl
@[simp] theorem State.updSheep_tokens (s : State) (f : Sheep → Sheep) : (s.updSheep f).tokens = s.tokens := rfl
@[simp] theorem State.updSheep_irq (s : State) (f : Sheep → Sheep) : (s.updSheep f).irq = s.irq := rfl
@[simp] theorem State.updSheep_pending (s : State) (f : Sheep → Sheep) : (s.updSheep f).pending = s.pending := rfl
@[simp] theorem State.updSheep_slice (s : State) (f : Sheep → Sheep) (n : Nat) : (s.updSheep f).slice n = s.slice n := rfl
@[simp] theorem State.updSheep_frozen (s : State) (f : Sheep → Sheep) : (s.updSheep f).frozen = s.frozen := rfl

/-! ### State.updPlate -/

@[simp] theorem State.updPlate_sh (s : State) (f : PlateSt → PlateSt) : (s.updPlate f).sh = s.sh := rfl
@[simp] theorem State.updPlate_slices (s : State) (f : PlateSt → PlateSt) : (s.updPlate f).slices = s.slices := rfl
@[simp] theorem State.updPlate_link (s : State) (f : PlateSt → PlateSt) : (s.updPlate f).link = s.link := rfl
@[simp] theorem State.updPlate_kn (s : State) (f : PlateSt → PlateSt) : (s.updPlate f).kn = { s.kn with plate := f s.kn.plate } := rfl
@[simp] theorem State.updPlate_ctl (s : State) (f : PlateSt → PlateSt) : (s.updPlate f).ctl = s.ctl := rfl
@[simp] theorem State.updPlate_lock (s : State) (f : PlateSt → PlateSt) : (s.updPlate f).lock = s.lock := rfl
@[simp] theorem State.updPlate_pins (s : State) (f : PlateSt → PlateSt) : (s.updPlate f).pins = s.pins := rfl
@[simp] theorem State.updPlate_out (s : State) (f : PlateSt → PlateSt) : (s.updPlate f).out = s.out := rfl
@[simp] theorem State.updPlate_tokens (s : State) (f : PlateSt → PlateSt) : (s.updPlate f).tokens = s.tokens := rfl
@[simp] theorem State.updPlate_irq (s : State) (f : PlateSt → PlateSt) : (s.updPlate f).irq = s.irq := rfl
@[simp] theorem State.updPlate_pending (s : State) (f : PlateSt → PlateSt) : (s.updPlate f).pending = s.pending := rfl
@[simp] theorem State.updPlate_slice (s : State) (f : PlateSt → PlateSt) (n : Nat) : (s.updPlate f).slice n = s.slice n := rfl
@[simp] theorem State.updPlate_frozen (s : State) (f : PlateSt → PlateSt) : (s.updPlate f).frozen = s.frozen := rfl

/-! ### State.updCtl -/

@[simp] theorem State.updCtl_sh (s : State) (f : Control → Control) : (s.updCtl f).sh = s.sh := rfl
@[simp] theorem State.updCtl_slices (s : State) (f : Control → Control) : (s.updCtl f).slices = s.slices := rfl
@[simp] theorem State.updCtl_link (s : State) (f : Control → Control) : (s.updCtl f).link = s.link := rfl
@[simp] theorem State.updCtl_kn (s : State) (f : Control → Control) : (s.updCtl f).kn = s.kn := rfl
@[simp] theorem State.updCtl_ctl (s : State) (f : Control → Control) : (s.updCtl f).ctl = f s.ctl := rfl
@[simp] theorem State.updCtl_lock (s : State) (f : Control → Control) : (s.updCtl f).lock = s.lock := rfl
@[simp] theorem State.updCtl_pins (s : State) (f : Control → Control) : (s.updCtl f).pins = s.pins := rfl
@[simp] theorem State.updCtl_out (s : State) (f : Control → Control) : (s.updCtl f).out = s.out := rfl
@[simp] theorem State.updCtl_tokens (s : State) (f : Control → Control) : (s.updCtl f).tokens = s.tokens := rfl
@[simp] theorem State.updCtl_irq (s : State) (f : Control → Control) : (s.updCtl f).irq = s.irq := rfl
@[simp] theorem State.updCtl_pending (s : State) (f : Control → Control) : (s.updCtl f).pending = s.pending := rfl
@[simp] theorem State.updCtl_slice (s : State) (f : Control → Control) (n : Nat) : (s.updCtl f).slice n = s.slice n := rfl

/-! ### State.updMs -/

@[simp] theorem State.updMs_sh (s : State) (f : ModeSt → ModeSt) : (s.updMs f).sh = s.sh := rfl
@[simp] theorem State.updMs_slices (s : State) (f : ModeSt → ModeSt) : (s.updMs f).slices = s.slices := rfl
@[simp] theorem State.updMs_link (s : State) (f : ModeSt → ModeSt) : (s.updMs f).link = s.link := rfl
@[simp] theorem State.updMs_kn (s : State) (f : ModeSt → ModeSt) : (s.updMs f).kn = s.kn := rfl
@[simp] theorem State.updMs_ctl (s : State) (f : ModeSt → ModeSt) : (s.updMs f).ctl = { s.ctl with ms := f s.ctl.ms } := rfl
@[simp] theorem State.updMs_lock (s : State) (f : ModeSt → ModeSt) : (s.updMs f).lock = s.lock := rfl
@[simp] theorem State.updMs_pins (s : State) (f : ModeSt → ModeSt) : (s.updMs f).pins = s.pins := rfl
@[simp] theorem State.updMs_out (s : State) (f : ModeSt → ModeSt) : (s.updMs f).out = s.out := rfl
@[simp] theorem State.updMs_tokens (s : State) (f : ModeSt → ModeSt) : (s.updMs f).tokens = s.tokens := rfl
@[simp] theorem State.updMs_irq (s : State) (f : ModeSt → ModeSt) : (s.updMs f).irq = s.irq := rfl
@[simp] theorem State.updMs_pending (s : State) (f : ModeSt → ModeSt) : (s.updMs f).pending = s.pending := rfl
@[simp] theorem State.updMs_slice (s : State) (f : ModeSt → ModeSt) (n : Nat) : (s.updMs f).slice n = s.slice n := rfl
@[simp] theorem State.updMs_frozen (s : State) (f : ModeSt → ModeSt) : (s.updMs f).frozen = s.frozen := rfl

/-! ### State.updRcv -/

@[simp] theorem State.updRcv_sh (s : State) (f : Rcv → Rcv) : (s.updRcv f).sh = s.sh := rfl
@[simp] theorem State.updRcv_slices (s : State) (f : Rcv → Rcv) : (s.updRcv f).slices = s.slices := rfl
@[simp] theorem State.updRcv_link (s : State) (f : Rcv → Rcv) : (s.updRcv f).link = s.link := rfl
@[simp] theorem State.updRcv_kn (s : State) (f : Rcv → Rcv) : (s.updRcv f).kn = s.kn := rfl
@[simp] theorem State.updRcv_ctl (s : State) (f : Rcv → Rcv) : (s.updRcv f).ctl = { s.ctl with rcv := f s.ctl.rcv } := rfl
@[simp] theorem State.updRcv_lock (s : State) (f : Rcv → Rcv) : (s.updRcv f).lock = s.lock := rfl
@[simp] theorem State.updRcv_pins (s : State) (f : Rcv → Rcv) : (s.updRcv f).pins = s.pins := rfl
@[simp] theorem State.updRcv_out (s : State) (f : Rcv → Rcv) : (s.updRcv f).out = s.out := rfl
@[simp] theorem State.updRcv_tokens (s : State) (f : Rcv → Rcv) : (s.updRcv f).tokens = s.tokens := rfl
@[simp] theorem State.updRcv_irq (s : State) (f : Rcv → Rcv) : (s.updRcv f).irq = s.irq := rfl
@[simp] theorem State.updRcv_pending (s : State) (f : Rcv → Rcv) : (s.updRcv f).pending = s.pending := rfl
@[simp] theorem State.updRcv_slice (s : State) (f : Rcv → Rcv) (n : Nat) : (s.updRcv f).slice n = s.slice n := rfl
@[simp] theorem State.updRcv_frozen (s : State) (f : Rcv → Rcv) : (s.updRcv f).frozen = s.frozen := rfl

/-! ### State.updRp -/

@[simp] theorem State.updRp_sh (s : State) (f : RegPort → RegPort) : (s.updRp f).sh = s.sh := rfl
@[simp] theorem State.updRp_slices (s : State) (f : RegPort → RegPort) : (s.updRp f).slices = s.slices := rfl
@[simp] theorem State.updRp_link (s : State) (f : RegPort → RegPort) : (s.updRp f).link = s.link := rfl
@[simp] theorem State.updRp_kn (s : State) (f : RegPort → RegPort) : (s.updRp f).kn = s.kn := rfl
@[simp] theorem State.updRp_ctl (s : State) (f : RegPort → RegPort) : (s.updRp f).ctl = { s.ctl with rp := f s.ctl.rp } := rfl
@[simp] theorem State.updRp_lock (s : State) (f : RegPort → RegPort) : (s.updRp f).lock = s.lock := rfl
@[simp] theorem State.updRp_pins (s : State) (f : RegPort → RegPort) : (s.updRp f).pins = s.pins := rfl
@[simp] theorem State.updRp_out (s : State) (f : RegPort → RegPort) : (s.updRp f).out = s.out := rfl
@[simp] theorem State.updRp_tokens (s : State) (f : RegPort → RegPort) : (s.updRp f).tokens = s.tokens := rfl
@[simp] theorem State.updRp_irq (s : State) (f : RegPort → RegPort) : (s.updRp f).irq = s.irq := rfl
@[simp] theorem State.updRp_pending (s : State) (f : RegPort → RegPort) : (s.updRp f).pending = s.pending := rfl
@[simp] theorem State.updRp_slice (s : State) (f : RegPort → RegPort) (n : Nat) : (s.updRp f).slice n = s.slice n := rfl
@[simp] theorem State.updRp_frozen (s : State) (f : RegPort → RegPort) : (s.updRp f).frozen = s.frozen := rfl

/-! ### State.updLdg -/

@[simp] theorem State.updLdg_sh (s : State) (f : Ledger → Ledger) : (s.updLdg f).sh = s.sh := rfl
@[simp] theorem State.updLdg_slices (s : State) (f : Ledger → Ledger) : (s.updLdg f).slices = s.slices := rfl
@[simp] theorem State.updLdg_link (s : State) (f : Ledger → Ledger) : (s.updLdg f).link = s.link := rfl
@[simp] theorem State.updLdg_kn (s : State) (f : Ledger → Ledger) : (s.updLdg f).kn = s.kn := rfl
@[simp] theorem State.updLdg_ctl (s : State) (f : Ledger → Ledger) : (s.updLdg f).ctl = { s.ctl with ldg := f s.ctl.ldg } := rfl
@[simp] theorem State.updLdg_lock (s : State) (f : Ledger → Ledger) : (s.updLdg f).lock = s.lock := rfl
@[simp] theorem State.updLdg_pins (s : State) (f : Ledger → Ledger) : (s.updLdg f).pins = s.pins := rfl
@[simp] theorem State.updLdg_out (s : State) (f : Ledger → Ledger) : (s.updLdg f).out = s.out := rfl
@[simp] theorem State.updLdg_tokens (s : State) (f : Ledger → Ledger) : (s.updLdg f).tokens = s.tokens := rfl
@[simp] theorem State.updLdg_irq (s : State) (f : Ledger → Ledger) : (s.updLdg f).irq = s.irq := rfl
@[simp] theorem State.updLdg_pending (s : State) (f : Ledger → Ledger) : (s.updLdg f).pending = s.pending := rfl
@[simp] theorem State.updLdg_slice (s : State) (f : Ledger → Ledger) (n : Nat) : (s.updLdg f).slice n = s.slice n := rfl
@[simp] theorem State.updLdg_frozen (s : State) (f : Ledger → Ledger) : (s.updLdg f).frozen = s.frozen := rfl

/-! ### State.updBrk -/

@[simp] theorem State.updBrk_sh (s : State) (f : Bark → Bark) : (s.updBrk f).sh = s.sh := rfl
@[simp] theorem State.updBrk_slices (s : State) (f : Bark → Bark) : (s.updBrk f).slices = s.slices := rfl
@[simp] theorem State.updBrk_link (s : State) (f : Bark → Bark) : (s.updBrk f).link = s.link := rfl
@[simp] theorem State.updBrk_kn (s : State) (f : Bark → Bark) : (s.updBrk f).kn = s.kn := rfl
@[simp] theorem State.updBrk_ctl (s : State) (f : Bark → Bark) : (s.updBrk f).ctl = { s.ctl with brk := f s.ctl.brk } := rfl
@[simp] theorem State.updBrk_lock (s : State) (f : Bark → Bark) : (s.updBrk f).lock = s.lock := rfl
@[simp] theorem State.updBrk_pins (s : State) (f : Bark → Bark) : (s.updBrk f).pins = s.pins := rfl
@[simp] theorem State.updBrk_out (s : State) (f : Bark → Bark) : (s.updBrk f).out = s.out := rfl
@[simp] theorem State.updBrk_tokens (s : State) (f : Bark → Bark) : (s.updBrk f).tokens = s.tokens := rfl
@[simp] theorem State.updBrk_irq (s : State) (f : Bark → Bark) : (s.updBrk f).irq = s.irq := rfl
@[simp] theorem State.updBrk_pending (s : State) (f : Bark → Bark) : (s.updBrk f).pending = s.pending := rfl
@[simp] theorem State.updBrk_slice (s : State) (f : Bark → Bark) (n : Nat) : (s.updBrk f).slice n = s.slice n := rfl
@[simp] theorem State.updBrk_frozen (s : State) (f : Bark → Bark) : (s.updBrk f).frozen = s.frozen := rfl

/-! ### State.updBrn -/

@[simp] theorem State.updBrn_sh (s : State) (f : Burin → Burin) : (s.updBrn f).sh = s.sh := rfl
@[simp] theorem State.updBrn_slices (s : State) (f : Burin → Burin) : (s.updBrn f).slices = s.slices := rfl
@[simp] theorem State.updBrn_link (s : State) (f : Burin → Burin) : (s.updBrn f).link = s.link := rfl
@[simp] theorem State.updBrn_kn (s : State) (f : Burin → Burin) : (s.updBrn f).kn = s.kn := rfl
@[simp] theorem State.updBrn_ctl (s : State) (f : Burin → Burin) : (s.updBrn f).ctl = { s.ctl with brn := f s.ctl.brn } := rfl
@[simp] theorem State.updBrn_lock (s : State) (f : Burin → Burin) : (s.updBrn f).lock = s.lock := rfl
@[simp] theorem State.updBrn_pins (s : State) (f : Burin → Burin) : (s.updBrn f).pins = s.pins := rfl
@[simp] theorem State.updBrn_out (s : State) (f : Burin → Burin) : (s.updBrn f).out = s.out := rfl
@[simp] theorem State.updBrn_tokens (s : State) (f : Burin → Burin) : (s.updBrn f).tokens = s.tokens := rfl
@[simp] theorem State.updBrn_irq (s : State) (f : Burin → Burin) : (s.updBrn f).irq = s.irq := rfl
@[simp] theorem State.updBrn_pending (s : State) (f : Burin → Burin) : (s.updBrn f).pending = s.pending := rfl
@[simp] theorem State.updBrn_slice (s : State) (f : Burin → Burin) (n : Nat) : (s.updBrn f).slice n = s.slice n := rfl
@[simp] theorem State.updBrn_frozen (s : State) (f : Burin → Burin) : (s.updBrn f).frozen = s.frozen := rfl

/-! ### State.updFrz -/

@[simp] theorem State.updFrz_sh (s : State) (f : Frz → Frz) : (s.updFrz f).sh = s.sh := rfl
@[simp] theorem State.updFrz_slices (s : State) (f : Frz → Frz) : (s.updFrz f).slices = s.slices := rfl
@[simp] theorem State.updFrz_link (s : State) (f : Frz → Frz) : (s.updFrz f).link = s.link := rfl
@[simp] theorem State.updFrz_kn (s : State) (f : Frz → Frz) : (s.updFrz f).kn = s.kn := rfl
@[simp] theorem State.updFrz_ctl (s : State) (f : Frz → Frz) : (s.updFrz f).ctl = { s.ctl with frz := f s.ctl.frz } := rfl
@[simp] theorem State.updFrz_lock (s : State) (f : Frz → Frz) : (s.updFrz f).lock = s.lock := rfl
@[simp] theorem State.updFrz_pins (s : State) (f : Frz → Frz) : (s.updFrz f).pins = s.pins := rfl
@[simp] theorem State.updFrz_out (s : State) (f : Frz → Frz) : (s.updFrz f).out = s.out := rfl
@[simp] theorem State.updFrz_tokens (s : State) (f : Frz → Frz) : (s.updFrz f).tokens = s.tokens := rfl
@[simp] theorem State.updFrz_irq (s : State) (f : Frz → Frz) : (s.updFrz f).irq = s.irq := rfl
@[simp] theorem State.updFrz_pending (s : State) (f : Frz → Frz) : (s.updFrz f).pending = s.pending := rfl
@[simp] theorem State.updFrz_slice (s : State) (f : Frz → Frz) (n : Nat) : (s.updFrz f).slice n = s.slice n := rfl

/-! ### State.updPins -/

@[simp] theorem State.updPins_sh (s : State) (f : Pins → Pins) : (s.updPins f).sh = s.sh := rfl
@[simp] theorem State.updPins_slices (s : State) (f : Pins → Pins) : (s.updPins f).slices = s.slices := rfl
@[simp] theorem State.updPins_link (s : State) (f : Pins → Pins) : (s.updPins f).link = s.link := rfl
@[simp] theorem State.updPins_kn (s : State) (f : Pins → Pins) : (s.updPins f).kn = s.kn := rfl
@[simp] theorem State.updPins_ctl (s : State) (f : Pins → Pins) : (s.updPins f).ctl = s.ctl := rfl
@[simp] theorem State.updPins_lock (s : State) (f : Pins → Pins) : (s.updPins f).lock = s.lock := rfl
@[simp] theorem State.updPins_pins (s : State) (f : Pins → Pins) : (s.updPins f).pins = f s.pins := rfl
@[simp] theorem State.updPins_out (s : State) (f : Pins → Pins) : (s.updPins f).out = s.out := rfl
@[simp] theorem State.updPins_tokens (s : State) (f : Pins → Pins) : (s.updPins f).tokens = s.tokens := rfl
@[simp] theorem State.updPins_irq (s : State) (f : Pins → Pins) : (s.updPins f).irq = s.irq := rfl
@[simp] theorem State.updPins_pending (s : State) (f : Pins → Pins) : (s.updPins f).pending = s.pending := rfl
@[simp] theorem State.updPins_slice (s : State) (f : Pins → Pins) (n : Nat) : (s.updPins f).slice n = s.slice n := rfl
@[simp] theorem State.updPins_frozen (s : State) (f : Pins → Pins) : (s.updPins f).frozen = s.frozen := rfl

/-! ### State.updLink -/

@[simp] theorem State.updLink_sh (s : State) (f : List Link → List Link) : (s.updLink f).sh = s.sh := rfl
@[simp] theorem State.updLink_slices (s : State) (f : List Link → List Link) : (s.updLink f).slices = s.slices := rfl
@[simp] theorem State.updLink_link (s : State) (f : List Link → List Link) : (s.updLink f).link = f s.link := rfl
@[simp] theorem State.updLink_kn (s : State) (f : List Link → List Link) : (s.updLink f).kn = s.kn := rfl
@[simp] theorem State.updLink_ctl (s : State) (f : List Link → List Link) : (s.updLink f).ctl = s.ctl := rfl
@[simp] theorem State.updLink_lock (s : State) (f : List Link → List Link) : (s.updLink f).lock = s.lock := rfl
@[simp] theorem State.updLink_pins (s : State) (f : List Link → List Link) : (s.updLink f).pins = s.pins := rfl
@[simp] theorem State.updLink_out (s : State) (f : List Link → List Link) : (s.updLink f).out = s.out := rfl
@[simp] theorem State.updLink_tokens (s : State) (f : List Link → List Link) : (s.updLink f).tokens = s.tokens := rfl
@[simp] theorem State.updLink_irq (s : State) (f : List Link → List Link) : (s.updLink f).irq = s.irq := rfl
@[simp] theorem State.updLink_pending (s : State) (f : List Link → List Link) : (s.updLink f).pending = s.pending := rfl
@[simp] theorem State.updLink_slice (s : State) (f : List Link → List Link) (n : Nat) : (s.updLink f).slice n = s.slice n := rfl
@[simp] theorem State.updLink_frozen (s : State) (f : List Link → List Link) : (s.updLink f).frozen = s.frozen := rfl

/-! ### State.updOut -/

@[simp] theorem State.updOut_sh (s : State) (f : List Msg → List Msg) : (s.updOut f).sh = s.sh := rfl
@[simp] theorem State.updOut_slices (s : State) (f : List Msg → List Msg) : (s.updOut f).slices = s.slices := rfl
@[simp] theorem State.updOut_link (s : State) (f : List Msg → List Msg) : (s.updOut f).link = s.link := rfl
@[simp] theorem State.updOut_kn (s : State) (f : List Msg → List Msg) : (s.updOut f).kn = s.kn := rfl
@[simp] theorem State.updOut_ctl (s : State) (f : List Msg → List Msg) : (s.updOut f).ctl = s.ctl := rfl
@[simp] theorem State.updOut_lock (s : State) (f : List Msg → List Msg) : (s.updOut f).lock = s.lock := rfl
@[simp] theorem State.updOut_pins (s : State) (f : List Msg → List Msg) : (s.updOut f).pins = s.pins := rfl
@[simp] theorem State.updOut_out (s : State) (f : List Msg → List Msg) : (s.updOut f).out = f s.out := rfl
@[simp] theorem State.updOut_tokens (s : State) (f : List Msg → List Msg) : (s.updOut f).tokens = s.tokens := rfl
@[simp] theorem State.updOut_irq (s : State) (f : List Msg → List Msg) : (s.updOut f).irq = s.irq := rfl
@[simp] theorem State.updOut_pending (s : State) (f : List Msg → List Msg) : (s.updOut f).pending = s.pending := rfl
@[simp] theorem State.updOut_slice (s : State) (f : List Msg → List Msg) (n : Nat) : (s.updOut f).slice n = s.slice n := rfl
@[simp] theorem State.updOut_frozen (s : State) (f : List Msg → List Msg) : (s.updOut f).frozen = s.frozen := rfl

/-! ### State.updTokens -/

@[simp] theorem State.updTokens_sh (s : State) (f : List Token → List Token) : (s.updTokens f).sh = s.sh := rfl
@[simp] theorem State.updTokens_slices (s : State) (f : List Token → List Token) : (s.updTokens f).slices = s.slices := rfl
@[simp] theorem State.updTokens_link (s : State) (f : List Token → List Token) : (s.updTokens f).link = s.link := rfl
@[simp] theorem State.updTokens_kn (s : State) (f : List Token → List Token) : (s.updTokens f).kn = s.kn := rfl
@[simp] theorem State.updTokens_ctl (s : State) (f : List Token → List Token) : (s.updTokens f).ctl = s.ctl := rfl
@[simp] theorem State.updTokens_lock (s : State) (f : List Token → List Token) : (s.updTokens f).lock = s.lock := rfl
@[simp] theorem State.updTokens_pins (s : State) (f : List Token → List Token) : (s.updTokens f).pins = s.pins := rfl
@[simp] theorem State.updTokens_out (s : State) (f : List Token → List Token) : (s.updTokens f).out = s.out := rfl
@[simp] theorem State.updTokens_tokens (s : State) (f : List Token → List Token) : (s.updTokens f).tokens = f s.tokens := rfl
@[simp] theorem State.updTokens_irq (s : State) (f : List Token → List Token) : (s.updTokens f).irq = s.irq := rfl
@[simp] theorem State.updTokens_pending (s : State) (f : List Token → List Token) : (s.updTokens f).pending = s.pending := rfl
@[simp] theorem State.updTokens_slice (s : State) (f : List Token → List Token) (n : Nat) : (s.updTokens f).slice n = s.slice n := rfl
@[simp] theorem State.updTokens_frozen (s : State) (f : List Token → List Token) : (s.updTokens f).frozen = s.frozen := rfl

/-! ### State.updIrq -/

@[simp] theorem State.updIrq_sh (s : State) (f : List IMsg → List IMsg) : (s.updIrq f).sh = s.sh := rfl
@[simp] theorem State.updIrq_slices (s : State) (f : List IMsg → List IMsg) : (s.updIrq f).slices = s.slices := rfl
@[simp] theorem State.updIrq_link (s : State) (f : List IMsg → List IMsg) : (s.updIrq f).link = s.link := rfl
@[simp] theorem State.updIrq_kn (s : State) (f : List IMsg → List IMsg) : (s.updIrq f).kn = s.kn := rfl
@[simp] theorem State.updIrq_ctl (s : State) (f : List IMsg → List IMsg) : (s.updIrq f).ctl = s.ctl := rfl
@[simp] theorem State.updIrq_lock (s : State) (f : List IMsg → List IMsg) : (s.updIrq f).lock = s.lock := rfl
@[simp] theorem State.updIrq_pins (s : State) (f : List IMsg → List IMsg) : (s.updIrq f).pins = s.pins := rfl
@[simp] theorem State.updIrq_out (s : State) (f : List IMsg → List IMsg) : (s.updIrq f).out = s.out := rfl
@[simp] theorem State.updIrq_tokens (s : State) (f : List IMsg → List IMsg) : (s.updIrq f).tokens = s.tokens := rfl
@[simp] theorem State.updIrq_irq (s : State) (f : List IMsg → List IMsg) : (s.updIrq f).irq = f s.irq := rfl
@[simp] theorem State.updIrq_pending (s : State) (f : List IMsg → List IMsg) : (s.updIrq f).pending = s.pending := rfl
@[simp] theorem State.updIrq_slice (s : State) (f : List IMsg → List IMsg) (n : Nat) : (s.updIrq f).slice n = s.slice n := rfl
@[simp] theorem State.updIrq_frozen (s : State) (f : List IMsg → List IMsg) : (s.updIrq f).frozen = s.frozen := rfl

/-! ### State.updSlice -/

@[simp] theorem State.updSlice_sh (s : State) (n : Nat) (f : Slice → Slice) : (s.updSlice n f).sh = s.sh := by
  unfold State.updSlice; split <;> rfl
@[simp] theorem State.updSlice_link (s : State) (n : Nat) (f : Slice → Slice) : (s.updSlice n f).link = s.link := by
  unfold State.updSlice; split <;> rfl
@[simp] theorem State.updSlice_kn (s : State) (n : Nat) (f : Slice → Slice) : (s.updSlice n f).kn = s.kn := by
  unfold State.updSlice; split <;> rfl
@[simp] theorem State.updSlice_ctl (s : State) (n : Nat) (f : Slice → Slice) : (s.updSlice n f).ctl = s.ctl := by
  unfold State.updSlice; split <;> rfl
@[simp] theorem State.updSlice_lock (s : State) (n : Nat) (f : Slice → Slice) : (s.updSlice n f).lock = s.lock := by
  unfold State.updSlice; split <;> rfl
@[simp] theorem State.updSlice_pins (s : State) (n : Nat) (f : Slice → Slice) : (s.updSlice n f).pins = s.pins := by
  unfold State.updSlice; split <;> rfl
@[simp] theorem State.updSlice_out (s : State) (n : Nat) (f : Slice → Slice) : (s.updSlice n f).out = s.out := by
  unfold State.updSlice; split <;> rfl
@[simp] theorem State.updSlice_tokens (s : State) (n : Nat) (f : Slice → Slice) : (s.updSlice n f).tokens = s.tokens := by
  unfold State.updSlice; split <;> rfl
@[simp] theorem State.updSlice_irq (s : State) (n : Nat) (f : Slice → Slice) : (s.updSlice n f).irq = s.irq := by
  unfold State.updSlice; split <;> rfl
@[simp] theorem State.updSlice_pending (s : State) (n : Nat) (f : Slice → Slice) : (s.updSlice n f).pending = s.pending := by
  unfold State.updSlice; split <;> rfl
@[simp] theorem State.updSlice_frozen (s : State) (n : Nat) (f : Slice → Slice) : (s.updSlice n f).frozen = s.frozen := by
  unfold State.frozen; simp

/-- A slice after an update of a slice. -/
theorem State.updSlice_slice (s : State) (n m : Nat) (f : Slice → Slice) :
    (s.updSlice n f).slice m = if n = m ∧ n < 66 then f (s.slice n) else s.slice m := by
  unfold State.updSlice State.slice
  by_cases hn : n < 66
  · by_cases hm : m < 66
    · by_cases h : n = m
      · subst h; simp [hn]
      · simp [hn, hm, h, Vector.getElem_set_ne]
    · have : n ≠ m := by omega
      simp [hn, hm, this]
  · simp [hn]

/-- The slice updated. -/
@[simp] theorem State.updSlice_slice_same (s : State) (n : Fin 66) (f : Slice → Slice) :
    (s.updSlice n f).slice n = f (s.slice n) := by
  rw [State.updSlice_slice]; simp

/-- Another slice. -/
theorem State.updSlice_slice_ne (s : State) {n m : Nat} (h : n ≠ m) (f : Slice → Slice) :
    (s.updSlice n f).slice m = s.slice m := by
  rw [State.updSlice_slice]; simp [h]

/-! ### Every slice changed -/


@[simp] theorem State.mapSlices_sh (s : State) (f : Nat → Slice → Slice) : (s.mapSlices f).sh = s.sh := by
  unfold State.mapSlices
  generalize List.range 66 = l
  induction l generalizing s with
  | nil => rfl
  | cons n l ih => simp [List.foldl_cons, ih]
@[simp] theorem State.mapSlices_link (s : State) (f : Nat → Slice → Slice) : (s.mapSlices f).link = s.link := by
  unfold State.mapSlices
  generalize List.range 66 = l
  induction l generalizing s with
  | nil => rfl
  | cons n l ih => simp [List.foldl_cons, ih]
@[simp] theorem State.mapSlices_kn (s : State) (f : Nat → Slice → Slice) : (s.mapSlices f).kn = s.kn := by
  unfold State.mapSlices
  generalize List.range 66 = l
  induction l generalizing s with
  | nil => rfl
  | cons n l ih => simp [List.foldl_cons, ih]
@[simp] theorem State.mapSlices_ctl (s : State) (f : Nat → Slice → Slice) : (s.mapSlices f).ctl = s.ctl := by
  unfold State.mapSlices
  generalize List.range 66 = l
  induction l generalizing s with
  | nil => rfl
  | cons n l ih => simp [List.foldl_cons, ih]
@[simp] theorem State.mapSlices_lock (s : State) (f : Nat → Slice → Slice) : (s.mapSlices f).lock = s.lock := by
  unfold State.mapSlices
  generalize List.range 66 = l
  induction l generalizing s with
  | nil => rfl
  | cons n l ih => simp [List.foldl_cons, ih]
@[simp] theorem State.mapSlices_pins (s : State) (f : Nat → Slice → Slice) : (s.mapSlices f).pins = s.pins := by
  unfold State.mapSlices
  generalize List.range 66 = l
  induction l generalizing s with
  | nil => rfl
  | cons n l ih => simp [List.foldl_cons, ih]
@[simp] theorem State.mapSlices_out (s : State) (f : Nat → Slice → Slice) : (s.mapSlices f).out = s.out := by
  unfold State.mapSlices
  generalize List.range 66 = l
  induction l generalizing s with
  | nil => rfl
  | cons n l ih => simp [List.foldl_cons, ih]
@[simp] theorem State.mapSlices_tokens (s : State) (f : Nat → Slice → Slice) : (s.mapSlices f).tokens = s.tokens := by
  unfold State.mapSlices
  generalize List.range 66 = l
  induction l generalizing s with
  | nil => rfl
  | cons n l ih => simp [List.foldl_cons, ih]
@[simp] theorem State.mapSlices_irq (s : State) (f : Nat → Slice → Slice) : (s.mapSlices f).irq = s.irq := by
  unfold State.mapSlices
  generalize List.range 66 = l
  induction l generalizing s with
  | nil => rfl
  | cons n l ih => simp [List.foldl_cons, ih]
@[simp] theorem State.mapSlices_pending (s : State) (f : Nat → Slice → Slice) : (s.mapSlices f).pending = s.pending := by
  unfold State.mapSlices
  generalize List.range 66 = l
  induction l generalizing s with
  | nil => rfl
  | cons n l ih => simp [List.foldl_cons, ih]

/-- A slice after a change of every slice. -/
theorem State.mapSlices_slice (s : State) (f : Nat → Slice → Slice) (m : Nat) :
    (s.mapSlices f).slice m = if m < 66 then f m (s.slice m) else s.slice m := by
  have go : ∀ (l : List Nat), l.Nodup → ∀ s : State,
      (l.foldl (fun s n => s.updSlice n (f n)) s).slice m = if m ∈ l ∧ m < 66 then f m (s.slice m) else s.slice m := by
    intro l
    induction l with
    | nil => intro _ s; simp
    | cons n l ih =>
      intro hl s
      rw [List.foldl_cons, ih (List.nodup_cons.mp hl).2, State.updSlice_slice]
      have hn := (List.nodup_cons.mp hl).1
      by_cases h : n = m
      · subst h; simp [hn]
      · simp [h, Ne.symm h]
  unfold State.mapSlices
  rw [go _ List.nodup_range]
  simp [List.mem_range]


end Sys2Proof.Machine
end

