-- ==== Sys2Proof/Laws/Deep.lean ====
section
/-! SUPPORT. What hardly any operation touches: the queue of commands, the thermal-trip pin, GLB_LOCK, register g[0] of the Sheepdog
and how many accesses are outstanding at the register port. One lemma per shared operation says that it leaves all of these alone. -/

namespace Sys2Proof.Machine

/-- The queue, the thermal-trip pin, GLB_LOCK, g[0], and the number of accesses outstanding at the register port. -/
def State.deep (s : State) : List Instr × Bool × LockReg × BitVec 32 × Nat :=
  (s.pending, s.pins.thermTrip, s.lock, s.kn.sheep.g[0], s.ctl.rp.outstanding)

/-! ### The updates -/

@[simp] theorem State.deep_updSh (s : State) (f : Shared → Shared) : (s.updSh f).deep = s.deep := by cases s; rfl
@[simp] theorem State.deep_updPlate (s : State) (f : PlateSt → PlateSt) : (s.updPlate f).deep = s.deep := by cases s; rfl
@[simp] theorem State.deep_updMs (s : State) (f : ModeSt → ModeSt) : (s.updMs f).deep = s.deep := by cases s; rfl
@[simp] theorem State.deep_updRcv (s : State) (f : Rcv → Rcv) : (s.updRcv f).deep = s.deep := by cases s; rfl
@[simp] theorem State.deep_updLdg (s : State) (f : Ledger → Ledger) : (s.updLdg f).deep = s.deep := by cases s; rfl
@[simp] theorem State.deep_updBrk (s : State) (f : Bark → Bark) : (s.updBrk f).deep = s.deep := by cases s; rfl
@[simp] theorem State.deep_updBrn (s : State) (f : Burin → Burin) : (s.updBrn f).deep = s.deep := by cases s; rfl
@[simp] theorem State.deep_updFrz (s : State) (f : Frz → Frz) : (s.updFrz f).deep = s.deep := by cases s; rfl
@[simp] theorem State.deep_updSlice (s : State) (n : Nat) (f : Slice → Slice) : (s.updSlice n f).deep = s.deep := by
  simp [State.deep]
@[simp] theorem State.deep_mapSlices (s : State) (f : Nat → Slice → Slice) : (s.mapSlices f).deep = s.deep := by
  simp [State.deep]
@[simp] theorem State.deep_updLink (s : State) (f : List Link → List Link) : (s.updLink f).deep = s.deep := by cases s; rfl
@[simp] theorem State.deep_updOut (s : State) (f : List Msg → List Msg) : (s.updOut f).deep = s.deep := by cases s; rfl
@[simp] theorem State.deep_updTokens (s : State) (f : List Token → List Token) : (s.updTokens f).deep = s.deep := by cases s; rfl
@[simp] theorem State.deep_updIrq (s : State) (f : List IMsg → List IMsg) : (s.updIrq f).deep = s.deep := by cases s; rfl
/-- A change of the pins that leaves the thermal-trip pin alone. -/
@[simp] theorem State.deep_updPins (s : State) (f : Pins → Pins) (h : (f s.pins).thermTrip = s.pins.thermTrip) :
    (s.updPins f).deep = s.deep := by
  simp [State.deep, h]

/-- A change of the Kennel that leaves the Sheepdog alone. -/
@[simp] theorem State.deep_updKn (s : State) (f : Kennel → Kennel) (h : (f s.kn).sheep = s.kn.sheep) :
    (s.updKn f).deep = s.deep := by
  simp [State.deep, h]

/-- A change of the Sheepdog that leaves g[0] alone. -/
@[simp] theorem State.deep_updSheep (s : State) (f : Sheep → Sheep) (h : (f s.kn.sheep).g[0] = s.kn.sheep.g[0]) :
    (s.updSheep f).deep = s.deep := by
  simp [State.deep, h]

/-- A change of the control island that leaves the accesses of the register port alone. -/
@[simp] theorem State.deep_updCtl (s : State) (f : Control → Control) (h : (f s.ctl).rp.outstanding = s.ctl.rp.outstanding) :
    (s.updCtl f).deep = s.deep := by
  simp [State.deep, h]

/-- What every step of a fold leaves alone, the fold leaves alone. -/
@[simp] theorem State.deep_foldl {α : Type} (f : State → α → State) (h : ∀ s x, (f s x).deep = s.deep) (l : List α) (s : State) :
    (l.foldl f s).deep = s.deep := by
  induction l generalizing s with
  | nil => rfl
  | cons x l ih => rw [List.foldl_cons, ih, h]

/-- Either way. -/
theorem State.deep_ite {c : Prop} [Decidable c] {a b : State} {d : List Instr × Bool × LockReg × BitVec 32 × Nat}
    (ha : a.deep = d) (hb : b.deep = d) : (if c then a else b).deep = d := by
  split
  · exact ha
  · exact hb

/-- The same for simp. -/
@[simp] theorem State.deep_ite_eq {c : Prop} [Decidable c] (a b : State) : (if c then a else b).deep = if c then a.deep else b.deep :=
  apply_ite State.deep c a b

/-- A command is refused, or ends in a state of which `d` holds what it held. -/
def CmdRes.Ends (d : List Instr × Bool × LockReg × BitVec 32 × Nat) : CmdRes → Prop
  | .ok t => t.deep = d
  | .error _ => True
@[simp] theorem CmdRes.ends_ok (d) (t : State) : CmdRes.Ends d (.ok t) ↔ t.deep = d := Iff.rfl
@[simp] theorem CmdRes.ends_error (d) (c : Nat) : CmdRes.Ends d (.error c) ↔ True := Iff.rfl
theorem CmdRes.Ends.ok {d} {r : CmdRes} {t : State} (h : CmdRes.Ends d r) (e : r = .ok t) : t.deep = d := by
  subst e; exact h

/-! ### The Kennel's own operations leave the Sheepdog alone -/

@[simp] theorem Kennel.pump_sheep (k : Kennel) (now : Nat) : (k.pump now).sheep = k.sheep := by
  unfold Kennel.pump
  dsimp only
  split
  · rfl
  · split
    · rfl
    · split
      · split <;> rfl
      · split <;> rfl
@[simp] theorem Kennel.enqueue_sheep (k : Kennel) (now : Nat) (r : KRec) : (k.enqueue now r).sheep = k.sheep := by
  unfold Kennel.enqueue
  simp only [Kennel.pump_sheep]
  repeat' split
  all_goals rfl

/-! ### Events -/

@[simp] theorem State.deep_brkRaise (s : State) (src : Nat) : (s.brkRaise src).deep = s.deep := by simp [State.brkRaise]
@[simp] theorem State.deep_ledgerLost (s : State) (u : Nat) : (s.ledgerLost u).deep = s.deep := by
  unfold State.ledgerLost
  dsimp only
  split <;> simp
@[simp] theorem State.deep_bark (s : State) (src : Nat) : (s.bark src).deep = s.deep := by
  unfold State.bark
  repeat' split
  · simp
  · exact State.deep_updKn _ _ rfl
  · exact State.deep_updKn _ _ rfl
@[simp] theorem State.deep_ledgerRecs (s : State) (u : Nat) (rs : List LRec) : (s.ledgerRecs u rs).deep = s.deep := by
  unfold State.ledgerRecs
  dsimp only
  repeat' split
  · simp
  · simp
  · exact State.deep_updKn _ _ rfl
  · simp
  · simp
@[simp] theorem State.deep_ledgerEv (s : State) (u typ sub : Nat) (data : List Word) : (s.ledgerEv u typ sub data).deep = s.deep :=
  State.deep_ledgerRecs _ _ _
@[simp] theorem State.deep_knlEvent (s : State) (typ sub : Nat) (data : List Word) (src : Nat) :
    (s.knlEvent typ sub data src).deep = s.deep := by
  unfold State.knlEvent
  repeat' split
  · simp
  · simp
  · exact State.deep_updKn _ _ rfl
@[simp] theorem State.deep_kst (s : State) (typ : Nat) (data : List Word) : (s.kst typ data).deep = s.deep :=
  State.deep_updKn _ _ (by simp)
@[simp] theorem State.deep_sendBy (s : State) (i : Nat) (route : Word) (m : Msg) : (s.sendBy i route m).deep = s.deep := by
  unfold State.sendBy
  dsimp only
  repeat' split
  · simp
  · rw [State.deep_updKn]
    · simp
    · rfl
  · rw [State.deep_updCtl _ _ rfl]
    simp
@[simp] theorem State.deep_send (s : State) (i : Nat) (m : Msg) : (s.send i m).deep = s.deep := by
  unfold State.send
  split <;> simp
@[simp] theorem State.deep_token (s : State) (c : Bool) (a b : Nat) (k : BitVec 8) : (s.token c a b k).deep = s.deep := by
  unfold State.token
  split <;> simp
@[simp] theorem State.deep_withdraw (s : State) (n : Nat) (m : Msg) : (s.withdraw n m).deep = s.deep := by simp [State.withdraw]
@[simp] theorem State.deep_applyNet (n : Nat) (s : State) (e : Eff) : (State.applyNet n s e).deep = s.deep := by
  unfold State.applyNet
  split <;> simp
@[simp] theorem State.deep_onFailing (s : State) (n : Nat) (f : Work → Work) : (s.onFailing n f).deep = s.deep := by
  unfold State.onFailing
  dsimp only
  rw [State.deep_foldl _ (fun s e => State.deep_applyNet n s e)]
  simp
@[simp] theorem State.deep_startSubst (s : State) (n : Nat) : (s.startSubst n).deep = s.deep := by
  unfold State.startSubst
  dsimp only
  split
  · simp only [State.deep_updRcv, State.deep_updMs, State.deep_updSh, State.deep_updSlice]
    exact State.deep_ite (by simp) (by simp)
  · simp only [State.deep_kst, State.deep_bark, State.deep_ledgerEv, State.deep_updSlice, State.deep_onFailing]
@[simp] theorem State.deep_enter (s : State) (m p : Mode) : (s.enter m p).deep = s.deep := by simp [State.enter]
@[simp] theorem Kennel.clearScent_sheep (k : Kennel) : k.clearScent.sheep = k.sheep := rfl
@[simp] theorem State.deep_clearScent (s : State) : (s.updKn Kennel.clearScent).deep = s.deep := State.deep_updKn _ _ rfl
@[simp] theorem State.deep_failSlice (s : State) (n : Nat) : (s.failSlice n).deep = s.deep := by
  unfold State.failSlice
  dsimp only
  split
  · rfl
  · split
    · simp
    · refine State.deep_ite (State.deep_updCtl _ _ rfl) (State.deep_ite ?_ (by simp))
      rw [State.deep_startSubst]
      exact State.deep_ite (by simp) (by simp)
@[simp] theorem State.deep_declareDead (s : State) (n a cmd : Nat) : (s.declareDead n a cmd).deep = s.deep := by
  unfold State.declareDead
  dsimp only
  repeat' split
  · rfl
  · simp
  · rw [State.deep_updCtl _ _ rfl]
    simp

/-! ### Slice operations lifted to the state -/

/-- An effect of a slice leaves all of these alone. -/
@[simp] theorem State.deep_applyEff (n : Nat) (s : State) (e : Eff) : (State.applyEff n s e).deep = s.deep := by
  cases e with
  | overlay b r sp => exact State.deep_updKn _ _ rfl
  | _ => simp [State.applyEff]
/-- An operation of a slice leaves all of these alone. -/
@[simp] theorem State.deep_onSlice (s : State) (n : Nat) (f : Work → Work) : (s.onSlice n f).deep = s.deep := by
  unfold State.onSlice
  dsimp only
  rw [State.deep_foldl _ (fun s e => State.deep_applyEff n s e)]
  simp
@[simp] theorem State.deep_onAll (s : State) (f : Work → Work) : (s.onAll f).deep = s.deep :=
  State.deep_foldl _ (fun s n => State.deep_onSlice s n f) _ _
/-- An operation that slice `n` takes now or later. -/
@[simp] theorem State.deep_whenReady (s : State) (n : Nat) (o : LateOp) (f : Work → Work) : (s.whenReady n o f).deep = s.deep := by
  unfold State.whenReady
  split <;> simp
@[simp] theorem State.deep_drainAt (s : State) (p n : Nat) : (s.drainAt p n).deep = s.deep := State.deep_onSlice _ _ _
@[simp] theorem State.deep_drainBarriers (s : State) (p : Nat) : (s.drainBarriers p).deep = s.deep := by
  unfold State.drainBarriers
  dsimp only
  rw [State.deep_updLink, State.deep_foldl _ (fun s n => State.deep_whenReady s n _ _)]
  split <;> simp
/-- What a frozen block does not do, it does not change. -/
@[simp] theorem State.deep_unlessFrozen (s : State) (f : State → State) (h : (f s).deep = s.deep) : (s.unlessFrozen f).deep = s.deep := by
  unfold State.unlessFrozen
  split
  · rfl
  · exact h

end Sys2Proof.Machine
end

