-- ==== Sys2Proof/Laws/DeepEngines.lean ====
section
/-! SUPPORT. The Ledger's, the Bark unit's and the Burin engine's operations leave the queue, the thermal-trip pin, GLB_LOCK, g[0] and the
register port alone. -/

namespace Sys2Proof.Machine

@[simp] theorem State.deep_ldgLevel (s : State) (b : Nat) : (s.ldgLevel b).deep = s.deep := by
  simp [State.ldgLevel]
theorem State.deep_ldgMove1 {s t : State} (h : s.ldgMove1 = some t) : t.deep = s.deep := by
  unfold State.ldgMove1 at h
  dsimp only at h
  repeat' split at h
  all_goals first
    | (cases h; simp)
    | cases h
theorem State.deep_ldgRead1 {s t : State} (h : s.ldgRead1 = some t) : t.deep = s.deep := by
  unfold State.ldgRead1 at h
  dsimp only at h
  repeat' split at h
  all_goals first
    | (cases h; simp)
    | cases h
@[simp] theorem State.deep_ldgPump (s : State) : s.ldgPump.deep = s.deep := by
  unfold State.ldgPump
  dsimp only
  rw [State.deep_ldgLevel, State.deep_foldl]
  intro s _
  split
  · rename_i h
    rw [State.deep_ldgRead1 h]
    split
    · rename_i h
      rw [State.deep_ldgMove1 h]
      simp
    · simp
  · split
    · rename_i h
      rw [State.deep_ldgMove1 h]
      simp
    · simp
@[simp] theorem State.deep_ldgClose (s : State) : s.ldgClose.deep = s.deep := by simp [State.ldgClose]
@[simp] theorem State.deep_ldgFit (s : State) (n : Nat) : (s.ldgFit n).deep = s.deep := by simp [State.ldgFit]
@[simp] theorem State.deep_ldgPlace (l : List (List Word)) (s : State) : (s.ldgPlace l).deep = s.deep := by
  induction l generalizing s with
  | nil => exact State.deep_updLdg _ _
  | cons ws rest ih =>
    unfold State.ldgPlace
    dsimp only
    split
    · simp
    · rw [ih]; simp
@[simp] theorem State.deep_ldgServe (s : State) (u : Nat) : (s.ldgServe u).deep = s.deep := by
  unfold State.ldgServe
  dsimp only
  rw [State.deep_updLdg]
  exact State.deep_ite (State.deep_updKn _ _ rfl) (State.deep_updLdg _ _)
@[simp] theorem State.deep_ldgTake (s : State) : s.ldgTake.deep = s.deep := by
  unfold State.ldgTake
  repeat' split
  all_goals simp
@[simp] theorem State.deep_ldgPop (s : State) : s.ldgPop.deep = s.deep := by
  unfold State.ldgPop
  dsimp only
  split <;> simp
@[simp] theorem State.deep_ldgDrop (s : State) (b : RBlk) (why : Nat) : (s.ldgDrop b why).deep = s.deep := by
  simp [State.ldgDrop]
@[simp] theorem State.deep_ldgArrive (s : State) (b : RBlk) (us : List Unit128) : (s.ldgArrive b us).deep = s.deep := by
  simp [State.ldgArrive]
@[simp] theorem State.deep_ldgSettle (s : State) : s.ldgSettle.deep = s.deep := by
  unfold State.ldgSettle
  rw [State.deep_foldl]
  intro s _
  repeat' split
  all_goals simp
@[simp] theorem State.deep_deliverBarks (s : State) : s.deliverBarks.deep = s.deep := by
  unfold State.deliverBarks
  dsimp only
  rw [State.deep_foldl _ State.deep_brkRaise]
  exact State.deep_updKn _ _ rfl

@[simp] theorem State.deep_gather (s : State) (i : Nat) : (s.gather i).deep = s.deep := by
  simp [State.gather]
@[simp] theorem State.deep_endJob (s : State) (i status why : Nat) : (s.endJob i status why).deep = s.deep := by
  simp [State.endJob]
@[simp] theorem State.deep_submit (s : State) (i : Nat) : (s.submit i).deep = s.deep := by
  simp [State.submit]
@[simp] theorem State.deep_cancelJob (s : State) (i why : Nat) : (s.cancelJob i why).deep = s.deep := by
  simp [State.cancelJob]
theorem State.ends_brnCmd (s : State) (v : Word) : CmdRes.Ends s.deep (s.brnCmd v) := by
  unfold State.brnCmd
  dsimp only
  repeat' split
  all_goals first
    | trivial
    | (simp; done)
@[simp] theorem State.deep_startWork (s : State) (x : BJob) : (s.startWork x).deep = s.deep := by
  unfold State.startWork
  dsimp only
  repeat' split
  all_goals simp
@[simp] theorem State.deep_burinStart (s : State) : s.burinStart.deep = s.deep := by
  unfold State.burinStart
  dsimp only
  repeat' split
  all_goals simp
@[simp] theorem State.deep_giveChunk (s : State) (i k : Nat) : (s.giveChunk i k).deep = s.deep := by
  simp [State.giveChunk]
@[simp] theorem State.deep_burinIssue (s : State) : s.burinIssue.deep = s.deep := by
  unfold State.burinIssue
  dsimp only
  split
  · rfl
  · simp
  · simp
@[simp] theorem State.deep_burinComplete (s : State) : s.burinComplete.deep = s.deep := by
  unfold State.burinComplete
  dsimp only
  split
  · rfl
  · simp only [State.deep_ite_eq, State.deep_endJob]
    split <;> simp
  · simp
@[simp] theorem State.deep_leaveWalk (s : State) (x : BJob) : (s.leaveWalk x).deep = s.deep := by
  simp [State.leaveWalk]
@[simp] theorem State.deep_burinEndAll (s : State) (status why : Nat) : (s.burinEndAll status why).deep = s.deep := by
  simp [State.burinEndAll]
@[simp] theorem State.deep_burinPackReset (s : State) (p : Nat) : (s.burinPackReset p).deep = s.deep := by
  simp [State.burinPackReset]
theorem State.ends_fence (s : State) (p : Nat) (v : Word) : CmdRes.Ends s.deep (s.fence p v) := by
  unfold State.fence
  dsimp only
  split
  · trivial
  · simp

end Sys2Proof.Machine
end

