-- ==== Sys2Proof/Laws/DeepModes.lean ====
section
/-! SUPPORT. Mode changes, the waves of start-up, freeze, substitution, dead agents, retirement and pack reset leave the queue, the
thermal-trip pin, GLB_LOCK, g[0] and the register port's accesses alone. -/

namespace Sys2Proof.Machine

@[simp] theorem State.deep_takeFailed (s : State) : s.takeFailed.deep = s.deep := by
  unfold State.takeFailed
  apply State.deep_foldl
  intro s _
  repeat' split
  all_goals simp
@[simp] theorem State.deep_discardBarriers (s : State) : s.discardBarriers.deep = s.deep := by
  simp [State.discardBarriers, State.deep_foldl _ State.deep_drainBarriers]
@[simp] theorem State.deep_toDrain (s : State) : s.toDrain.deep = s.deep := by
  simp [State.toDrain]
@[simp] theorem State.deep_dormantStart (s : State) : s.dormantStart.deep = s.deep := by
  simp [State.dormantStart]
@[simp] theorem State.deep_dormantAbandon (s : State) : s.dormantAbandon.deep = s.deep := by
  simp [State.dormantAbandon]
@[simp] theorem State.deep_dormantDrained (s : State) : s.dormantDrained.deep = s.deep := by
  simp [State.dormantDrained]
@[simp] theorem State.deep_dormantFlushed (s : State) : s.dormantFlushed.deep = s.deep := by
  simp [State.dormantFlushed]
/-- A scent raised leaves the Sheepdog alone. -/
@[simp] theorem Kennel.scentInc_sheep (k : Kennel) (i : Nat) : (k.scentInc i).sheep = k.sheep := by
  unfold Kennel.scentInc
  dsimp only
  split <;> rfl
/-- A fold of changes of the Kennel that each leave the Sheepdog alone. -/
theorem Kennel.sheep_foldl {α : Type} (f : Kennel → α → Kennel) (h : ∀ k x, (f k x).sheep = k.sheep) (l : List α) (k : Kennel) :
    (l.foldl f k).sheep = k.sheep := by
  induction l generalizing k with
  | nil => rfl
  | cons x l ih => rw [List.foldl_cons, ih, h]
@[simp] theorem State.deep_scentBuilt (s : State) : s.scentBuilt.deep = s.deep := by
  unfold State.scentBuilt
  dsimp only
  split
  · rw [State.deep_updMs]
    rw [State.deep_updPins _ _ rfl, State.deep_updSh, State.deep_updKn]
    dsimp only
    rw [Kennel.sheep_foldl]
    intro k l
    exact Kennel.sheep_foldl _ (fun k i => Kennel.scentInc_sheep k i) _ _
  · rfl
@[simp] theorem State.deep_islandOff (s : State) : s.islandOff.deep = s.deep := by simp [State.islandOff]
@[simp] theorem State.deep_saveRegs (s : State) : s.saveRegs.deep = s.deep := State.deep_updKn _ _ rfl
@[simp] theorem State.deep_dormantSettled (s : State) : s.dormantSettled.deep = s.deep := by
  simp [State.dormantSettled]
@[simp] theorem State.deep_wakeStart (s : State) : s.wakeStart.deep = s.deep := by
  unfold State.wakeStart
  dsimp only
  rw [State.deep_mapSlices, State.deep_updCtl _ _ rfl, State.deep_updMs]
@[simp] theorem State.deep_entryEnd (s : State) : s.entryEnd.deep = s.deep := by
  unfold State.entryEnd
  try dsimp only
  repeat' split
  all_goals simp
@[simp] theorem State.deep_wave (s : State) (k : Nat) : (s.wave k).deep = s.deep := by
  simp [State.wave]
@[simp] theorem State.deep_wakeWave (s : State) (k : Nat) : (s.wakeWave k).deep = s.deep := by
  simp [State.wakeWave]
@[simp] theorem State.deep_wakeLate (s : State) (n : Nat) : (s.wakeLate n).deep = s.deep := by
  unfold State.wakeLate
  split
  · exact State.deep_updSlice _ _ _
  · rfl
@[simp] theorem State.deep_powerDone (s : State) (n : Nat) : (s.powerDone n).deep = s.deep := by
  unfold State.powerDone
  dsimp only
  split
  · rfl
  · split <;> simp
@[simp] theorem State.deep_fillDone (s : State) (n : Nat) : (s.fillDone n).deep = s.deep := by
  unfold State.fillDone
  dsimp only
  split
  · rfl
  · split
    · split <;> simp
    · simp
@[simp] theorem State.deep_wakeDone (s : State) : s.wakeDone.deep = s.deep := by
  unfold State.wakeDone
  dsimp only
  split
  · have h : ∀ t : State, (if (!t.ctl.ms.failAfter.isEmpty && t.takeFailed.sh.mode == .recover) = true then
        t.takeFailed.updSh fun g => { g with prev := .dormant } else t.takeFailed).deep = t.deep := by
      intro t; split <;> simp
    rw [h, State.deep_enter, State.deep_clearScent, State.deep_updKn, State.deep_updPins] <;> dsimp only
  · rfl
@[simp] theorem State.deep_wakeTimeout (s : State) (n : Nat) : (s.wakeTimeout n).deep = s.deep := by
  unfold State.wakeTimeout
  try dsimp only
  repeat' split
  all_goals simp
@[simp] theorem State.deep_idleOff (s : State) : s.idleOff.deep = s.deep := by
  simp [State.idleOff]
theorem State.deep_wantRun {s t : State} (h : s.wantRun = some t) : t.deep = s.deep := by
  unfold State.wantRun at h
  repeat' split at h
  all_goals first
    | (cases h; simp; done)
    | cases h
@[simp] theorem State.deep_warmGo (s : State) : s.warmGo.deep = s.deep := by
  unfold State.warmGo
  dsimp only
  rw [State.deep_updMs, State.deep_updKn, State.deep_updCtl, State.deep_updFrz, State.deep_updRcv, State.deep_updBrn, State.deep_updBrk,
    State.deep_updLdg, State.deep_updLink, State.deep_updSh, State.deep_mapSlices, State.deep_burinEndAll]
  · split <;> simp
  all_goals dsimp only [RegPort.outstanding]
@[simp] theorem State.deep_warmFit (s : State) : s.warmFit.deep = s.deep := by simp [State.warmFit]
@[simp] theorem State.deep_warmPoll (s : State) : s.warmPoll.deep = s.deep := by
  simp [State.warmPoll]
@[simp] theorem State.deep_warmStart (s : State) : s.warmStart.deep = s.deep := by
  simp [State.warmStart]
theorem State.ends_modeWant (s : State) (v : Word) : CmdRes.Ends s.deep (s.modeWant v) := by
  unfold State.modeWant
  try dsimp only
  repeat' split
  all_goals first
    | rw [CmdRes.ends_error]; trivial
    | rw [CmdRes.ends_ok, State.deep_toDrain]
    | rw [CmdRes.ends_ok, State.deep_dormantStart]
    | rw [CmdRes.ends_ok, State.deep_warmStart]
    | rw [CmdRes.ends_ok, State.deep_enter]
    | rw [CmdRes.ends_ok]; exact State.deep_wantRun ‹_›
theorem State.ends_modeCmd (s : State) (v : Word) : CmdRes.Ends s.deep (s.modeCmd v) := by
  unfold State.modeCmd
  split
  · rename_i h
    rw [CmdRes.ends_ok, State.deep_updMs]
    exact (State.ends_modeWant s v).ok h
  · trivial
@[simp] theorem State.deep_sheepMode (s : State) (m : Nat) : (s.sheepMode m).2.deep = s.deep := by
  unfold State.sheepMode
  repeat' split
  all_goals first
    | rw [State.deep_dormantStart]
    | exact State.deep_wantRun ‹_›
    | rfl
@[simp] theorem State.deep_coldTaken (s : State) : s.coldTaken.deep = s.deep := by
  have h (t : State) (n : Nat) (w : List Word) (u : Nat) (hu : t.deep = s.deep) :
      (if 16 ≤ t.kn.rst.times.length then
        ((t.updKn fun k => { k with rst := { k.rst with times := [] } }).kst n w).bark u else t).deep = s.deep := by
    split
    · rw [State.deep_bark, State.deep_kst, State.deep_updKn _ _ rfl, hu]
    · exact hu
  unfold State.coldTaken
  exact h _ _ _ _ (by rw [State.deep_kst, State.deep_updKn _ _ rfl])
@[simp] theorem State.deep_kennelStart (s : State) (c : BitVec 3) : (s.kennelStart c).deep = s.deep := by
  unfold State.kennelStart
  try dsimp only
  repeat' split
  all_goals simp
@[simp] theorem State.deep_kennelCredits (s : State) (a : Nat) : (s.kennelCredits a).deep = s.deep := by
  simp [State.kennelCredits]
@[simp] theorem State.deep_releaseWave (s : State) (k : Nat) : (s.releaseWave k).deep = s.deep := by
  simp [State.releaseWave]
@[simp] theorem State.deep_coldRelease (s : State) : s.coldRelease.deep = s.deep := by
  unfold State.coldRelease
  dsimp only
  split
  · simp only [State.deep_ite_eq, State.deep_updMs, ite_self, State.deep_kst]
    rw [State.deep_updKn _ _ rfl, State.deep_updPins _ _ rfl]
  · rfl
@[simp] theorem State.deep_coldHeld (s : State) : s.coldHeld.deep = s.deep := by
  simp [State.coldHeld]
@[simp] theorem State.deep_selftestDone (s : State) (l : List (Nat × Nat × Nat)) : (s.selftestDone l).deep = s.deep := by
  simp [State.selftestDone]
@[simp] theorem State.deep_powerWave (s : State) (k : Nat) : (s.powerWave k).deep = s.deep := by
  simp [State.powerWave]
@[simp] theorem State.deep_frzBegin (s : State) (c : BitVec 2) : (s.frzBegin c).deep = s.deep := by
  simp [State.frzBegin]
@[simp] theorem State.deep_frzEnd (s : State) : s.frzEnd.deep = s.deep := by
  unfold State.frzEnd
  split <;> simp
@[simp] theorem State.deep_frzFrozen (s : State) : s.frzFrozen.deep = s.deep := by
  simp [State.frzFrozen]
@[simp] theorem State.deep_frzThaw (s : State) : s.frzThaw.deep = s.deep := by
  unfold State.frzThaw
  dsimp only
  split
  · rw [State.deep_frzBegin, State.deep_updFrz, State.deep_updSh]
  · rfl
@[simp] theorem State.deep_frzdr (s : State) (v : Word) : (s.frzdr v).deep = s.deep := by
  simp [State.frzdr]
@[simp] theorem State.deep_readoutEnd (s : State) : s.readoutEnd.deep = s.deep := by
  simp [State.readoutEnd]

/-! ### Recovery -/

@[simp] theorem State.deep_spareReady (s : State) : s.spareReady.deep = s.deep := by
  simp [State.spareReady]
@[simp] theorem State.deep_exportMap (s : State) : s.exportMap.deep = s.deep := by
  unfold State.exportMap
  dsimp only
  rw [State.deep_bark, State.deep_ledgerEv, State.deep_updKn _ _ rfl, State.deep_updSh]
@[simp] theorem State.deep_copyDone (s : State) : s.copyDone.deep = s.deep := by
  unfold State.copyDone
  dsimp only
  split
  · rw [State.deep_exportMap, State.deep_updRcv, State.deep_updSlice]
  · rfl
@[simp] theorem State.deep_mapDone (s : State) : s.mapDone.deep = s.deep := by
  unfold State.mapDone
  dsimp only
  split
  · rw [State.deep_updRcv, State.deep_foldl _ (fun s a => State.deep_onSlice s _ _), State.deep_mapSlices, State.deep_updLink,
      State.deep_updSlice, State.deep_updSlice]
  · rfl
@[simp] theorem State.deep_substReplayDone (s : State) : s.substReplayDone.deep = s.deep := by
  simp [State.substReplayDone]
@[simp] theorem State.deep_recoverEnd (s : State) : s.recoverEnd.deep = s.deep := by
  simp [State.recoverEnd]
@[simp] theorem State.deep_nextWalk (s : State) (a : Nat) : (s.nextWalk a).deep = s.deep := by
  unfold State.nextWalk
  dsimp only
  split
  · simp
  · rw [State.deep_updSh, State.deep_updCtl _ _ rfl, State.deep_updSh]
@[simp] theorem State.deep_stopRecords (s : State) (a n : Nat) (l : List Line) : (s.stopRecords a n l).deep = s.deep := by
  simp [State.stopRecords]
@[simp] theorem State.deep_domainStop (s : State) (a n : Nat) (l : List Line) : (s.domainStop a n l).deep = s.deep := by
  unfold State.domainStop
  dsimp only
  rw [State.deep_burinEndAll, State.deep_kst, State.deep_stopRecords, State.deep_bark, State.deep_updCtl, State.deep_updSh] <;> dsimp only
@[simp] theorem State.deep_deadWalkDone (s : State) : s.deadWalkDone.deep = s.deep := by
  unfold State.deadWalkDone
  try dsimp only
  repeat' split
  all_goals simp
theorem State.ends_retire (s : State) (a : Nat) (v : Word) : CmdRes.Ends s.deep (s.retire a v) := by
  unfold State.retire
  dsimp only
  split
  · trivial
  · split
    · trivial
    · rw [CmdRes.ends_ok, State.deep_mapSlices, State.deep_updCtl] <;> dsimp only
@[simp] theorem State.deep_retireDone (s : State) (a : Nat) : (s.retireDone a).deep = s.deep := by
  unfold State.retireDone
  dsimp only
  split
  · rw [State.deep_updCtl, State.deep_updSh, State.deep_onAll, State.deep_updSh, State.deep_mapSlices] <;> dsimp only
  · rfl
theorem State.ends_packReset (s : State) (p : Nat) (v : Word) : CmdRes.Ends s.deep (s.packReset p v) := by
  unfold State.packReset
  dsimp only
  split
  · trivial
  · split
    · trivial
    · rw [CmdRes.ends_ok, State.deep_burinPackReset, State.deep_drainBarriers, State.deep_updSh]
@[simp] theorem State.deep_packResetDrained (s : State) (p : Nat) : (s.packResetDrained p).deep = s.deep := by
  simp [State.packResetDrained]
@[simp] theorem State.deep_packResetWalkDone (s : State) (p : Nat) : (s.packResetWalkDone p).deep = s.deep := by
  simp [State.packResetWalkDone]
@[simp] theorem State.deep_fenceDone (s : State) (p : Nat) : (s.fenceDone p).deep = s.deep := by
  simp [State.fenceDone]

end Sys2Proof.Machine
end

