-- ==== Sys2Proof/Laws/Keeps.lean ====
section
/-! SUPPORT. What every operation keeps: the queue of commands and the thermal-trip pin as they are, GLB_LOCK once it is set, g[0] of
the Sheepdog zero, and no more accesses outstanding at the register port. One lemma per operation that may change one of these. -/

namespace Sys2Proof.Machine

/-- What every operation but a reset and those of the register port keeps. -/
structure Keeps (s t : State) : Prop where
  pending : t.pending = s.pending
  trip    : t.pins.thermTrip = s.pins.thermTrip
  lock    : s.lock.lock = true → t.lock.lock = true
  zero    : s.kn.sheep.g[0] = 0 → t.kn.sheep.g[0] = 0
  room    : t.ctl.rp.outstanding ≤ s.ctl.rp.outstanding

theorem Keeps.refl (s : State) : Keeps s s := ⟨rfl, rfl, id, id, Nat.le_refl _⟩
theorem Keeps.trans {s t u : State} (h : Keeps s t) (k : Keeps t u) : Keeps s u :=
  ⟨k.pending.trans h.pending, k.trip.trans h.trip, k.lock ∘ h.lock, k.zero ∘ h.zero, Nat.le_trans k.room h.room⟩

/-- What leaves all of these alone keeps them. -/
theorem Keeps.ofDeep {s t : State} (h : t.deep = s.deep) : Keeps s t := by
  simp only [State.deep, Prod.mk.injEq] at h
  obtain ⟨h1, h2, h3, h4, h5⟩ := h
  exact ⟨h1, h2, by rw [h3]; exact id, by rw [h4]; exact id, Nat.le_of_eq h5⟩

theorem Keeps.thenDeep {s t u : State} (h : Keeps s t) (e : u.deep = t.deep) : Keeps s u := h.trans (Keeps.ofDeep e)

theorem Keeps.ite {c : Prop} [Decidable c] {s a b : State} (ha : Keeps s a) (hb : Keeps s b) : Keeps s (if c then a else b) := by
  split
  · exact ha
  · exact hb

theorem Keeps.foldl {α : Type} (f : State → α → State) (h : ∀ s x, Keeps s (f s x)) (l : List α) (s : State) : Keeps s (l.foldl f s) := by
  induction l generalizing s with
  | nil => exact Keeps.refl s
  | cons x l ih => exact (h s x).trans (ih (f s x))

theorem Keeps.unlessFrozen {s : State} {f : State → State} (h : Keeps s (f s)) : Keeps s (s.unlessFrozen f) := by
  unfold State.unlessFrozen
  exact Keeps.ite (Keeps.refl s) h

/-- A change of the Sheepdog that leaves g[0] zero. -/
theorem Keeps.updSheep (s : State) (f : Sheep → Sheep) (h : s.kn.sheep.g[0] = 0 → (f s.kn.sheep).g[0] = 0) : Keeps s (s.updSheep f) :=
  ⟨rfl, rfl, id, h, Nat.le_refl _⟩

/-! ### Starting a program, and the Sheepdog's registers -/

@[simp] theorem Sheep.fetch_g (h : Sheep) : h.fetch.g = h.g := by
  unfold Sheep.fetch
  dsimp only
  repeat' split
  all_goals rfl
@[simp] theorem Sheep.put_zero (h : Sheep) (d : GReg) (v : W32) : (h.put d v).g[0] = h.g[0] := by
  unfold Sheep.put
  split
  · rfl
  · rename_i hd
    have : d.toNat ≠ 0 := fun e => hd (by apply BitVec.eq_of_toNat_eq; simpa using e)
    simp [this]
@[simp] theorem Sheep.putPair_zero (h : Sheep) (d : GReg) (v : Word) : (h.putPair d v).g[0] = h.g[0] := by
  simp [Sheep.putPair]

/-- A program's start leaves g[0] zero. -/
theorem keeps_startSheep (s : State) (p : Nat) : Keeps s (s.startSheep p) := by
  unfold State.startSheep
  apply Keeps.updSheep
  intro _
  dsimp only
  split
  · simp [Sheep.start]
  · simp [Sheep.start]

/-! ### A register's new value -/

@[simp] theorem State.deep_brkPut (s : State) (f : Bark → Bark) : (s.brkPut f).deep = s.deep := State.deep_updBrk _ _
theorem deep_plainPut (s : State) (r : Reg) (v : Word) : (s.plainPut r v).deep = s.deep := by
  unfold State.plainPut
  split
  all_goals first
    | rfl
    | (simp; done)

@[simp] theorem State.deep_shapePut (s : State) (p : Nat) (v : Word) (l : Bool) : (s.shapePut p v l).deep = s.deep := by
  simp [State.shapePut]
@[simp] theorem State.deep_resvPut (s : State) (p : Nat) (v : Word) : (s.resvPut p v).deep = s.deep := by
  simp [State.resvPut]
@[simp] theorem State.deep_gatePut (s : State) (p : Nat) (v : Word) : (s.gatePut p v).deep = s.deep := by
  unfold State.gatePut
  dsimp only
  split <;> simp
@[simp] theorem State.deep_ldgDiscard (s : State) : s.ldgDiscard.deep = s.deep := by
  unfold State.ldgDiscard
  dsimp only
  rw [State.deep_updKn, State.deep_updLdg]
  rfl
@[simp] theorem State.deep_ldgCtlPut (s : State) (v : Word) : (s.ldgCtlPut v).deep = s.deep := by
  unfold State.ldgCtlPut
  dsimp only
  split <;> simp
@[simp] theorem State.deep_ldgRingPut (s : State) (v : Word) : (s.ldgRingPut v).deep = s.deep := by
  simp [State.ldgRingPut]
@[simp] theorem State.deep_pendClear (s : State) (k : Nat) (v : Word) : (s.pendClear k v).deep = s.deep := by
  simp [State.pendClear]
@[simp] theorem Sheep.halt_g (h : Sheep) (now : Nat) : (h.halt now).g = h.g := rfl
@[simp] theorem Sheep.setHalt_g (h : Sheep) (b : Bool) : (h.setHalt b).g = h.g := rfl
@[simp] theorem State.deep_shdCtlPut (s : State) (v : Word) : (s.shdCtlPut v).deep = s.deep := by
  unfold State.shdCtlPut
  dsimp only
  split
  all_goals
    rw [State.deep_updSheep, State.deep_updKn _ _ rfl]
    (repeat' split) <;> simp
@[simp] theorem State.deep_mboxLatch (s : State) : s.mboxLatch.deep = s.deep := State.deep_updSheep _ _ rfl

/-- A register's new value: GLB_LOCK can only be set. -/
theorem keeps_regPut (s : State) (r : Reg) (v : Word) : Keeps s (s.regPut r v) := by
  unfold State.regPut
  dsimp only
  split
  · exact Keeps.ite ⟨rfl, rfl, fun _ => rfl, id, Nat.le_refl _⟩ (Keeps.refl s)
  all_goals first
    | (apply Keeps.ofDeep; simp; done)
    | exact Keeps.ofDeep (deep_plainPut s _ _)

theorem keeps_loadReg (s : State) (r : Reg) (v : Word) : Keeps s (s.loadReg r v) := by
  unfold State.loadReg
  dsimp only
  split
  · exact Keeps.ofDeep (State.deep_shapePut _ _ _ _)
  · exact (keeps_regPut s _ _).thenDeep (State.deep_updSlice _ _ _)
  · exact keeps_regPut s _ _
theorem keeps_loadPair (s : State) (x : Nat × Word) : Keeps s (s.loadPair x) := by
  unfold State.loadPair
  split
  · split
    · exact Keeps.foldl _ (fun s n => keeps_loadReg s _ _) _ _
    · exact Keeps.refl s
  · split
    · exact keeps_loadReg s _ _
    · exact Keeps.refl s
/-- A register image loaded. -/
theorem keeps_loadImage (s : State) (ps : List (Nat × Word)) : Keeps s (s.loadImage ps) :=
  Keeps.foldl _ (fun s x => keeps_loadPair s x) _ _

end Sys2Proof.Machine
end

