-- ==== Sys2Proof/Laws/KeepsPlate.lean ====
section
/-! SUPPORT. What the plate's operations and the register decoder's commands keep. -/

namespace Sys2Proof.Machine

theorem keeps_applySheep (s : State) (ws : List Word) : Keeps s (s.applySheep ws) := by
  unfold State.applySheep
  dsimp only
  exact (Keeps.updSheep s _ (fun h => h)).trans (keeps_loadImage _ _)
theorem keeps_applyOps (s : State) (b : Bool) (m : PlateMap) : Keeps s (s.applyOps b m) := by
  unfold State.applyOps
  dsimp only
  refine Keeps.trans ?_ (keeps_applySheep _ _)
  refine Keeps.trans ?_ (Keeps.foldl _ (fun s t => keeps_loadImage s _) _ _)
  apply Keeps.ofDeep
  rw [State.deep_updCtl] <;> dsimp only
@[simp] theorem Kennel.identWrite_sheep (k : Kennel) (now r : Nat) (w : PWhy) (d d' : Word) : (k.identWrite now r w d d').sheep = k.sheep := rfl
@[simp] theorem Kennel.identLost_sheep (k : Kennel) (r : Nat) (w : PWhy) : (k.identLost r w).sheep = k.sheep := rfl
@[simp] theorem Kennel.dropInstall_sheep (k : Kennel) : k.dropInstall.sheep = k.sheep := by
  unfold Kennel.dropInstall
  dsimp only
  exact Kennel.sheep_foldl _ (fun k b => by split <;> rfl) _ _
@[simp] theorem State.deep_identWrite (s : State) (now r : Nat) (w : PWhy) (d : Word) :
    (s.updKn fun k => k.identWrite now r w d).deep = s.deep := State.deep_updKn _ _ rfl
@[simp] theorem State.deep_dropInstall (s : State) : (s.updKn Kennel.dropInstall).deep = s.deep := State.deep_updKn _ _ (by simp)
@[simp] theorem State.deep_inForce (s : State) (b : Bool) (m : PlateMap) : (s.inForce b m).deep = s.deep := by
  unfold State.inForce
  dsimp only
  split
  · rw [State.deep_identWrite, State.deep_updPlate]
  · rw [State.deep_updPlate]
@[simp] theorem State.deep_storeUsed (s : State) (lo n : Nat) : (s.storeUsed lo n).deep = s.deep := State.deep_updSheep _ _ rfl
@[simp] theorem State.deep_plateUsed (s : State) (b : Bool) : (s.plateUsed b).deep = s.deep := State.deep_storeUsed _ _ _
@[simp] theorem State.deep_applyStruct (s : State) (b : Bool) (m : PlateMap) : (s.applyStruct b m).deep = s.deep := by
  unfold State.applyStruct
  dsimp only
  rw [State.deep_updRcv, State.deep_storeUsed, State.deep_updKn, State.deep_mapSlices, State.deep_updSh]
  dsimp only
@[simp] theorem State.deep_burnRevoke (s : State) (b : Bool) (m : PlateMap) : (s.burnRevoke b m).deep = s.deep := by
  unfold State.burnRevoke
  exact State.deep_updKn _ _ (by dsimp only)
@[simp] theorem State.deep_calDue (s : State) (b : Bool) (m : PlateMap) : (s.calDue b m).deep = s.deep := by
  unfold State.calDue
  dsimp only
  split
  · rfl
  · exact State.deep_updKn _ _ (by dsimp only)
/-- A plate applied. -/
theorem keeps_applyPlate (s : State) (b fallback : Bool) (m : PlateMap) : Keeps s (s.applyPlate b fallback m) := by
  unfold State.applyPlate
  dsimp only
  refine Keeps.thenDeep ?_ (State.deep_wave _ _)
  refine Keeps.thenDeep ?_ (State.deep_updMs _ _)
  refine Keeps.thenDeep ?_ (State.deep_mapSlices _ _)
  refine Keeps.thenDeep ?_ (State.deep_calDue _ _ _)
  refine Keeps.thenDeep ?_ (State.deep_burnRevoke _ _ _)
  refine Keeps.thenDeep ?_ (State.deep_inForce _ _ _)
  refine Keeps.trans ?_ (Keeps.updSheep _ _ (fun h => h))
  refine Keeps.trans ?_ (keeps_applyOps _ _ _)
  exact Keeps.ofDeep (State.deep_applyStruct s b m)

@[simp] theorem State.deep_plateNote (s : State) (a b : Bool) : (s.plateNote a b).deep = s.deep := by
  simp [State.plateNote]
@[simp] theorem State.deep_plateEnd (s : State) (a : Bool) : (s.plateEnd a).deep = s.deep := by
  simp [State.plateEnd]
theorem keeps_plateVerifyDone (s : State) : Keeps s s.plateVerifyDone := by
  have h (b : Bool) (f : PlateSt → PlateSt) : Keeps s ((s.plateUsed b).updPlate f) :=
    Keeps.ofDeep (by rw [State.deep_updPlate, State.deep_plateUsed])
  unfold State.plateVerifyDone
  extract_lets cur r1 s1 src r2 s2
  have h1 : Keeps s s1 := h _ _
  have h2 : Keeps s s2 := h _ _
  clear_value s1 s2 r1 r2
  split
  · split
    · cases r1
      · exact h1.thenDeep (State.deep_updPlate _ _)
      · exact h1.trans (keeps_applyPlate _ _ _ _)
    · extract_lets note
      cases r2
      · exact h2.thenDeep (by rw [State.deep_bark, State.deep_updMs])
      · refine Keeps.thenDeep ?_ (State.deep_knlEvent _ _ _ _ _)
        exact (h2.thenDeep (State.deep_kst _ _ _)).trans (keeps_applyPlate _ _ _ _)
  · exact Keeps.refl s
@[simp] theorem State.deep_fetchFail (s : State) (c : Nat) : (s.fetchFail c).deep = s.deep := by
  unfold State.fetchFail
  dsimp only
  rw [State.deep_plateEnd, State.deep_dropInstall, State.deep_updPlate]
@[simp] theorem State.deep_installFail {α : Type} (s : State) (r : Chk12 α) : (s.installFail r).deep = s.deep := by
  unfold State.installFail
  dsimp only
  rw [State.deep_plateEnd, State.deep_dropInstall, State.deep_updPlate]
theorem State.deep_plateSend {s t : State} {i tx : Nat} (h : s.plateSend i tx = some t) : t.deep = s.deep := by
  unfold State.plateSend at h
  rw [Option.map_eq_some_iff] at h
  obtain ⟨x, _, rfl⟩ := h
  exact State.deep_sendBy _ _ _ _
@[simp] theorem State.deep_plateIssue (s : State) : s.plateIssue.deep = s.deep := by
  unfold State.plateIssue
  apply State.deep_foldl
  intro s _
  split
  · rfl
  · split
    · rfl
    · split
      · rfl
      · split
        · simp
        · rename_i h
          rw [State.deep_updPlate, State.deep_updKn, State.deep_plateSend h]
          dsimp only
theorem State.ends_install (s : State) (c : Nat) : CmdRes.Ends s.deep (s.install c) := by
  unfold State.install
  dsimp only
  repeat' split
  all_goals first
    | trivial
    | (simp; done)
@[simp] theorem State.deep_lineWhole (s : State) (o : PlateOp) (f : Fetch) (us : List Unit128) : (s.lineWhole o f us).deep = s.deep := by
  unfold State.lineWhole
  dsimp only
  split
  · simp
  · split
    · simp
    · rw [State.deep_plateIssue, State.deep_updKn]
      · split <;> simp
      · dsimp only
@[simp] theorem State.deep_fetchPut (s : State) (o : PlateOp) (f : Fetch) : (s.fetchPut o f).deep = s.deep := by
  unfold State.fetchPut
  split <;> simp
@[simp] theorem State.deep_plateData (s : State) (m : Msg) : (s.plateData m).1.deep = s.deep := by
  unfold State.plateData
  dsimp only
  repeat' split
  all_goals first
    | rfl
    | exact State.deep_fetchPut _ _ _
@[simp] theorem State.deep_plateRetry (s : State) (o : PlateOp) (f : Fetch) (c : Nat) : (s.plateRetry o f c).deep = s.deep := by
  unfold State.plateRetry
  split
  · simp
  split
  · split
    · simp
    · rename_i h
      rw [State.deep_updPlate, State.deep_plateSend h]
  · simp
@[simp] theorem State.deep_plateTimeout (s : State) (tx : Nat) : (s.plateTimeout tx).deep = s.deep := by
  unfold State.plateTimeout
  repeat' split
  all_goals simp
@[simp] theorem State.deep_plateWritten (s : State) : s.plateWritten.deep = s.deep := by
  unfold State.plateWritten
  dsimp only
  split
  · rfl
  · split
    · rfl
    · split
      · simp
      · rw [State.deep_identWrite, State.deep_updPlate, State.deep_plateUsed]
theorem keeps_plateCurrent (s : State) (b : Bool) : Keeps s (s.plateCurrent b) := by
  unfold State.plateCurrent
  have h := Keeps.ofDeep (State.deep_updPlate s fun p => { p with cur := b })
  revert h
  generalize (s.updPlate fun p => { p with cur := b }) = u
  intro h
  refine h.trans ?_
  dsimp only
  split
  · exact Keeps.refl _
  · split
    · exact Keeps.refl _
    · split
      · split
        · refine Keeps.thenDeep ?_ (State.deep_plateNote _ _ _)
          exact (Keeps.ofDeep (State.deep_updPlate _ _)).trans (keeps_applyPlate _ _ _ _)
        · exact Keeps.ofDeep (State.deep_plateEnd _ _)
      · exact Keeps.ofDeep (State.deep_plateEnd _ _)
theorem State.ends_reload (s : State) (c : Nat) : CmdRes.Ends s.deep (s.reload c) := by
  unfold State.reload
  repeat' split
  all_goals first
    | trivial
    | (simp; done)
theorem keeps_reloadDone (s : State) : Keeps s s.reloadDone := by
  unfold State.reloadDone
  dsimp only
  split
  · exact Keeps.refl s
  · split
    · exact Keeps.refl s
    · split
      · apply Keeps.ofDeep; simp
      · refine Keeps.thenDeep ?_ (State.deep_plateEnd _ _)
        refine Keeps.trans ?_ (keeps_startSheep _ _)
        refine Keeps.trans ?_ (Keeps.updSheep _ _ (fun h => h))
        refine Keeps.thenDeep ?_ (State.deep_inForce _ _ _)
        exact (Keeps.ofDeep (by rw [State.deep_updPlate, State.deep_plateUsed])).trans (keeps_applyOps _ _ _)
theorem State.ends_checkCmd (s : State) (c : Nat) : CmdRes.Ends s.deep (s.checkCmd c) := by
  unfold State.checkCmd
  repeat' split
  all_goals first
    | trivial
    | (simp; done)
@[simp] theorem State.deep_checkDone (s : State) : s.checkDone.deep = s.deep := by
  unfold State.checkDone
  dsimp only
  repeat' split
  all_goals simp
theorem State.ends_plCmd (s : State) (v : Word) : CmdRes.Ends s.deep (s.plCmd v) := by
  unfold State.plCmd
  split
  · exact State.ends_install s _
  · exact State.ends_reload s _
  · exact State.ends_checkCmd s _
  · trivial

end Sys2Proof.Machine
end

