-- ==== Sys2Proof/Laws/KeepsPort.lean ====
section
/-! SUPPORT. What the register decoder, the register port and the Sheepdog's instructions keep. -/

namespace Sys2Proof.Machine

/-- A command is refused, or keeps what Keeps says. -/
def CmdRes.Kept (s : State) : CmdRes → Prop
  | .ok t => Keeps s t
  | .error _ => True
theorem CmdRes.Ends.kept {s : State} {r : CmdRes} (h : CmdRes.Ends s.deep r) : CmdRes.Kept s r := by
  cases r with
  | ok t => exact Keeps.ofDeep h
  | error c => trivial

/-! ### Command registers -/

theorem kept_swset (s : State) (v : Word) : CmdRes.Kept s (s.swset v) := by
  apply CmdRes.Ends.kept
  unfold State.swset
  dsimp only
  repeat' split
  all_goals first
    | trivial
    | (simp; done)
theorem kept_ldgCmd (s : State) (v : Word) : CmdRes.Kept s (s.ldgCmd v) := by
  apply CmdRes.Ends.kept
  unfold State.ldgCmd
  split
  · simp
  · trivial
theorem kept_shdCmd (s : State) (v : Word) : CmdRes.Kept s (s.shdCmd v) := by
  unfold State.shdCmd
  split
  · exact (Keeps.updSheep s _ (fun h => h)).trans (keeps_startSheep _ _)
  · exact keeps_startSheep s _
  · trivial
theorem kept_frzCmd (s : State) (v : Word) : CmdRes.Kept s (s.frzCmd v) := by
  apply CmdRes.Ends.kept
  unfold State.frzCmd
  split
  · simp
  · trivial
theorem kept_frzAaddr (s : State) (v : Word) : CmdRes.Kept s (s.frzAaddr v) := by
  apply CmdRes.Ends.kept
  unfold State.frzAaddr
  dsimp only
  repeat' split
  all_goals first
    | trivial
    | (simp; done)
theorem kept_rplCmd (s : State) (n : Nat) (v : Word) : CmdRes.Kept s (s.rplCmd n v) := by
  apply CmdRes.Ends.kept
  unfold State.rplCmd
  repeat' split
  all_goals first
    | trivial
    | (simp; done)
/-- A write of a command register. -/
theorem kept_command (s : State) (r : Reg) (v : Word) : CmdRes.Kept s (s.command r v) := by
  unfold State.command
  split
  · exact (State.ends_modeCmd s v).kept
  · exact kept_rplCmd s _ v
  · exact (State.ends_retire s _ v).kept
  · exact (State.ends_fence s _ v).kept
  · exact (State.ends_packReset s _ v).kept
  · exact kept_shdCmd s v
  · exact (State.ends_plCmd s v).kept
  · exact (State.ends_brnCmd s v).kept
  · exact kept_ldgCmd s v
  · exact kept_swset s v
  · exact kept_frzCmd s v
  · exact kept_frzAaddr s v
  · exact Keeps.refl s

/-! ### The decoder -/

theorem keeps_readReg (s : State) (r : Reg) (q : Bool) : Keeps s (s.readReg r q).1 := by
  unfold State.readReg
  dsimp only
  split
  · exact Keeps.refl s
  · split
    · apply Keeps.ofDeep; simp
    · split
      · exact Keeps.ofDeep (State.deep_updBrk _ _)
      · exact Keeps.refl s
    · exact Keeps.refl s
theorem kept_writeReg (s : State) (src : AccSrc) (r : Reg) (reach data : Word) : CmdRes.Kept s (s.writeReg src r reach data) := by
  unfold State.writeReg
  dsimp only
  split
  · exact kept_command s r data
  · split
    · split
      · trivial
      · exact Keeps.refl s
    · split
      · trivial
      · split
        · trivial
        · show Keeps s _
          split
          · exact Keeps.ite (keeps_regPut s _ _) (Keeps.thenDeep (keeps_regPut s _ _) (State.deep_mboxLatch _))
          · exact (keeps_regPut s _ _).thenDeep (State.deep_updSh _ _)
          · exact keeps_regPut s _ _
/-- Past a guard that would have refused. -/
theorem ok_of_guard {α : Type} {c : Prop} [Decidable c] {k : Nat} {e : Except Nat α} {x : α}
    (h : (if c then .error k else e) = .ok x) : e = .ok x := by
  split at h
  · cases h
  · exact h
theorem keeps_half {s t : State} {src : AccSrc} {q w : Bool} {o : Nat} {reach data v : Word}
    (h : s.half src q w o reach data = .ok (t, v)) : Keeps s t := by
  unfold State.half at h
  dsimp only at h
  cases hr : regAt (o / 8 * 8) with
  | none => rw [hr] at h; cases h
  | some r =>
    rw [hr] at h
    have h := ok_of_guard (ok_of_guard (ok_of_guard (ok_of_guard h)))
    cases w with
    | true =>
      have k := kept_writeReg s src r reach data
      generalize s.writeReg src r reach data = x at h k
      cases x with
      | error c => cases h
      | ok u => cases h; exact k
    | false =>
      cases h
      exact keeps_readReg s r q
@[simp] theorem State.deep_refuse (s : State) (src : AccSrc) (a : RegAcc) (c : Nat) : (s.refuse src a c).deep = s.deep := rfl
/-- An access performed by the decoder. -/
theorem keeps_access (s : State) (src : AccSrc) (a : RegAcc) : Keeps s (s.access src a).1 := by
  have half : ∀ (s : State) (q w : Bool) (o : Nat) (reach data : Word),
      Keeps s (match s.half src q w o reach data with | .error _ => s | .ok x => x.1) := by
    intro s q w o reach data
    split
    · exact Keeps.refl s
    · rename_i x h
      exact keeps_half (t := x.1) (v := x.2) h
  unfold State.access
  dsimp only
  split
  · exact Keeps.ofDeep rfl
  split
  · exact Keeps.ofDeep rfl
  · split
    · exact Keeps.ofDeep rfl
    · split
      · split
        · exact Keeps.ofDeep rfl
        · have k1 := half s (decide (0x80000 ≤ a.addr.toNat)) a.wr (a.addr.toNat % 0x80000) (BitVec.allOnes 64) a.lo
          generalize s.half src (decide (0x80000 ≤ a.addr.toNat)) a.wr (a.addr.toNat % 0x80000) (BitVec.allOnes 64) a.lo = h1 at k1
          cases h1 with
          | error c1 =>
            dsimp only
            have k2 := half s (decide (0x80000 ≤ a.addr.toNat)) a.wr (a.addr.toNat % 0x80000 + 8) (BitVec.allOnes 64) a.hi
            generalize s.half src (decide (0x80000 ≤ a.addr.toNat)) a.wr (a.addr.toNat % 0x80000 + 8) (BitVec.allOnes 64) a.hi = h2 at k2
            cases h2 with
            | error c2 => exact Keeps.ofDeep rfl
            | ok y => exact k2.thenDeep rfl
          | ok x =>
            dsimp only at k1 ⊢
            have k2 := half x.1 (decide (0x80000 ≤ a.addr.toNat)) a.wr (a.addr.toNat % 0x80000 + 8) (BitVec.allOnes 64) a.hi
            generalize x.1.half src (decide (0x80000 ≤ a.addr.toNat)) a.wr (a.addr.toNat % 0x80000 + 8) (BitVec.allOnes 64) a.hi = h2 at k2
            cases h2 with
            | error c2 => exact k1.thenDeep rfl
            | ok y => exact k1.trans k2
      · split
        · exact Keeps.ofDeep rfl
        · rename_i x h
          exact keeps_half h

/-! ### The register port -/

/-- A response returned or owed: what is outstanding grows by no more than the access itself. -/
theorem State.deep_keepRsp_port (s : State) (r : RpRsp) (w : List Nat) :
    (s.keepRsp .port r w).pending = s.pending ∧ (s.keepRsp .port r w).pins = s.pins ∧ (s.keepRsp .port r w).lock = s.lock ∧
    (s.keepRsp .port r w).kn = s.kn ∧ (s.keepRsp .port r w).ctl.rp.outstanding ≤ s.ctl.rp.outstanding + 1 := by
  unfold State.keepRsp
  dsimp only
  split
  · exact ⟨rfl, rfl, rfl, rfl, Nat.le_succ _⟩
  · exact ⟨rfl, rfl, rfl, rfl, by simp [RegPort.outstanding]⟩
/-- A response to the Sheepdog or the TAP is none of the port's. -/
theorem keeps_keepRsp (s : State) {src : AccSrc} (h : src ≠ .port) (r : RpRsp) (w : List Nat) : Keeps s (s.keepRsp src r w) := by
  unfold State.keepRsp
  dsimp only
  rw [if_neg h]
  split
  · exact Keeps.ofDeep (State.deep_updCtl _ _ rfl)
  · exact ⟨rfl, rfl, id, id, by simp [RegPort.outstanding, h]⟩
/-- An access of the port performed. -/
theorem State.keeps_perform (s : State) (h : HeldAcc) :
    (s.perform h).pending = s.pending ∧ (s.perform h).pins.thermTrip = s.pins.thermTrip ∧
    (s.lock.lock = true → (s.perform h).lock.lock = true) ∧ (s.kn.sheep.g[0] = 0 → (s.perform h).kn.sheep.g[0] = 0) ∧
    (s.perform h).ctl.rp.outstanding ≤ s.ctl.rp.outstanding + 1 := by
  unfold State.perform
  dsimp only
  have k : Keeps s (if h.late = true then s.refused .port h.acc (if accBadSize h.acc then 1 else 2) else s.access .port h.acc).1 := by
    split
    · exact Keeps.ofDeep rfl
    · exact keeps_access s .port h.acc
  generalize (if h.late = true then s.refused .port h.acc (if accBadSize h.acc then 1 else 2) else s.access .port h.acc) = x at k
  obtain ⟨h1, h2, h3, h4, h5⟩ := State.deep_keepRsp_port x.1 x.2.1 x.2.2
  have := k.room
  rw [h1, h2, h3, h4]
  exact ⟨k.pending, k.trip, k.lock, k.zero, by omega⟩

/-- What every operation but a reset keeps, those of the register port among them: at most 16 accesses stay outstanding. -/
structure PKeeps (s t : State) : Prop where
  pending : t.pending = s.pending
  trip    : t.pins.thermTrip = s.pins.thermTrip
  lock    : s.lock.lock = true → t.lock.lock = true
  zero    : s.kn.sheep.g[0] = 0 → t.kn.sheep.g[0] = 0
  room    : s.outstanding ≤ 16 → t.outstanding ≤ 16

theorem Keeps.port {s t : State} (h : Keeps s t) : PKeeps s t :=
  ⟨h.pending, h.trip, h.lock, h.zero, Nat.le_trans h.room⟩
theorem PKeeps.refl (s : State) : PKeeps s s := (Keeps.refl s).port
theorem PKeeps.trans {s t u : State} (h : PKeeps s t) (k : PKeeps t u) : PKeeps s u :=
  ⟨k.pending.trans h.pending, k.trip.trans h.trip, k.lock ∘ h.lock, k.zero ∘ h.zero, k.room ∘ h.room⟩
theorem PKeeps.ofDeep {s t : State} (h : t.deep = s.deep) : PKeeps s t := (Keeps.ofDeep h).port
theorem PKeeps.foldl {α : Type} (f : State → α → State) (h : ∀ s x, PKeeps s (f s x)) (l : List α) (s : State) : PKeeps s (l.foldl f s) := by
  induction l generalizing s with
  | nil => exact PKeeps.refl s
  | cons x l ih => exact (h s x).trans (ih (f s x))
theorem PKeeps.unlessFrozen {s : State} {f : State → State} (h : PKeeps s (f s)) : PKeeps s (s.unlessFrozen f) := by
  unfold State.unlessFrozen
  split
  · exact PKeeps.refl s
  · exact h
/-- A change of the port's registers that adds nothing to what is outstanding. -/
theorem PKeeps.updRp (s : State) (f : RegPort → RegPort) (h : s.outstanding ≤ 16 → (f s.ctl.rp).outstanding ≤ 16) : PKeeps s (s.updRp f) :=
  ⟨rfl, rfl, id, id, h⟩

theorem pkeeps_drainHeld (s : State) : PKeeps s s.drainHeld := by
  unfold State.drainHeld
  apply PKeeps.foldl
  intro s _
  split
  · exact PKeeps.refl s
  · rename_i h rest e
    split
    · exact PKeeps.refl s
    · obtain ⟨h1, h2, h3, h4, h5⟩ := State.keeps_perform (s.updRp fun p => { p with held := rest }) h
      refine ⟨h1, h2, h3, h4, fun hr => Nat.le_trans h5 (Nat.le_trans (Nat.le_of_eq ?_) hr)⟩
      simp only [State.outstanding, RegPort.outstanding, e, List.length_cons, State.updRp, State.updCtl]
      exact Nat.add_right_comm _ _ _
/-- An access that arrives at the register port. -/
theorem pkeeps_portTake (s : State) (h : HeldAcc) : PKeeps s (s.portTake h) := by
  unfold State.portTake
  split
  · exact PKeeps.refl s
  · split
    · split
      · exact PKeeps.refl s
      · rename_i h16
        apply PKeeps.updRp
        intro _
        simp only [RegPort.outstanding, List.length_append, List.length_singleton] at h16 ⊢
        omega
    · rename_i hm
      obtain ⟨h1, h2, h3, h4, h5⟩ := State.keeps_perform s h
      refine ⟨h1, h2, h3, h4, fun _ => Nat.le_trans h5 ?_⟩
      simp only [Bool.or_eq_true, not_or, Bool.not_eq_true', Bool.not_eq_false, List.isEmpty_iff] at hm
      simp only [RegPort.outstanding, hm.1.1, List.length_nil]
      split <;> omega
theorem pkeeps_portAccess (s : State) (a : RegAcc) : PKeeps s (s.portAccess a) := pkeeps_portTake s _
theorem pkeeps_beatTimeout (s : State) (a : RegAcc) : PKeeps s (s.beatTimeout a) := by
  unfold State.beatTimeout
  split
  · exact PKeeps.refl s
  · exact pkeeps_portTake s _
@[simp] theorem State.deep_takenBy (s : State) (src : AccSrc) (a : RegAcc) : (s.takenBy src a).deep = s.deep := by
  unfold State.takenBy
  dsimp only
  split <;> rfl
theorem keeps_dbgdr (s : State) (v : BitVec 64) : Keeps s (s.dbgdr v) := by
  unfold State.dbgdr
  dsimp only
  split
  · exact Keeps.refl s
  · split
    · exact Keeps.ofDeep (State.deep_updFrz _ _)
    · generalize (if v.getLsbD 63 = true then acc8 true 0x7C020 0 (v &&& ones 63 0) else acc8 false (fld v 18 0 + 0x80000) 0 0) = a
      split
      · exact Keeps.ofDeep (by rw [State.deep_takenBy, State.deep_updFrz])
      · exact ((keeps_access _ _ _).trans (keeps_keepRsp _ (by simp) _ _)).thenDeep rfl
theorem keeps_dbgPoll (s : State) : Keeps s s.dbgPoll := by
  unfold State.dbgPoll
  split
  · exact keeps_dbgdr s _
  · exact Keeps.refl s

end Sys2Proof.Machine
end

