-- ==== Sys2Proof/Laws/KeepsSheep.lean ====
section
/-! SUPPORT. What the Sheepdog's instructions, the Kennel's network interface, its store and its sensors keep. -/

namespace Sys2Proof.Machine

/-! ### The Sheepdog -/

@[simp] theorem State.deep_sheepFault (s : State) (f : SFault) : (s.sheepFault f).deep = s.deep := by
  unfold State.sheepFault
  dsimp only
  rw [State.deep_knlEvent, State.deep_kst, State.deep_updSheep]
  dsimp only
theorem keeps_sheepRestart (s : State) : Keeps s s.sheepRestart := by
  unfold State.sheepRestart
  split
  · exact keeps_startSheep s _
  · exact Keeps.refl s
@[simp] theorem State.deep_watchdog (s : State) : s.watchdog.deep = s.deep := by
  simp [State.watchdog]
@[simp] theorem State.deep_nextAt (s : State) (pc : BitVec 12) : (s.nextAt pc).deep = s.deep := by
  unfold State.nextAt
  rw [State.deep_updSheep]
  rw [Sheep.fetch_g]
@[simp] theorem State.deep_nextPc (s : State) : s.nextPc.deep = s.deep := State.deep_nextAt s _
/-- A change of the Sheepdog and then the next instruction. -/
theorem State.deep_putNext (s : State) (f : Sheep → Sheep) (h : (f s.kn.sheep).g[0] = s.kn.sheep.g[0]) :
    (s.updSheep f).nextPc.deep = s.deep := by
  rw [State.deep_nextPc, State.deep_updSheep _ _ h]
theorem State.deep_instr (s : State) (enc : BitVec 36) (bad : Option SFault) (f : State → State) (h : (f s).deep = s.deep) :
    (s.instr enc bad f).deep = s.deep := by
  unfold State.instr
  split
  · split
    · simp
    · exact h
  · rfl
@[simp] theorem State.deep_instrReg (s : State) (enc : BitVec 36) (bad : Option SFault) (d : GReg) (v : Sheep → W32) :
    (s.instrReg enc bad d v).deep = s.deep :=
  State.deep_instr _ _ _ _ (State.deep_putNext _ _ (by simp))
@[simp] theorem State.deep_sheepTick (s : State) : s.sheepTick.deep = s.deep := by
  simp [State.sheepTick]
theorem Sheep.dread_g {h h' : Sheep} {i : Nat} {v : Word} (e : h.dread i = some (h', v)) : h'.g = h.g := by
  unfold Sheep.dread at e
  split at e
  all_goals first
    | (cases e; rfl)
    | cases e
@[simp] theorem State.deep_load (s : State) (d : GReg) (a : Nat) : (s.load d a).deep = s.deep := by
  unfold State.load
  dsimp only
  split
  · split
    · simp
    · rename_i h v e
      exact State.deep_putNext _ _ (by rw [Sheep.put_zero]; simp [Sheep.dread_g e])
  · split
    · exact State.deep_putNext _ _ (by simp)
    · split
      · rw [State.deep_putNext]
        · exact State.deep_ite (State.deep_updKn _ _ rfl) rfl
        · simp
      · simp
@[simp] theorem State.deep_store (s : State) (d : GReg) (a : Nat) : (s.store d a).deep = s.deep := by
  unfold State.store
  dsimp only
  split
  · split
    · simp
    · rename_i h v e
      exact State.deep_putNext _ _ (by simp [Sheep.dread_g e])
  · split
    · rw [State.deep_nextPc, State.deep_updKn]
      rfl
    · simp
@[simp] theorem State.deep_storeProg (s : State) (d a : GReg) (imm : BitVec 19) : (s.storeProg d a imm).deep = s.deep := by
  unfold State.storeProg
  dsimp only
  rw [State.deep_updSheep, State.deep_nextPc]
  rfl
@[simp] theorem State.deep_sampleOp (s : State) (d : GReg) (imm : BitVec 19) : (s.sampleOp d imm).deep = s.deep := by
  unfold State.sampleOp
  dsimp only
  rw [State.deep_putNext]
  simp
@[simp] theorem State.deep_grantTo (s : State) (n v : Nat) : (s.grantTo n v).1.deep = s.deep := by
  unfold State.grantTo
  split <;> simp
@[simp] theorem State.deep_power (s : State) (n want : Nat) : (s.power n want).1.deep = s.deep := by
  unfold State.power
  dsimp only
  split
  · rfl
  · split
    all_goals first
      | rfl
      | (split <;> simp; done)
      | (simp; done)
@[simp] theorem State.deep_ceiling (s : State) (n mhz : Nat) : (s.ceiling n mhz).1.deep = s.deep := by
  unfold State.ceiling
  split
  · exact State.deep_updCtl _ _ rfl
  · rfl
@[simp] theorem State.deep_withStatus (d : GReg) (r : State × W32) : (withStatus d r).deep = r.1.deep :=
  State.deep_putNext _ _ (by simp)
@[simp] theorem State.deep_sheepBark (s : State) (src : Nat) (v : W32) : (s.sheepBark src v).deep = s.deep := by
  simp [State.sheepBark]
@[simp] theorem State.deep_kstOp (s : State) (a : GReg) (dest : KDest) (typ : BitVec 8) : (s.kstOp a dest typ).deep = s.deep := by
  unfold State.kstOp
  dsimp only
  rw [State.deep_nextPc, State.deep_updKn]
  simp
@[simp] theorem State.deep_haltHere (s : State) (b : Bool) : (s.haltHere b).deep = s.deep := by
  unfold State.haltHere
  split
  · exact State.deep_updSheep _ _ rfl
  · rfl
@[simp] theorem State.deep_endWait (s : State) (w : WaitOp) (b : Nat) : (s.endWait w b).deep = s.deep := by
  unfold State.endWait
  rw [State.deep_haltHere]
  exact State.deep_putNext _ _ (Sheep.put_zero _ _ _)
@[simp] theorem State.deep_beginWait (s : State) (w : WaitOp) : (s.beginWait w).deep = s.deep := by
  unfold State.beginWait
  split
  · simp
  · exact State.deep_updSheep _ _ rfl
@[simp] theorem State.deep_waitOver (s : State) : s.waitOver.deep = s.deep := by
  unfold State.waitOver
  try dsimp only
  repeat' split
  all_goals simp
/-- The end of a REG. -/
@[simp] theorem State.deep_regDone (s : State) (r : RpRsp) : (s.regDone r).deep = s.deep := by
  unfold State.regDone
  split
  · rfl
  · rename_i op _
    dsimp only
    rw [State.deep_haltHere, State.deep_putNext]
    rw [Sheep.put_zero]
    show (if op.wr = true then s.kn.sheep else s.kn.sheep.putPair op.d r.data).g[0] = _
    split
    · rfl
    · exact Sheep.putPair_zero _ _ _
/-- REG may end in an access of any register. -/
theorem keeps_regOp (s : State) (d a b : GReg) (wr : Bool) : Keeps s (s.regOp d a b wr) := by
  unfold State.regOp
  dsimp only
  split
  · exact Keeps.ofDeep (State.deep_sheepFault _ _)
  · generalize acc8 wr _ 0 (s.kn.sheep.pair d) = acc
    split
    · exact Keeps.ofDeep (by rw [State.deep_takenBy, State.deep_updSheep _ _ rfl])
    · generalize s.kn.sheep.regWait.getD _ = op
      have k := Keeps.updSheep s (fun h => { h with regWait := some op }) (fun h => h)
      generalize (s.updSheep fun h => { h with regWait := some op }) = t at k ⊢
      have k := k.trans ((keeps_access t .sheep acc).trans (keeps_keepRsp _ (src := .sheep) (by simp) (t.access .sheep acc).2.1 (t.access .sheep acc).2.2))
      generalize ((t.access .sheep acc).1.keepRsp .sheep (t.access .sheep acc).2.1 (t.access .sheep acc).2.2) = u at k ⊢
      have k : Keeps s (u.updRp fun p => { p with taken := none }) := k.thenDeep rfl
      split
      · exact k.thenDeep (State.deep_regDone _ _)
      · exact k
/-! ### What waits goes on -/

theorem keeps_regPoll (s : State) : Keeps s s.regPoll := by
  unfold State.regPoll
  split
  · exact Keeps.ite (keeps_regOp _ _ _ _ _) (Keeps.refl s)
  · exact Keeps.ite (Keeps.ofDeep rfl) (Keeps.refl s)
theorem keeps_takenPoll (s : State) : Keeps s s.takenPoll := by
  unfold State.takenPoll
  split
  · exact keeps_regPoll s
  · exact keeps_dbgPoll s
  · exact Keeps.refl s
theorem keeps_payOwed (s : State) : Keeps s s.payOwed := by
  unfold State.payOwed
  split
  · exact Keeps.refl s
  · split
    · exact Keeps.refl s
    · dsimp only
      have k (l) : Keeps s (s.updRp fun p => { p with owed := none, rsp := l }) :=
        ⟨rfl, rfl, id, id, by simp [RegPort.outstanding, State.updRp, State.updCtl]⟩
      exact Keeps.ite ((k _).thenDeep (State.deep_regDone _ _)) (k _)
/-- Whatever waited goes on. -/
theorem pkeeps_release (s : State) : PKeeps s s.release := by
  unfold State.release
  split
  · exact PKeeps.refl s
  · exact ((((keeps_payOwed s).trans (keeps_takenPoll _)).port.trans (pkeeps_drainHeld _)).trans (keeps_regPoll _).port).trans (keeps_dbgPoll _).port

/-! ### The rest -/

theorem keeps_instr (s : State) (enc : BitVec 36) (bad : Option SFault) (f : State → State) (h : Keeps s (f s)) :
    Keeps s (s.instr enc bad f) := by
  unfold State.instr
  split
  · split
    · exact Keeps.ofDeep (State.deep_sheepFault _ _)
    · exact h
  · exact Keeps.refl s
@[simp] theorem State.deep_romEpoch (s : State) : s.romEpoch.deep = s.deep := by
  unfold State.romEpoch
  dsimp only
  have grants : ∀ (l : List Nat) (v : Nat) (s : State), (l.foldl (fun s n => (s.grantTo n v).1) s).deep = s.deep :=
    fun l v s => State.deep_foldl _ (fun s n => State.deep_grantTo s n v) l s
  have barks : ∀ (l : List Nat) (s : State), (l.foldl (fun s i => s.sheepBark 2 (BitVec.ofNat 32 i)) s).deep = s.deep :=
    fun l s => State.deep_foldl _ (fun s n => State.deep_sheepBark s 2 _) l s
  split
  · split
    · rw [barks, State.deep_updSheep, State.deep_updCtl, grants] <;> dsimp only
    · apply State.deep_ite
      · rw [State.deep_sheepBark]
        apply State.deep_ite
        · rw [State.deep_sheepBark, State.deep_updSheep, barks, State.deep_updSheep, State.deep_updCtl, grants] <;> dsimp only
        · rw [State.deep_updSheep, barks, State.deep_updSheep, State.deep_updCtl, grants] <;> dsimp only
      · apply State.deep_ite
        · rw [State.deep_sheepBark, State.deep_updSheep, barks, State.deep_updSheep, State.deep_updCtl, grants] <;> dsimp only
        · rw [State.deep_updSheep, barks, State.deep_updSheep, State.deep_updCtl, grants] <;> dsimp only
  · rfl
@[simp] theorem State.deep_kennelTokens (s : State) : s.kennelTokens.deep = s.deep := by
  unfold State.kennelTokens
  exact State.deep_foldl _ (fun s a => by simp) _ _
@[simp] theorem State.deep_epochBoundary (s : State) : s.epochBoundary.deep = s.deep := by
  unfold State.epochBoundary
  dsimp only
  split
  · rfl
  · rw [State.deep_romEpoch, State.deep_updSheep]
    · have h (t : State) : (if t.kn.on = true then t.kennelTokens else t).deep = t.deep := by
        split <;> simp
      rw [h, State.deep_onAll, State.deep_mapSlices, State.deep_updCtl]
      dsimp only
    · dsimp only

end Sys2Proof.Machine
end

