-- ==== Sys2Proof/Laws/KeepsNet.lean ====
section
/-! SUPPORT. The Kennel's and the control island's network interfaces, DORMANT service, start-up, the Kennel store and the sensors leave
the queue, the thermal-trip pin, GLB_LOCK, g[0] and the register port's accesses alone. -/

namespace Sys2Proof.Machine

@[simp] theorem State.deep_netCnt (s : State) (i j k : Nat) : (s.netCnt i j k).deep = s.deep := by
  unfold State.netCnt
  split
  · exact State.deep_updKn _ _ rfl
  · exact State.deep_updCtl _ _ rfl
@[simp] theorem State.deep_netRec (s : State) (i sub : Nat) (data : List Word) : (s.netRec i sub data).deep = s.deep := by
  simp [State.netRec]
@[simp] theorem State.deep_setRsends (s : State) (i : Nat) (l : List ResendWait) : (s.setRsends i l).deep = s.deep := by
  unfold State.setRsends
  split
  · exact State.deep_updKn _ _ rfl
  · exact State.deep_updCtl _ _ rfl
@[simp] theorem State.deep_netUnexpected (s : State) (i : Nat) (m : Msg) : (s.netUnexpected i m).deep = s.deep := by
  unfold State.netUnexpected
  try dsimp only
  repeat' split
  all_goals simp
@[simp] theorem State.deep_knlCredit (s : State) (c : Bool) (a : Nat) : (s.knlCredit c a).deep = s.deep := by
  unfold State.knlCredit
  dsimp only
  rw [State.deep_token, State.deep_updKn]
  rfl
@[simp] theorem State.deep_knlFree (s : State) (r : Req) : (s.knlFree r).deep = s.deep := by
  simp [State.knlFree]
@[simp] theorem State.deep_knlError (s : State) (r : Req) (c : Nat) (q : Bool) : (s.knlError r c q).deep = s.deep := by
  simp [State.knlError]
@[simp] theorem State.deep_knlErrorM (s : State) (m : Msg) (c : Nat) : (s.knlErrorM m c).deep = s.deep := by
  simp [State.knlErrorM]
@[simp] theorem State.deep_knlRetry (s : State) (r : Req) (b : Nat) : (s.knlRetry r b).deep = s.deep := by
  simp [State.knlRetry]
@[simp] theorem State.deep_netPkt (s : State) (i : Nat) (p : Pkt) : (s.netPkt i p).1.deep = s.deep := by
  unfold State.netPkt
  dsimp only
  generalize (if i = 66 then netCheck s.sh .kennel kennelNode p else netCheck s.sh .ctl ctlNode p) = res
  have h1 : (if netCorrected p = 0 then s else s.netCnt i 0 (netCorrected p)).deep = s.deep := State.deep_ite rfl (by simp)
  generalize (if netCorrected p = 0 then s else s.netCnt i 0 (netCorrected p)) = s1 at h1
  have h2 : (if w1Ignored p res = true then s1.netCnt i 2 else s1).deep = s.deep := State.deep_ite (by simp [h1]) h1
  generalize (if w1Ignored p res = true then s1.netCnt i 2 else s1) = s2 at h2
  split
  · simp [h2]
  · simp [h2]
  · dsimp only
    exact State.deep_ite (by simp [h2]) (by simp [h2])
  · simp [h2]
  · split
    · dsimp only
      exact State.deep_ite (by simp [h2]) (by simp [h2])
    · split
      · simp [h2]
      · dsimp only
        rw [State.deep_setRsends]
        exact State.deep_ite (by simp [h2]) (by simp [h2])
  · exact h2
  · exact h2
@[simp] theorem State.deep_netResend (s : State) (i : Nat) (m : Msg) : (s.netResend i m).deep = s.deep := by
  unfold State.netResend
  dsimp only
  split <;> simp
@[simp] theorem State.deep_knlRefuse (s : State) (r : Req) (c k w : Nat) (n : Bool) : (s.knlRefuse r c k w n).deep = s.deep := by
  unfold State.knlRefuse
  dsimp only
  split <;> simp
@[simp] theorem State.deep_knlWake (s : State) (r : Req) : (s.knlWake r).deep = s.deep := by
  unfold State.knlWake
  dsimp only
  have h (s : State) : (s.updKn fun k => { k with wakes := satInc k.wakes }).deep = s.deep := State.deep_updKn _ _ rfl
  have h2 (s : State) : (s.updSheep fun x => { x with latch := x.latch ||| 2 }).deep = s.deep := State.deep_updSheep _ _ rfl
  split
  · cases e : State.wantRun _ with
    | none => rw [Option.getD_none, State.deep_knlRetry, h2, h]
    | some u => rw [Option.getD_some, State.deep_wantRun e, State.deep_knlRetry, h2, h]
  · rw [State.deep_knlRetry, h2, h]
@[simp] theorem State.deep_knlCount (s : State) (r : Req) : (s.knlCount r).deep = s.deep := State.deep_updKn _ _ rfl
@[simp] theorem State.deep_knlSend (s : State) : s.knlSend.deep = s.deep := by
  unfold State.knlSend
  apply State.deep_foldl
  intro t x
  split
  · rfl
  · rw [State.deep_updKn, State.deep_send]
    rfl
@[simp] theorem State.deep_knlServe (s : State) (r : Req) : (s.knlServe r).deep = s.deep := by
  unfold State.knlServe
  split
  · simp
  · split
    · simp
    · dsimp only
      rw [State.deep_knlSend, State.deep_knlFree, State.deep_updKn]
      rfl
@[simp] theorem State.deep_knlDecide (s : State) (r : Req) : (s.knlDecide r).deep = s.deep := by
  unfold State.knlDecide
  split
  · simp
  · simp
  · dsimp only
    refine State.deep_ite ?_ (State.deep_ite ?_ (State.deep_ite ?_ ?_))
    · rw [State.deep_knlWake, State.deep_knlCount]
    · rw [State.deep_knlServe, State.deep_knlCount]
    · rw [State.deep_knlServe, State.deep_knlCount]
    · rw [State.deep_knlWake, State.deep_knlCount]
@[simp] theorem State.deep_knlRequest (s : State) (p : Pkt) : (s.knlRequest p).deep = s.deep := by
  unfold State.knlRequest
  split
  · rfl
  · have h := State.deep_netPkt s 66 p
    generalize s.netPkt 66 p = x at h
    obtain ⟨t, o⟩ := x
    dsimp only at h ⊢
    cases o with
    | none => exact h
    | some y =>
      obtain ⟨m, full⟩ := y
      dsimp only
      split
      · exact h
      · refine State.deep_ite ?_ (State.deep_ite ?_ (State.deep_ite ?_ (State.deep_ite ?_ ?_)))
        · rw [State.deep_knlFree]
          exact State.deep_ite (by rw [State.deep_knlCount, h]) h
        · rw [State.deep_knlError, State.deep_ledgerEv, h]
        · rw [State.deep_knlError, h]
        · rw [State.deep_knlRetry, h]
        · rw [State.deep_knlDecide, h]
@[simp] theorem State.deep_knlPlate (s : State) (m : Msg) : (s.knlPlate m).deep = s.deep := by
  unfold State.knlPlate
  have h := State.deep_plateData s m
  generalize s.plateData m = x at h
  obtain ⟨t, b⟩ := x
  cases b
  · simpa using h
  · exact h
@[simp] theorem State.deep_knlMemRsp (s : State) (m : Msg) : (s.knlMemRsp m).deep = s.deep := by
  unfold State.knlMemRsp
  split
  · simp
  · split
    · rfl
    · dsimp only
      rw [State.deep_plateIssue, State.deep_knlSend, State.deep_send, State.deep_updKn]
      · apply State.deep_ite
        · rw [State.deep_knlEvent, State.deep_updKn]
          rfl
        · rfl
      · rfl
@[simp] theorem State.deep_rateWindow (s : State) : s.rateWindow.deep = s.deep := by
  unfold State.rateWindow
  split
  · exact State.deep_updKn _ _ rfl
  · rfl
@[simp] theorem State.deep_knlMemLate (s : State) (tx : Nat) : (s.knlMemLate tx).deep = s.deep := by
  unfold State.knlMemLate
  dsimp only
  split
  · rfl
  · rw [State.deep_updKn, State.deep_netRec]
    rfl
@[simp] theorem State.deep_netGiveUp (s : State) (i k : Nat) : (s.netGiveUp i k).deep = s.deep := by
  unfold State.netGiveUp
  dsimp only
  split
  · rfl
  · split
    · simp
    · split
      · simp
      · split
        · split
          · split <;> simp
          · simp
        · split <;> simp
@[simp] theorem State.deep_ldgAnswer (s : State) (b : RBlk) : (s.ldgAnswer b).deep = s.deep := by simp [State.ldgAnswer]
@[simp] theorem State.deep_ldgMemRsp (s : State) (m : Msg) : (s.ldgMemRsp m).deep = s.deep := by
  unfold State.ldgMemRsp
  dsimp only
  repeat' split
  all_goals simp
@[simp] theorem State.deep_ldgData (s : State) (m : Msg) : (s.ldgData m).deep = s.deep := by
  unfold State.ldgData
  repeat' split
  all_goals simp
@[simp] theorem State.deep_ldgTimeout (s : State) (tx : Nat) : (s.ldgTimeout tx).deep = s.deep := by
  unfold State.ldgTimeout
  split <;> simp
@[simp] theorem State.deep_ctlPkt (s : State) (p : Pkt) : (s.ctlPkt p).deep = s.deep := by
  unfold State.ctlPkt
  split
  · rfl
  · have h := State.deep_netPkt s 67 p
    generalize s.netPkt 67 p = x at h
    obtain ⟨t, o⟩ := x
    dsimp only at h ⊢
    rcases o with _ | ⟨m, _ | _⟩
    · exact h
    · exact h
    · dsimp only
      split <;> simp [h]
@[simp] theorem State.deep_knlPkt (s : State) (p : Pkt) : (s.knlPkt p).deep = s.deep := by
  unfold State.knlPkt
  split
  · rfl
  · have h := State.deep_netPkt s 66 p
    generalize s.netPkt 66 p = x at h
    obtain ⟨t, o⟩ := x
    dsimp only at h ⊢
    rcases o with _ | ⟨m, _ | _⟩
    · exact h
    · exact h
    · dsimp only
      split <;> simp [h]

/-! ### Start-up, the store and the sensors -/

@[simp] theorem State.deep_bootStep (s : State) (n p : Nat) : (s.bootStep n p).deep = s.deep := State.deep_updMs _ _
@[simp] theorem State.deep_bootRomDone (s : State) : s.bootRomDone.deep = s.deep := by
  unfold State.bootRomDone
  split
  · dsimp only
    rw [State.deep_bootStep, State.deep_clearScent, State.deep_updSheep]
    dsimp only
  · rfl
@[simp] theorem State.deep_fuseMapRead (s : State) : s.fuseMapRead.deep = s.deep := by
  unfold State.fuseMapRead
  repeat' split
  all_goals first
    | rfl
    | (simp; done)
    | (rw [State.deep_updKn]; rfl)
@[simp] theorem State.deep_calibrationCheck (s : State) : s.calibrationCheck.deep = s.deep := by
  unfold State.calibrationCheck
  dsimp only
  split
  · apply State.deep_ite
    · rw [State.deep_bootStep, State.deep_updKn _ _ rfl, State.deep_storeUsed, State.deep_storeUsed]
    · rw [State.deep_knlEvent, State.deep_bootStep, State.deep_updKn _ _ rfl, State.deep_storeUsed, State.deep_storeUsed]
  · rfl
@[simp] theorem State.deep_calibWords (s : State) : s.calibWords.deep = s.deep := by
  unfold State.calibWords
  dsimp only
  split
  · rw [State.deep_updKn _ _ rfl, State.deep_storeUsed]
  · rw [State.deep_updKn _ _ rfl, State.deep_storeUsed]
@[simp] theorem State.deep_calibHeader (s : State) : s.calibHeader.deep = s.deep := by
  unfold State.calibHeader
  apply State.deep_updKn
  dsimp only
  rw [Kennel.sheep_foldl]
  intro k j
  rfl
theorem keeps_wordDone (s : State) (p : PWord) : Keeps s (s.wordDone p) := by
  unfold State.wordDone
  dsimp only
  split
  · exact Keeps.ofDeep (State.deep_updKn _ _ (by simp))
  · exact Keeps.ofDeep (State.deep_updKn _ _ (by simp))
  · exact Keeps.refl s
  · exact Keeps.ite (Keeps.ofDeep (by simp)) (Keeps.refl s)
  · exact Keeps.ite (Keeps.ofDeep (by simp)) (Keeps.refl s)
  · exact Keeps.refl s
  · exact Keeps.ite (keeps_plateCurrent s _) (Keeps.refl s)
  · exact Keeps.ite (Keeps.ofDeep (State.deep_updPlate s _)) (Keeps.refl s)
  · exact Keeps.refl s
@[simp] theorem State.deep_wordLost (s : State) (p : PWord) : (s.wordLost p).deep = s.deep := by
  unfold State.wordLost
  dsimp only
  have lost (s : State) (f : Kennel → Kennel) (h : (f s.kn).sheep = s.kn.sheep) : (s.updKn f).deep = s.deep := State.deep_updKn s f (by rw [h])
  split
  · simp
  · rw [State.deep_plateNote, State.deep_updPlate]
    exact State.deep_updKn _ _ rfl
  · rw [State.deep_plateNote, State.deep_updPlate]
    exact State.deep_updKn _ _ rfl
  · simp
  · exact lost s _ (Kennel.identLost_sheep _ _ _)
  · exact lost s _ (Kennel.identLost_sheep _ _ _)
  · rw [State.deep_updKn _ _ (by simp)]
    exact State.deep_updKn _ _ rfl
  · rw [State.deep_updKn _ _ (by simp)]
    exact State.deep_updKn _ _ rfl
  · exact State.deep_updKn _ _ rfl
@[simp] theorem Kennel.copyBlock_sheep (k : Kennel) (a b : Nat) : (k.copyBlock a b).sheep = k.sheep := by
  unfold Kennel.copyBlock
  apply Kennel.sheep_foldl
  intro k j
  dsimp only
  split <;> rfl
@[simp] theorem Kennel.remapped_sheep (k : Kennel) (a b : Nat) (p : PWord) : (k.remapped a b p).sheep = k.sheep := rfl
@[simp] theorem State.deep_remapBlock (s : State) (p : PWord) : (s.remapBlock p).deep = s.deep := by
  unfold State.remapBlock
  dsimp only
  split
  · rw [State.deep_kst, State.deep_updKn]
    exact (Kennel.remapped_sheep _ _ _ _).trans (Kennel.copyBlock_sheep _ _ _)
  · rw [State.deep_wordLost, State.deep_bark, State.deep_updKn]
    rfl
@[simp] theorem Kennel.storePut_sheep (k : Kennel) (i : Nat) (w : W72) : (k.storePut i w).sheep = k.sheep := by
  unfold Kennel.storePut
  dsimp only
theorem keeps_wordProgrammed (s : State) (ok : Bool) : Keeps s (s.wordProgrammed ok) := by
  unfold State.wordProgrammed
  dsimp only
  split
  · exact Keeps.refl s
  · split
    · exact Keeps.refl s
    · split
      · exact Keeps.ofDeep (State.deep_wordLost _ _)
      · split
        · refine Keeps.trans (Keeps.ofDeep ?_) (keeps_wordDone _ _)
          rw [State.deep_updKn, State.deep_updKn]
          · exact Kennel.storePut_sheep _ _ _
          · dsimp only
        · split
          · apply Keeps.ofDeep
            rw [State.deep_updKn, State.deep_updKn]
            · dsimp only
              exact Kennel.storePut_sheep _ _ _
            · dsimp only
          · apply Keeps.ofDeep
            rw [State.deep_remapBlock, State.deep_updKn]
            dsimp only
            exact Kennel.storePut_sheep _ _ _
@[simp] theorem State.deep_calibOverwrite (s : State) : s.calibOverwrite.deep = s.deep := by
  unfold State.calibOverwrite
  dsimp only
  split
  · exact State.deep_updKn _ _ rfl
  · rfl
@[simp] theorem State.deep_thermalConversion (s : State) (i : Nat) (raw : BitVec 16) : (s.thermalConversion i raw).deep = s.deep := by
  unfold State.thermalConversion
  dsimp only
  split
  · rfl
  · rw [State.deep_updSheep, State.deep_updKn] <;> rfl
@[simp] theorem State.deep_pmbusPoll (s : State) (r : Nat) : (s.pmbusPoll r).deep = s.deep := by
  unfold State.pmbusPoll
  split
  · exact State.deep_updKn _ _ rfl
  · rfl
@[simp] theorem State.deep_pmbusDone (s : State) (r : Nat) (ok : Bool) (w : BitVec 16) : (s.pmbusDone r ok w).deep = s.deep := by
  unfold State.pmbusDone
  dsimp only
  split
  · rfl
  · split
    · rfl
    · apply State.deep_ite
      · rw [State.deep_knlEvent, State.deep_updKn]
        rfl
      · exact State.deep_updKn _ _ rfl
@[simp] theorem State.deep_storeScrub (s : State) : s.storeScrub.deep = s.deep := by
  unfold State.storeScrub
  dsimp only
  split
  · rfl
  · rw [State.deep_updSheep, State.deep_updKn] <;> rfl
/-- Rewriting a copy of the program store leaves the registers alone. -/
@[simp] theorem Sheep.fixProg_g (h : Sheep) : h.fixProg.g = h.g := by
  unfold Sheep.fixProg
  generalize ((h.prog0.map (·.1)) ++ (h.prog1.map (·.1))).eraseDups = l
  induction l generalizing h with
  | nil => rfl
  | cons i l ih =>
    rw [List.foldl_cons, ih]
    dsimp only
    split
    · rfl
    · split <;> rfl
@[simp] theorem State.deep_kennelScrub (s : State) : s.kennelScrub.deep = s.deep := by
  unfold State.kennelScrub
  dsimp only
  split
  · rfl
  · rw [State.deep_storeScrub]
    apply State.deep_ite
    · rfl
    · rw [State.deep_updKn, State.deep_updSheep]
      · rw [Sheep.fixProg_g]
      · rfl
@[simp] theorem Kennel.lifeWrite_sheep (k : Kennel) (now : Nat) : (k.lifeWrite now).sheep = k.sheep :=
  Kennel.identWrite_sheep _ _ _ _ _ _
@[simp] theorem State.deep_lifeRecord (s : State) : s.lifeRecord.deep = s.deep := by
  unfold State.lifeRecord
  split
  · exact State.deep_updKn _ _ rfl
  · rfl
@[simp] theorem State.deep_islandSlow (s : State) (i mhz : Nat) : (s.islandSlow i mhz).deep = s.deep := by
  unfold State.islandSlow
  dsimp only
  refine State.deep_ite ?_ rfl
  rw [State.deep_bark, State.deep_ledgerEv]
  exact State.deep_ite (State.deep_updCtl _ _ rfl) rfl
@[simp] theorem State.deep_irqTransfer (s : State) : s.irqTransfer.deep = s.deep := by
  unfold State.irqTransfer
  split
  · rfl
  · split <;> simp
@[simp] theorem State.deep_irqDropped (s : State) : s.irqDropped.deep = s.deep := by
  unfold State.irqDropped
  split
  · rfl
  · split <;> simp
@[simp] theorem State.deep_debugRead (s : State) : s.debugRead.deep = s.deep := by
  unfold State.debugRead
  split
  · rfl
  · dsimp only
    split
    · rfl
    · rw [State.deep_updFrz, State.deep_updSlice]
      exact State.deep_ite (by simp) rfl
theorem pkeeps_islandReady (s : State) : PKeeps s s.islandReady := by
  unfold State.islandReady
  dsimp only
  split
  · refine PKeeps.trans (PKeeps.ofDeep ?_) (pkeeps_release _)
    rw [State.deep_deliverBarks, State.deep_updLdg, State.deep_updCtl] <;> rfl
  · exact PKeeps.refl s

/-! ### Time, and the cold reset -/

@[simp] theorem State.deep_sysIdleNext (s : State) : s.sysIdleNext.deep = s.deep := by
  unfold State.sysIdleNext
  rw [State.deep_updKn _ _ rfl, State.deep_updPins _ _ rfl]
theorem pkeeps_tick (s : State) : PKeeps s s.tick := by
  unfold State.tick
  split
  · exact PKeeps.refl s
  split
  · exact PKeeps.ofDeep (by simp)
  · refine PKeeps.trans (PKeeps.ofDeep ?_) (pkeeps_release _)
    rw [State.deep_sheepTick, State.deep_sysIdleNext, State.deep_updKn, State.deep_updSh]
    simp

end Sys2Proof.Machine
end

