-- ==== Sys2Proof/Laws/KeepsCmds.lean ====
section
/-! SUPPORT. The frames of the commands: what a slice's events, its arrivals, the slice link's messages and the control island's events
keep, whatever they do. -/

namespace Sys2Proof.Machine

theorem PKeeps.ite {c : Prop} [Decidable c] {s a b : State} (ha : PKeeps s a) (hb : PKeeps s b) : PKeeps s (if c then a else b) := by
  split
  · exact ha
  · exact hb
/-- What waits is released after a change that leaves these alone. -/
theorem pkeeps_thenRelease {s t : State} (h : t.deep = s.deep) : PKeeps s t.release := (PKeeps.ofDeep h).trans (pkeeps_release _)
@[simp] theorem State.deep_inSlice (s : State) (n : Nat) (f : Shared → Work → Work) : (s.inSlice n f).deep = s.deep := by
  unfold State.inSlice
  apply State.deep_unlessFrozen
  split <;> simp
@[simp] theorem State.deep_arrives (s : State) (n : Nat) (f : Shared → Work → Work) : (s.arrives n f).deep = s.deep := by
  unfold State.arrives
  apply State.deep_unlessFrozen
  simp
@[simp] theorem State.deep_deliver {α : Type} (s : State) (n : Nat) (f : Link → Option α) (act : Shared → α → Work → Work) :
    (s.deliver n f act).deep = s.deep := by
  unfold State.deliver
  apply State.deep_unlessFrozen
  repeat' split
  all_goals simp
@[simp] theorem State.deep_syncReport (s : State) (n : Nat) (m : MSync) : (s.syncReport n m).deep = s.deep := by
  unfold State.syncReport
  rw [State.deep_onSlice, State.deep_updSlice]
theorem pkeeps_onIsland (s : State) (f : State → State) (h : PKeeps s (f s)) : PKeeps s (s.onIsland f) := by
  unfold State.onIsland
  exact PKeeps.unlessFrozen (PKeeps.ite h (PKeeps.refl s))
@[simp] theorem State.deep_pmbusCut (s : State) : s.pmbusCut.deep = s.deep := by
  unfold State.pmbusCut
  split <;> simp
@[simp] theorem State.deep_tapIr (s : State) (c : BitVec 8) : (s.tapIr c).deep = s.deep := State.deep_updFrz _ _
theorem pkeeps_tapUpdate (s : State) (v : Word) : PKeeps s (s.tapUpdate v) := by
  unfold State.tapUpdate
  exact PKeeps.ite (pkeeps_thenRelease (by simp)) (PKeeps.refl s)
theorem keeps_tapDebug (s : State) (v : Word) : Keeps s (s.tapDebug v) := by
  unfold State.tapDebug
  exact Keeps.ite ((Keeps.ofDeep (State.deep_tapIr s _)).trans (keeps_dbgdr _ _)) (Keeps.refl s)
theorem keeps_beginRun (s : State) : Keeps s s.beginRun := by
  unfold State.beginRun
  dsimp only
  refine Keeps.trans ?_ (keeps_startSheep _ _)
  refine Keeps.trans (Keeps.ofDeep ?_) (Keeps.updSheep _ _ (fun h => h))
  rw [State.deep_enter, State.deep_updCtl, State.deep_mapSlices] <;> dsimp only
theorem keeps_creditWave (s : State) : Keeps s s.creditWave := by
  unfold State.creditWave
  dsimp only
  refine Keeps.ite (Keeps.ite ?_ (Keeps.refl s)) (Keeps.ite ?_ (Keeps.refl s))
  · refine (keeps_beginRun s).thenDeep ?_
    rw [State.deep_takeFailed, State.deep_updMs, State.deep_releaseWave]
  · apply Keeps.ofDeep
    rw [State.deep_updMs, State.deep_releaseWave]

end Sys2Proof.Machine
end

