-- ==== Sys2Proof/Laws/Memory.lean ====
section
/-! SUPPORT. The arrays keep their canonical form, a read after a write gives what was written, and a write leaves every other
place alone; the same for the sparse tables. -/

namespace Sys2Proof.Machine

/-! ### Arrays of native words -/

/-- A lower bound may be lowered. -/
theorem Memory.wfFrom_mono {m : Memory} {lo lo' : Nat} (h : Memory.wfFrom lo m = true) (hl : lo' ≤ lo) :
    Memory.wfFrom lo' m = true := by
  cases m with
  | nil => rfl
  | cons x m =>
    obtain ⟨b, w⟩ := x
    simp only [Memory.wfFrom, Bool.and_eq_true, decide_eq_true_eq] at h ⊢
    exact ⟨⟨by omega, h.1.2⟩, h.2⟩

/-- An insertion of a word that is not blank keeps the form. -/
theorem Memory.wfFrom_insert {m : Memory} {lo a : Nat} {w : W72} (h : Memory.wfFrom lo m = true) (ha : lo ≤ a)
    (hw : w ≠ Memory.blank a) : Memory.wfFrom lo (Memory.insert m a w) = true := by
  induction m generalizing lo with
  | nil => simp [Memory.insert, Memory.wfFrom, ha, hw]
  | cons x m ih =>
    obtain ⟨b, v⟩ := x
    simp only [Memory.wfFrom, Bool.and_eq_true, decide_eq_true_eq] at h
    unfold Memory.insert
    split
    · simp only [Memory.wfFrom, Bool.and_eq_true, decide_eq_true_eq]
      exact ⟨⟨ha, hw⟩, ⟨by omega, h.1.2⟩, h.2⟩
    · split
      · rename_i e
        subst e
        simp only [Memory.wfFrom, Bool.and_eq_true, decide_eq_true_eq]
        exact ⟨⟨ha, hw⟩, h.2⟩
      · simp only [Memory.wfFrom, Bool.and_eq_true, decide_eq_true_eq]
        exact ⟨h.1, ih h.2 (by omega)⟩

/-- An erasure keeps the form. -/
theorem Memory.wfFrom_erase {m : Memory} {lo a : Nat} (h : Memory.wfFrom lo m = true) :
    Memory.wfFrom lo (Memory.erase m a) = true := by
  induction m generalizing lo with
  | nil => rfl
  | cons x m ih =>
    obtain ⟨b, v⟩ := x
    simp only [Memory.wfFrom, Bool.and_eq_true, decide_eq_true_eq] at h
    unfold Memory.erase
    split
    · exact Memory.wfFrom_mono (ih h.2) (by omega)
    · simp only [Memory.wfFrom, Bool.and_eq_true, decide_eq_true_eq]
      exact ⟨h.1, ih h.2⟩

/-- A write keeps the canonical form. -/
theorem Memory.wf_write {m : Memory} (h : m.wf = true) (a : Nat) (w : W72) : (m.write a w).wf = true := by
  unfold Memory.write Memory.wf at *
  split
  · exact Memory.wfFrom_erase h
  · exact Memory.wfFrom_insert h (Nat.zero_le a) ‹_›

/-- Several writes keep the canonical form. -/
theorem Memory.wf_writeList {m : Memory} (h : m.wf = true) (a : Nat) (ws : List W72) : (m.writeList a ws).wf = true := by
  induction ws generalizing m a with
  | nil => exact h
  | cons w ws ih => exact ih (Memory.wf_write h a w) (a + 1)

/-- Nothing listed below the bound: such an address reads blank. -/
theorem Memory.read_below {m : Memory} {lo a : Nat} (h : Memory.wfFrom lo m = true) (ha : a < lo) : m.read a = Memory.blank a := by
  induction m generalizing lo with
  | nil => rfl
  | cons x m ih =>
    obtain ⟨b, v⟩ := x
    simp only [Memory.wfFrom, Bool.and_eq_true, decide_eq_true_eq] at h
    simp only [Memory.read]
    rw [if_neg (by omega)]
    exact ih h.2 (by omega)

theorem Memory.read_insert_same (m : Memory) (a : Nat) (w : W72) : (Memory.insert m a w).read a = w := by
  induction m with
  | nil => simp [Memory.insert, Memory.read]
  | cons x m ih =>
    obtain ⟨b, v⟩ := x
    unfold Memory.insert
    split
    · simp [Memory.read]
    · split
      · simp [Memory.read]
      · rename_i h
        simp [Memory.read, h, ih]

theorem Memory.read_insert_ne (m : Memory) {a c : Nat} (w : W72) (h : c ≠ a) : (Memory.insert m a w).read c = m.read c := by
  induction m with
  | nil => simp [Memory.insert, Memory.read, h]
  | cons x m ih =>
    obtain ⟨b, v⟩ := x
    unfold Memory.insert
    split
    · simp [Memory.read, h]
    · split
      · rename_i e
        subst e
        simp [Memory.read, h]
      · simp [Memory.read, ih]

theorem Memory.read_erase_same (m : Memory) (a : Nat) : (Memory.erase m a).read a = Memory.blank a := by
  induction m with
  | nil => rfl
  | cons x m ih =>
    obtain ⟨b, v⟩ := x
    unfold Memory.erase
    split
    · exact ih
    · rename_i e
      simp [Memory.read, e, ih]

theorem Memory.read_erase_ne (m : Memory) {a c : Nat} (h : c ≠ a) : (Memory.erase m a).read c = m.read c := by
  induction m with
  | nil => rfl
  | cons x m ih =>
    obtain ⟨b, v⟩ := x
    unfold Memory.erase
    split
    · rename_i e
      subst e
      simp [Memory.read, h, ih]
    · simp [Memory.read, ih]

/-- A read after a write to the same address gives the word written. -/
theorem Memory.read_write_same (m : Memory) (a : Nat) (w : W72) : (m.write a w).read a = w := by
  unfold Memory.write
  split
  · rename_i e
    rw [Memory.read_erase_same, e]
  · exact Memory.read_insert_same m a w

/-- A write leaves every other address alone. -/
theorem Memory.read_write_ne (m : Memory) {a c : Nat} (w : W72) (h : c ≠ a) : (m.write a w).read c = m.read c := by
  unfold Memory.write
  split
  · exact Memory.read_erase_ne m h
  · exact Memory.read_insert_ne m w h

/-- Every array of the machine after reset has the canonical form. -/
theorem State.reset_mem_wf (n : Nat) : (State.reset.slice n).mem.wf = true := by
  unfold State.slice State.reset
  split
  · simp [blankSlices]; rfl
  · rfl

/-- A slice's store keeps the canonical form of its arrays. -/
theorem Slice.store_wf {x : Slice} (h : x.mem.wf = true) (a : Nat) (w : W72) : (x.store a w).mem.wf = true := Memory.wf_write h _ _

/-- A slice's store changes nothing but its arrays and the list of words that cannot be read. -/
theorem Slice.store_frame (x : Slice) (a : Nat) (w : W72) :
    x.store a w = { x with mem := (x.store a w).mem, lostWords := (x.store a w).lostWords } := rfl

/-! ### Sparse tables -/

theorem tget_tins {α : Type} (d : α) (t : List (Nat × α)) (k : Nat) (v : α) (i : Nat) :
    tget d (tins t k v) i = if i = k then v else tget d t i := by
  induction t with
  | nil => simp [tins, tget]
  | cons x t ih =>
    obtain ⟨j, y⟩ := x
    unfold tins
    split
    · simp [tget]
    · split
      · rename_i e
        subst e
        simp only [tget]
        split <;> rfl
      · rename_i e
        simp only [tget, ih]
        by_cases hi : i = j
        · have : i ≠ k := fun hk => e (hk.symm.trans hi)
          simp [hi]
          intro hjk
          exact absurd hjk.symm e
        · simp [hi]

theorem tget_tdel_ne {α : Type} (d : α) (t : List (Nat × α)) {k i : Nat} (h : i ≠ k) : tget d (tdel t k) i = tget d t i := by
  induction t with
  | nil => rfl
  | cons x t ih =>
    obtain ⟨j, y⟩ := x
    unfold tdel
    split
    · rename_i e
      subst e
      simp [tget, h, ih]
    · simp [tget, ih]

theorem tget_tdel_same {α : Type} (d : α) (t : List (Nat × α)) (k : Nat) : tget d (tdel t k) k = d := by
  induction t with
  | nil => rfl
  | cons x t ih =>
    obtain ⟨j, y⟩ := x
    unfold tdel
    split
    · exact ih
    · rename_i e
      simp [tget, e, ih]

/-- A read of a key after setting it. -/
theorem tget_tset_same {α : Type} [DecidableEq α] (d : α) (t : List (Nat × α)) (k : Nat) (v : α) : tget d (tset d t k v) k = v := by
  unfold tset
  split
  · rename_i e
    rw [tget_tdel_same, e]
  · simp [tget_tins]

/-- Setting a key of a table leaves every other key alone. -/
theorem tget_tset_ne {α : Type} [DecidableEq α] (d : α) (t : List (Nat × α)) {k i : Nat} (v : α) (h : i ≠ k) :
    tget d (tset d t k v) i = tget d t i := by
  unfold tset
  split
  · exact tget_tdel_ne d t h
  · rw [tget_tins, if_neg h]

end Sys2Proof.Machine
end

