-- ==== Sys2Proof/Laws/Port.lean ====
section
/-! SUPPORT. What an access of 4 or 8 bytes does at a free register port. -/

namespace Sys2Proof.Machine

/-- No SLC register is concerned, or its slice is not changing its power state. -/
theorem State.mustHold_free {s : State} {a : RegAcc} (h : s.portFree) (hm : s.sliceMoving a = false) : s.mustHold a = false := by
  obtain ⟨-, h2, h3, -, -, h5, -⟩ := h
  simp [State.mustHold, State.decoderOff, h2, h3, h5, hm]

/-- An access that arrives at a free register port is performed. -/
theorem State.portAccess_perform {s : State} {a : RegAcc} (h : s.portFree) (hm : s.sliceMoving a = false) :
    s.portAccess a = s.perform { acc := a } := by
  have hh := State.mustHold_free h hm
  obtain ⟨h1, -, -, -, h4, -, h6⟩ := h
  unfold State.portAccess State.portTake
  rw [if_neg (by simp [h1]), if_neg (by simp [h4, h6, hh])]

/-- A performed access whose response is not owed. -/
theorem State.portAccess_free {s : State} {a : RegAcc} (h : s.portFree) (hm : s.sliceMoving a = false)
    (ho : (s.access .port a).2.2 = []) :
    s.portAccess a = (s.access .port a).1.responded (s.access .port a).2.1 := by
  rw [State.portAccess_perform h hm]
  unfold State.perform State.keepRsp State.responded
  simp [ho]

/-- A refused access. -/
theorem State.portAccess_refused {s : State} {a : RegAcc} {c : Nat} (h : s.portFree) (hm : s.sliceMoving a = false)
    (ha : s.access .port a = s.refused .port a c) : s.portAccess a = (s.refuse .port a c).responded (errRsp a) := by
  rw [State.portAccess_free h hm (by rw [ha]; rfl), ha]
  rfl

/-- An aligned 8-byte write through the normal window, as the decoder sees it while no cold reset is held. -/
theorem State.access_write8 {s : State} {src : AccSrc} {off : Nat} {tag : BitVec 8} {v : Word} (hc : s.pins.coldRst = false)
    (h8 : off % 8 = 0) (hl : off < 0x80000) :
    s.access src (acc8 true off tag v) =
      match s.half src false true off (BitVec.allOnes 64) v with
      | .error c => s.refused src (acc8 true off tag v) c
      | .ok (u, x) => (u, { tag := tag, err := false, data := x }, s.awaitsOf off v) := by
  have e : (BitVec.ofNat 20 off).toNat = off := by simp; omega
  unfold State.access
  have e2 : accReach (acc8 true off tag v) = BitVec.allOnes 64 := by rfl
  simp only [e2]
  simp [acc8, accBadSize, h8, hc]
  rw [Nat.mod_eq_of_lt (show off < 1048576 by omega), Nat.mod_eq_of_lt (show off < 524288 by omega)]
  rw [if_neg (by omega), show decide (524288 ≤ off) = false by simp; omega]
  try (cases s.half src false true off (BitVec.allOnes 64) v <;> rfl)

end Sys2Proof.Machine
end

