-- ==== Sys2Proof/Laws/Sheep.lean ====
section
/-! SUPPORT. What the Sheepdog's shared operations do: a register written, the next instruction fetched, an instruction executed, a
fault taken. -/

namespace Sys2Proof.Machine

/-- A fetch changes the instruction held and repairs a copy of the program store, nothing else (R273). -/
theorem Sheep.fetch_eq (h : Sheep) : h.fetch = { h with
    ir := h.fetch.ir, irBad := h.fetch.irBad, prog0 := h.fetch.prog0, prog1 := h.fetch.prog1, corr := h.fetch.corr } := by
  unfold Sheep.fetch; dsimp only; (repeat' split) <;> rfl

/-- A register write leaves g0 zero and every other register alone (R270). -/
theorem Sheep.put_wrote (h : Sheep) (d : GReg) (v : W32) : h.wrote (h.put d v) d v := by
  intro r
  by_cases hd : d = 0
  · subst hd
    rw [show h.put 0 v = h from if_pos rfl, if_neg (by simp)]
  · rw [show h.put d v = { h with g := h.g.set d.toNat v } from if_neg hd]
    unfold Sheep.get
    by_cases hr : r = d
    · subst hr; rw [if_neg hd, if_pos ⟨rfl, hd⟩]; simp
    · have : d.toNat ≠ r.toNat := fun e => hr (BitVec.eq_of_toNat_eq e.symm)
      rw [if_neg (c := r = d ∧ d ≠ 0) (fun e => hr e.1)]
      by_cases h0 : r = 0 <;> simp [h0, this]

/-- A register write changes the registers alone. -/
theorem Sheep.put_eq (h : Sheep) (d : GReg) (v : W32) : h.put d v = { h with g := (h.put d v).g } := by
  unfold Sheep.put; split <;> rfl

/-- Going on at `p` sets the program counter and fetches. -/
theorem State.nextAt_only (s : State) (p : BitVec 12) :
    s.sheepOnly (s.nextAt p) ∧ (s.nextAt p).kn.sheep.pc = p ∧ (s.nextAt p).kn.sheep.g = s.kn.sheep.g := by
  have h := Sheep.fetch_eq { s.kn.sheep with pc := p }
  refine ⟨?_, ?_, ?_⟩ <;> (try unfold State.sheepOnly) <;> unfold State.nextAt State.updSheep <;> dsimp only <;> rw [h]

/-- g[d] written and the next instruction fetched. -/
theorem State.wrote_step (s : State) (d : GReg) (v : W32) : s.wrote d v ((s.updSheep fun h => h.put d v).nextPc) := by
  obtain ⟨h1, h2, h3⟩ := State.nextAt_only (s.updSheep fun h => h.put d v) ((s.updSheep fun h => h.put d v).kn.sheep.pc + 1)
  have hp : (s.updSheep fun h => h.put d v).kn.sheep.pc = s.kn.sheep.pc := by
    unfold State.updSheep Sheep.put; dsimp only; split <;> rfl
  refine ⟨fun r => ?_, by rw [State.nextPc, h2, hp], ?_⟩
  · have := Sheep.put_wrote s.kn.sheep d v r
    unfold Sheep.get at this ⊢
    rw [State.nextPc, h3]; exact this
  · unfold State.sheepOnly at h1 ⊢
    rw [State.nextPc]
    refine h1.trans ?_
    unfold State.updSheep Sheep.put; dsimp only; split <;> rfl

/-- An instruction at the program counter executes. -/
theorem State.instr_ok {s : State} {enc : BitVec 36} {f : State → State} (h : s.atIns enc) : s.instr enc none f = f s := by
  unfold State.instr
  rw [if_pos (by simp [h.1, h.2.1, h.2.2])]

/-- An instruction at the program counter that breaks a rule faults. -/
theorem State.instr_bad {s : State} {enc : BitVec 36} {f : State → State} {e : SFault} (h : s.atIns enc) :
    s.instr enc (some e) f = s.sheepFault e := by
  unfold State.instr
  rw [if_pos (by simp [h.1, h.2.1, h.2.2])]

/-- An instruction that only writes a register. -/
theorem State.instrReg_ok {s : State} {enc : BitVec 36} {d : GReg} {v : Sheep → W32} {w : W32} (h : s.atIns enc)
    (hv : v s.kn.sheep = w) :
    ∃ t, (Host.Outcome.next (s.instrReg enc none d v) : Host.Outcome State Fault Refusal) = .next t ∧ s.wrote d w t :=
  ⟨_, rfl, by rw [State.instrReg, State.instr_ok h, ← hv]; exact State.wrote_step s d _⟩

end Sys2Proof.Machine
end

