-- ==== Sys2Proof/WellFormed.lean ====
section
/-! DEFINITION. Commands that can be given: packets of the lengths that a message can have (R514, R515), a line's answer of at most two
packets, a list of journal records no longer than the journal holds, and rows that exist. -/

namespace Sys2Proof

/-- A packet as it arrives: a header and at most five units that follow it (R515). -/
def pktOk (p : Pkt) : Bool := decide (1 ≤ p.length) && decide (p.length ≤ 6)

/-- The command can be given. -/
def WellFormed : Instr → Bool
  | .requestArrival _ p | .cancel _ p | .barrier _ p | .ackInval _ p | .ackFwd _ p | .wrData _ p | .memRsp _ p | .dataFromMem _ p
  | .resend _ p | .censusReport _ p | .kennelRequest p | .kennelMemRsp p | .ledgerSpillDone p => pktOk p
  | .plateLineFetched ps | .ledgerRefill ps => decide (ps.length ≤ 2) && ps.all pktOk
  | .controlLogicFault _ _ l => decide (l.length ≤ 336)
  | .selftestDone l => l.all fun x => decide (x.2.2.toNat < Machine.bankRows x.2.1)
  | _ => true

end Sys2Proof
end

