-- ==== Sys2Proof/Tests/Slice0.lean ====
section
/-! SUPPORT. The author's own tests: commands that cannot be given, one step of each kind of command with an expected result of the manual,
and for every statement the states and operands that meet its premises. -/

namespace Sys2Proof.Tests

set_option linter.unusedVariables false
set_option Elab.async false

open Sys2Proof Sys2Proof.Machine

/-! ### A small block in RUN -/

/-- A unit as the network carries it (R514). -/
def tUnit (u : Nat) (v : Unit128) : RawUnit := ⟨encode72 (v.setWidth 64) u, encode72 ((v >>> 64).setWidth 64) (u + 8)⟩

/-- The packet of a message (R514 to R516). -/
def tPkt (m : Msg) : Pkt :=
  ⟨encode72 (put m.cls.toNat 0 ||| put m.cmd.toNat 2 ||| put m.src.toNat 7 ||| put m.dst.toNat 17 ||| put m.txid.toNat 27 |||
     put m.pack.toNat 39 ||| put m.units.length 43 ||| put (m.f.toNat % 2 ^ 18) 46) 0,
   encode72 (m.line.setWidth 64 ||| put (m.f.toNat / 2 ^ 18) 54) 8⟩ :: m.units.zipIdx.map fun x => tUnit (x.2 + 1) x.1

/-- A port of kind `k`: 1 C, 2 I, 3 N, in pack 0, group 0, with every key. -/
def tPort (k : Nat) : Port := { cfg := put k 0, keyr := 0xFFFFFFFF, bar := 1, leash := 4, arb := put 1 0 ||| put 15 36 }

/-- Agents 0 to 3 and 511 are C agents, 4 an I agent, 5 an N agent; window 0 of every pack spans the address space; one region serves
all of it from target 0; the hash is the identity. -/
def tShared : Shared :=
  { now := 1000000000, mode := .run
    ports := (((((((Vector.replicate 512 {}).set 0 (tPort 1)).set 1 (tPort 1)).set 2 (tPort 1)).set 3 (tPort 1)).set 4 (tPort 2)).set 5
      (tPort 3)).set 511 (tPort 1)
    packs := Vector.replicate 16 { arb := 1, wins := { attr := 0xFFFFFFFFF001 } :: List.replicate 7 {}, bar := put 100 32 }
    hash := (List.range 42).map fun i => 1#42 <<< i
    hinv := (List.range 42).map fun i => 1#42 <<< i
    lsmap := List.range 64
    regions := [{ en := true, base := 0, limit := 2 ^ 18 - 1, ways := 0, gran := 0, list := [0] }]
    epoch := 10, tmo := 100 }

/-- A slice in use. -/
def tSlice (n : Nat) : Slice := { pwr := .on, active := true, logical := n, arb := put 64 0 ||| put 100 32, qwin := 4096 }

/-- The block in RUN with slice 0 (logical 0) alone. -/
def tOne : State :=
  { State.reset with
    sh := tShared
    slices := (Vector.replicate 66 {}).set 0 (tSlice 0)
    kn := { State.reset.kn with on := true, booted := true, sheep := { runState := 1 }, dsrv := put 5 0 ||| put 100 8 ||| put 20 32 }
    ctl := { State.reset.ctl with on := true, lnk := true, epLen := 10, ms := { chg := false, waves := 8 } }
    pins := { pwrgood := true } }

/-- The same in mode `m`. -/
def tMode (m : Mode) : State := tOne.updSh fun g => { g with mode := m }

/-- The block about to execute the instruction `e` at instruction 10, with registers as listed. -/
def tIns (e : BitVec 36) (rs : List (GReg × W32) := []) : State :=
  tOne.updSheep fun h => { h with ir := e, pc := 10, g := rs.foldl (fun g r => g.set r.1.toNat r.2 (by have := r.1.isLt; omega)) h.g }

/-- A field of the next state that a command answers, or `d` where it stops. -/
def tNext {α : Type} (o : Host.Outcome State Fault Refusal) (d : α) (f : State → α) : α :=
  match o with
  | .next t => f t
  | _ => d

/-! ### Commands that cannot be given -/

/-- A packet without a header is refused (R514). -/
theorem test_wf_no_header : WellFormed (.requestArrival 0 []) = false := by decide
/-- A packet of more than six units is refused (R515). -/
theorem test_wf_seven_units : WellFormed (.memRsp 0 (List.replicate 7 ⟨⟨0, 0⟩, ⟨0, 0⟩⟩)) = false := by decide
/-- Three packets for one line are refused. -/
theorem test_wf_three_packets : WellFormed (.plateLineFetched (List.replicate 3 [⟨⟨0, 0⟩, ⟨0, 0⟩⟩])) = false := by decide
/-- More journal records than the journal holds are refused. -/
theorem test_wf_journal : WellFormed (.controlLogicFault 0 0 (List.replicate 337 0)) = false := by decide +kernel
/-- A row that bank 28 does not have is refused. -/
theorem test_wf_row : WellFormed (.selftestDone [(0, 28, 8)]) = false := by decide +kernel
/-- The last row of bank 28 is accepted, and so is a packet of one header. -/
theorem test_wf_good : WellFormed (.selftestDone [(0, 28, 7)]) = true ∧ WellFormed (.memRsp 0 [⟨⟨0, 0⟩, ⟨0, 0⟩⟩]) = true := by
  decide +kernel

/-! ### Worked examples of the manual -/

/-- The fold matrix of the worked example of "Addresses, agents, packs and windows". -/
def tFold : List Line := (List.range 42).map fun j => if j < 6 then 0x1041041041 <<< j else 1#42 <<< j

/-- Line 0xE972479D32 is homed at slice 55, set 7,796, tag 0x74B92. -/
theorem test_hash_example :
    let lp := mulGF2 tFold 0xE972479D32
    lpSlice lp = 55 ∧ lpSet lp = 7796 ∧ lpTag lp = 0x74B92 := by decide +kernel
/-- The median of 1,544, 1,556 and 2,096 is 1,556 (worked example of "The Sheepdog", step 1). -/
theorem test_med3_example :
    tNext (exec (.med3 5 1 2 3 0) (tIns (encA 9 5 1 2 3 0) [(1, 1544), (2, 1556), (3, 2096)])) 0 (·.kn.sheep.get 5) = 1556 := by
  decide +kernel
/-- IIR with shift 2 of 1,536 towards 1,556 gives 1,541 (step 2). -/
theorem test_iir_example :
    tNext (exec (.iir 5 1 2) (tIns (encI 10 5 1 2) [(1, 1556), (5, 1536)])) 0 (·.kn.sheep.get 5) = 1541 := by decide +kernel

/-! ### One step of each kind of command -/

/-- A request takes an admission entry of its port (R231). -/
theorem test_request :
    tNext (exec (.requestArrival 0 (tPkt { cls := 0, cmd := 1, src := 3, dst := 512, txid := 9, pack := 0, line := 0x40 })) tOne) []
      (fun t => (t.slice 0).ent.map fun e : AdmEntry => (e.port, e.req.kind)) = [(3, .rdShared)] := by decide +kernel
/-- A request of an agent that the plate does not name is discarded (R23). -/
theorem test_request_absent :
    tNext (exec (.requestArrival 0 (tPkt { cls := 0, cmd := 1, src := 9, dst := 512, txid := 9, pack := 0, line := 0x40 })) tOne) [default]
      (fun t => (t.slice 0).ent.map (·.port)) = [] := by decide +kernel
/-- RdUnique of a line in X is forwarded to the owner with ownership: SnpFwdU (Table 4-9). -/
theorem test_rd_unique :
    let k : Tracker := { no := 4, seq := 0, req := { kind := .rdUnique, port := 3, txid := 9, pack := 0, line := 0x40, f := 0 } }
    let e : EntNew := { st := .x, owner := 2 }
    let s := tOne.updSlice 0 fun x => { x with
      trk := [k], mem := Memory.write [] (entAddr 1 0) (encode72 (e.inlineWord 0) (entAddr 1 0)) }
    tNext (exec (.rdUnique 0 4) s) [] (fun t => t.out.map fun m : Msg => (m.cls, m.cmd, m.dst, m.txid)) = [(1, 2, 2, 4)] := by decide +kernel
/-- A store to g0 leaves it zero (R270). -/
theorem test_g0 : tNext (exec (.addi 0 1 7) (tIns (encI 1 0 1 7) [(1, 5)])) 9 (·.kn.sheep.get 0) = 0 := by decide +kernel
/-- ADDI sign-extends its immediate (Table 10-4). -/
theorem test_addi : tNext (exec (.addi 5 1 0x7FFFF) (tIns (encI 0 5 1 0x7FFFF) [(1, 5)])) 0 (·.kn.sheep.get 5) = 4 := by decide +kernel
/-- A signed branch goes back ten instructions (Table 10-4). -/
theorem test_bcc :
    tNext (exec (.bcc 1 2 2 0xFFF6) (tIns (encB 6 1 2 2 0xFFF6) [(1, 0xFFFFFFFF), (2, 0)])) 9 (·.kn.sheep.pc) = 0 := by decide +kernel
/-- DEB takes its input after N executions (R277). -/
theorem test_deb :
    tNext (exec (.deb 5 1 3) (tIns (encI 11 5 1 3) [(1, 7), (5, 2)])) 0 (·.kn.sheep.get 5) = 0x80000000 := by decide +kernel
/-- A write of one to GLB_LOCK sets it, and a write of zero leaves it set (R558). -/
theorem test_lock :
    tNext (exec (.glbLockWrite 1 (.whole 1)) tOne) false (·.lock.lock) = true ∧
    tNext (exec (.glbLockWrite 1 (.whole 0)) { tOne with lock := { lock := true } }) false (·.lock.lock) = true := by decide +kernel
/-- An access to the quiet alias by a write is refused with code 3 (Table 19-3). -/
theorem test_quiet_write :
    tNext (exec (.registerWrite (acc8 true 0x80008 1 1)) tOne) 0 (·.ctl.rp.code) = 3 := by decide +kernel
/-- DRAIN is entered from RUN (R318). -/
theorem test_drain : tNext (exec (.glbModecmdDrain 1 0) tOne) .run (·.sh.mode) = .drain := by decide +kernel
/-- A memory target's answer completes a read (R121). -/
theorem test_mem_rsp :
    let e : Exp := { kind := .mem, node := 640, msg := { cls := 0, cmd := 16, src := 512, dst := 640, txid := 4, pack := 0, line := 0x40 } }
    let k : Tracker := { no := 4, seq := 0, stat := .decided, exp := [e], req := { kind := .rdOnce, port := 5, txid := 9, pack := 0, line := 0x40, f := 0 } }
    let s := tOne.updSlice 0 fun x => { x with trk := [k] }
    tNext (exec (.memRsp 0 (tPkt { cls := 2, cmd := 9, src := 640, dst := 512, txid := 4, pack := 0, line := 0x40 })) s) []
      (fun t => t.out.map fun m : Msg => (m.cls, m.cmd, m.dst, m.txid)) = [(2, 4, 5, 9)] := by decide +kernel
/-- A trip crossing drives XJ_THERM_TRIP (R545). -/
theorem test_trip : tNext (exec (.thermTripCrossing true) tOne) false (·.pins.thermTrip) = true := by decide +kernel
/-- A power-good rise starts the Kennel's boot ROM (Table 11-10). -/
theorem test_power_up : tNext (exec .xjPwrgoodRise State.reset) (false, 0) (fun t => (t.kn.on, t.ctl.ms.step)) = (true, 1) := by decide +kernel
/-- A claim answers the pending source of its target and clears it (R496). -/
theorem test_claim :
    let s := tOne.updBrk fun b => { b with en := List.replicate 16 0xFFFFFFFFFFFFFFFF, pend := [771] }
    tNext (exec (.brkClaimRead 1 0) s) ([0], []) (fun t => (t.ctl.brk.pend, t.ctl.rp.rsp.map (·.data))) = ([], [771]) := by decide +kernel
/-- A freeze by the port's command stops the block (R498). -/
theorem test_freeze : tNext (exec (.frzCmdFreeze 1) tOne) .running (·.ctl.frz.st) = .stopping := by decide +kernel
/-- An idle step of a running Kennel advances the timestamp by four (log entry 2). -/
theorem test_idle : tNext (step tOne) 0 (·.sh.now) = 1000000004 := by decide +kernel

/-! ### The premises of the statements about the whole block -/

/-- A waiting command, for `step_takes_front`. -/
theorem witness_step_takes_front : { tOne with pending := [.tapReset] }.pending = .tapReset :: [] := rfl
/-- An idle block, running and frozen, for `idle_step_counts`. -/
theorem witness_idle_step_counts :
    (tOne.pending = [] ∧ tOne.kn.on = true ∧ tOne.frozen = false) ∧
    let s := (tMode .freeze).updFrz fun f => { f with st := .frozen, hold := true }
    s.pending = [] ∧ s.kn.on = true ∧ s.frozen = true := by decide +kernel
/-- A locked block, for `lock_is_sticky`. -/
theorem witness_lock_is_sticky :
    let idle := { tOne with lock := { lock := true } }
    let s := { idle with pending := [.tapReset] }
    (s.pending.head? ≠ some .xjColdRstAssert ∧ s.pending.head? ≠ some .xjAonRstAssert ∧ s.pending.head? ≠ some .xjPwrgoodFall ∧
      s.lock.lock = true ∧ ∃ t, step s = .next t) ∧ idle.pending.head? = none ∧ ∃ t, step idle = .next t :=
  ⟨⟨by decide, by decide, by decide, rfl, _, rfl⟩, rfl, _, rfl⟩
/-- A step, for `g0_stays_zero` and `port_holds_sixteen`. -/
theorem witness_step_invariants :
    tOne.kn.sheep.g[0] = 0 ∧ tOne.outstanding ≤ 16 ∧ ∃ t, step { tOne with pending := [.tapReset] } = .next t :=
  ⟨by decide +kernel, by decide +kernel, _, rfl⟩
/-- A next state, for `queue_and_trip_frames`. -/
theorem witness_queue_and_trip_frames : (∀ up, Instr.tapReset ≠ .thermTripCrossing up) ∧ ∃ t, exec .tapReset tOne = .next t :=
  ⟨(fun _ h => by cases h), _, rfl⟩

/-- The block with agent 65 as its one agent, the first credit wave 100 µs old. -/
def tWave : State :=
  (tOne.updMs fun m => { m with waves := 1, stepAt := 999900000 }).updSh fun g => { g with
    ports := (Vector.replicate 512 ({} : Port)).set 65 (tPort 1) }

theorem tWave_port (a : Nat) : tWave.sh.port a = if a = 65 then tPort 1 else {} := by
  simp only [Shared.port, tWave, State.updSh]
  split
  · rw [Vector.getElem_set]; split <;> simp_all [eq_comm]
  · rw [if_neg (by omega)]

/-- State and operands that meet the premises of the later credit waves in `start_up`. -/
theorem witness_credit_wave :
    let s := tWave
    let ms := s.ctl.ms
    s.frozen = false ∧ s.sh.mode ≠ .engrave ∧ 1 ≤ ms.waves ∧ ms.waves < 7 ∧ ms.stepAt + 100000 ≤ s.sh.now ∧ s.nothingHeld ∧
      s.allOn = true ∧ s.liveSlices = [0] ∧ (s.sh.present.filter fun b => b / 64 == ms.waves) = [65] := by
  dsimp only [State.nothingHeld, Shared.present]
  simp only [tWave_port]
  decide +kernel

/-- CRC-32C with its register evaluated at every byte. -/
def crcStrict : List (BitVec 8) → Nat → Nat
  | [], c => c
  | b :: bs, c => match (crcByte (BitVec.ofNat 32 c) b).toNat with
    | 0 => crcStrict bs 0
    | k + 1 => crcStrict bs (k + 1)

theorem crcStrict_eq (bs : List (BitVec 8)) (c : BitVec 32) : (bs.foldl crcByte c).toNat = crcStrict bs c.toNat := by
  induction bs generalizing c with
  | nil => rfl
  | cons b bs ih =>
    rw [List.foldl_cons, ih, crcStrict, BitVec.ofNat_toNat, BitVec.setWidth_eq]
    split <;> simp_all

/-- The CRC of the factory calibration set (R300). -/
theorem test_factory_crc : wordCrc factoryCalBody = factoryCalCrc := by
  have h : ((wordBytes factoryCalBody).foldl crcByte 0xFFFFFFFF).toNat = (~~~factoryCalCrc).toNat := by
    rw [crcStrict_eq]; decide +kernel
  rw [wordCrc, crc32c, BitVec.eq_of_toNat_eq h, BitVec.not_not]

/-- The block at the calibration check, with the second half of the range unreadable. -/
def tCal : State :=
  (((tMode .engrave).updMs fun m => { m with chg := true, waves := 0, step := 3 }).updKn fun k => { k with
    store := k.store ++ [(calBase + 4096, ⟨0, 3⟩)] })

/-- The factory calibration set. -/
def tCalSet : List Word := (0x000100000001 : Word) :: (0x013300000000 ||| factoryCalCrc.setWidth 64) :: factoryCalBody

theorem getD_of_lt {α : Type} (l : List α) (i : Nat) (d : α) (h : i < l.length) : l.getD i d = l[i] := by
  simp [List.getD_eq_getElem?_getD, List.getElem?_eq_getElem h]

theorem clean_snd (l : List Word) : (l.map fun w => (RdClass.clean, w)).map (·.2) = l := by
  induction l <;> simp_all

theorem tCal_half : tCal.kn.calHalf false = tCalSet.map fun w => (.clean, w) := by
  have h : (List.range 307).all (fun i => tCal.kn.storeRead (calBase + 0 + i) == (.clean, tCalSet.getD i 0)) = true := by decide +kernel
  have n : tCalSet.length = 307 := by decide +kernel
  apply List.ext_getElem
  · rw [Kennel.calHalf, List.length_map, List.length_map, n, List.length_range]
  · intro i h1 h2
    have hi : i < 307 := by rw [List.length_map, n] at h2; exact h2
    have e := (List.all_eq_true.mp h) i (List.mem_range.mpr hi)
    have d : tCalSet.getD i 0 = tCalSet[i]'(by rw [n]; exact hi) := getD_of_lt _ _ _ _
    simp only [Kennel.calHalf, List.getElem_map, List.getElem_range]
    rw [← d]; exact eq_of_beq e

theorem tCal_ranges : calRanges (tCalSet.drop 2) = true := by decide +kernel

theorem tCal_second : calSeq (tCal.kn.calHalf true) = none := by decide +kernel

theorem tCal_torn : tCal.kn.cal.torn = none := by decide +kernel

theorem tCal_first : calSeq (tCal.kn.calHalf false) = some 1 := by
  have hu : (tCalSet.map fun w => (RdClass.clean, w)).all (·.1.usable) = true := by simp [RdClass.usable]
  simp only [calSeq, tCal_half, hu, clean_snd]
  rw [show tCalSet.drop 2 = factoryCalBody from rfl, test_factory_crc]
  decide +kernel

theorem calCur_first (k : Kennel) (a : Nat) (ht : k.cal.torn = none) (h1 : calSeq (k.calHalf false) = some a)
    (h2 : calSeq (k.calHalf true) = none) : k.calCur = some false := by
  simp [Kennel.calCur, ht, h1, h2]

/-- State and operands that meet the premises of an accepted calibration set in `start_up`. -/
theorem witness_calibration :
    let s := tCal
    let ws := (s.kn.calHalf false).map (·.2)
    (s.frozen = false ∧ s.kn.on = true ∧ s.sh.mode = .engrave ∧ s.ctl.ms.step = 3) ∧ s.kn.calCur = some false ∧
      calRanges (ws.drop 2) = true := by
  exact ⟨by decide +kernel, calCur_first _ _ tCal_torn tCal_first tCal_second, by rw [tCal_half, clean_snd]; exact tCal_ranges⟩

/-- The block with agent 65 alone, and a reply of a timed-out system instance of pack 0 on its way. -/
def tReply : State :=
  ({ tWave with link := [.barReply 0 0 0 5 2] }).updSlice 0 fun x => { x with coord := [{ pack := 0, timedOut := true }] }

/-- State and operands that meet the premises of a timeout reply in `slice_link_messages`. -/
theorem witness_timeout_reply :
    let s := tReply
    s.awake 0 ∧ s.link = .barReply 0 0 0 5 2 :: [] ∧ (s.slice 0).coord = [{ pack := 0, timedOut := true }] ∧
      (∀ g ∈ s.sh.agentGroups 0, s.sh.phys g = 0) ∧ s.ctl.on = true := by
  have hp : ∀ a, tReply.sh.port a = if a = 65 then tPort 1 else {} := tWave_port
  have hg : tReply.sh.agentGroups 0 = [0] := by
    simp only [Shared.agentGroups, hp]
    decide +kernel
  dsimp only [State.awake]
  rw [hg]
  decide +kernel

/-! ### The premises of the statements, clause by clause -/

/-- States and operands that meet the premises of `alu_results`. -/
theorem witness_alu_results :
    (let d : GReg := 63
     let a : GReg := 1
     let imm : BitVec 19 := 0x7FFFF
     let s : State := tIns (encI 0 d a imm) [(1, 7), (2, 0xFFFFFFFD), (3, 100), (63, 0x80000000)]
     s.atIns (encI 0 d a imm)) ∧
    (let d : GReg := 63
     let imm : BitVec 19 := 0x7FFFF
     let s : State := tIns (encI 2 d 0 imm) [(1, 7), (2, 0xFFFFFFFD), (3, 100), (63, 0x80000000)]
     s.atIns (encI 2 d 0 imm)) ∧
    (let d : GReg := 63
     let a : GReg := 1
     let b : GReg := 2
     let s : State := tIns (encA 1 d a b 0 0) [(1, 7), (2, 0xFFFFFFFD), (3, 100), (63, 0x80000000)]
     let op := fun (fn : BitVec 7) => s.atIns (encA 1 d a b 0 fn)
     op 0) ∧
    (let d : GReg := 63
     let a : GReg := 1
     let b : GReg := 2
     let s : State := tIns (encA 1 d a b 0 1) [(1, 7), (2, 0xFFFFFFFD), (3, 100), (63, 0x80000000)]
     let op := fun (fn : BitVec 7) => s.atIns (encA 1 d a b 0 fn)
     op 1) ∧
    (let d : GReg := 63
     let a : GReg := 1
     let b : GReg := 2
     let s : State := tIns (encA 1 d a b 0 2) [(1, 7), (2, 0xFFFFFFFD), (3, 100), (63, 0x80000000)]
     let op := fun (fn : BitVec 7) => s.atIns (encA 1 d a b 0 fn)
     op 2) ∧
    (let d : GReg := 63
     let a : GReg := 1
     let b : GReg := 2
     let s : State := tIns (encA 1 d a b 0 3) [(1, 7), (2, 0xFFFFFFFD), (3, 100), (63, 0x80000000)]
     let op := fun (fn : BitVec 7) => s.atIns (encA 1 d a b 0 fn)
     op 3) ∧
    (let d : GReg := 63
     let a : GReg := 1
     let b : GReg := 2
     let s : State := tIns (encA 1 d a b 0 4) [(1, 7), (2, 0xFFFFFFFD), (3, 100), (63, 0x80000000)]
     let op := fun (fn : BitVec 7) => s.atIns (encA 1 d a b 0 fn)
     op 4) ∧
    (let d : GReg := 63
     let a : GReg := 1
     let b : GReg := 2
     let s : State := tIns (encA 1 d a b 0 5) [(1, 7), (2, 0xFFFFFFFD), (3, 100), (63, 0x80000000)]
     let op := fun (fn : BitVec 7) => s.atIns (encA 1 d a b 0 fn)
     op 5) ∧
    (let d : GReg := 63
     let a : GReg := 1
     let b : GReg := 2
     let s : State := tIns (encA 1 d a b 0 6) [(1, 7), (2, 0xFFFFFFFD), (3, 100), (63, 0x80000000)]
     let op := fun (fn : BitVec 7) => s.atIns (encA 1 d a b 0 fn)
     op 6) ∧
    (let d : GReg := 63
     let a : GReg := 1
     let b : GReg := 2
     let s : State := tIns (encA 1 d a b 0 7) [(1, 7), (2, 0xFFFFFFFD), (3, 100), (63, 0x80000000)]
     let op := fun (fn : BitVec 7) => s.atIns (encA 1 d a b 0 fn)
     op 7) ∧
    (let d : GReg := 63
     let a : GReg := 1
     let b : GReg := 2
     let s : State := tIns (encA 1 d a b 0 8) [(1, 7), (2, 0xFFFFFFFD), (3, 100), (63, 0x80000000)]
     let op := fun (fn : BitVec 7) => s.atIns (encA 1 d a b 0 fn)
     op 8) ∧
    (let d : GReg := 63
     let a : GReg := 1
     let b : GReg := 2
     let s : State := tIns (encA 1 d a b 0 9) [(1, 7), (2, 0xFFFFFFFD), (3, 100), (63, 0x80000000)]
     let op := fun (fn : BitVec 7) => s.atIns (encA 1 d a b 0 fn)
     op 9) ∧
    (let d : GReg := 63
     let a : GReg := 1
     let b : GReg := 2
     let s : State := tIns (encA 1 d a b 0 10) [(1, 7), (2, 0xFFFFFFFD), (3, 100), (63, 0x80000000)]
     let op := fun (fn : BitVec 7) => s.atIns (encA 1 d a b 0 fn)
     op 10) ∧
    (let d : GReg := 63
     let a : GReg := 1
     let b : GReg := 2
     let s : State := tIns (encA 1 d a b 0 11) [(1, 7), (2, 0xFFFFFFFD), (3, 100), (63, 0x80000000)]
     let op := fun (fn : BitVec 7) => s.atIns (encA 1 d a b 0 fn)
     op 11) ∧
    (let d : GReg := 63
     let a : GReg := 1
     let b : GReg := 2
     let s : State := tIns (encA 1 d a b 0 12) [(1, 7), (2, 0xFFFFFFFD), (3, 100), (63, 0x80000000)]
     let op := fun (fn : BitVec 7) => s.atIns (encA 1 d a b 0 fn)
     op 12) := by
  dsimp only [State.atIns, State.awake, State.single]; repeat (any_goals refine And.intro ?_ ?_)
  all_goals decide +kernel

/-- States and operands that meet the premises of `filter_results`. -/
theorem witness_filter_results :
    (let d : GReg := 63
     let a : GReg := 1
     let b : GReg := 2
     let c : GReg := 3
     let s : State := tIns (encA 9 d a b c 0) [(1, 7), (2, 0xFFFFFFFD), (3, 100), (63, 0x80000000)]
     s.atIns (encA 9 d a b c 0)) ∧
    (let d : GReg := 63
     let a : GReg := 1
     let imm : BitVec 19 := 15
     let s : State := tIns (encI 10 d a imm) [(1, 7), (2, 0xFFFFFFFD), (3, 100), (63, 0x80000000)]
     s.atIns (encI 10 d a imm) ∧ imm.toNat < 16) ∧
    (let d : GReg := 63
     let a : GReg := 1
     let imm : BitVec 19 := 65535
     let s : State := tIns (encI 11 d a imm) [(1, 7), (2, 0xFFFFFFFD), (3, 100), (63, 0x80000000)]
     s.atIns (encI 11 d a imm) ∧ 1 ≤ imm.toNat ∧ imm.toNat ≤ 65535) ∧
    (let d : GReg := 63
     let a : GReg := 1
     let b : GReg := 2
     let c : GReg := 3
     let s : State := tIns (encA 12 d a b c 0) [(1, 7), (2, 0xFFFFFFFD), (3, 100), (63, 0x80000000)]
     s.atIns (encA 12 d a b c 0)) ∧
    (let d : GReg := 63
     let a : GReg := 1
     let b : GReg := 2
     let c : GReg := 3
     let s : State := tIns (encA 12 d a b c 1) [(1, 7), (2, 0xFFFFFFFD), (3, 100), (63, 0x80000000)]
     s.atIns (encA 12 d a b c 1)) ∧
    (let d : GReg := 63
     let a : GReg := 1
     let imm : BitVec 19 := 15
     let s : State := tIns (encI 13 d a imm) [(1, 7), (2, 0xFFFFFFFD), (3, 100), (63, 0x80000000)]
     s.atIns (encI 13 d a imm)) := by
  dsimp only [State.atIns, State.awake, State.single]; repeat (any_goals refine And.intro ?_ ?_)
  all_goals decide +kernel

/-- States and operands that meet the premises of `branch_results`. -/
theorem witness_branch_results :
    (let a : GReg := 1
     let b : GReg := 2
     let cond : BitVec 3 := 0
     let off : BitVec 16 := 0xFFF6
     let s : State := tIns (encB 6 a b cond off) [(1, 7), (2, 0xFFFFFFFD), (3, 100), (63, 0x80000000)]
     s.atIns (encB 6 a b cond off) ∧ cond ≠ 7) ∧
    (let a : GReg := 1
     let b : GReg := 2
     let off : BitVec 16 := 0xFFF6
     let s : State := tIns (encB 6 a b 7 off) [(1, 7), (2, 0xFFFFFFFD), (3, 100), (63, 0x80000000)]
     s.atIns (encB 6 a b 7 off)) ∧
    (let d : GReg := 63
     let a : GReg := 1
     let imm : BitVec 19 := 0x7FFFF
     let s : State := tIns (encI 7 d a imm) [(1, 7), (2, 0xFFFFFFFD), (3, 100), (63, 0x80000000)]
     s.atIns (encI 7 d a imm)) := by
  dsimp only [State.atIns, State.awake, State.single]; repeat (any_goals refine And.intro ?_ ?_)
  all_goals decide +kernel

/-- States and operands that meet the premises of `load_store_results`. -/
theorem witness_load_store_results :
    (let d : GReg := 2
     let a : GReg := 1
     let imm : BitVec 19 := 0
     let s : State := (tIns (encI 3 d a imm) [(1, 0xFFF), (2, 0x12345678), (3, 0x9)])
     let v := (0 : Word)
     let h := s.kn.sheep
     let w := (h.get a + imm.signExtend 32).toNat
     s.atIns (encI 3 d a imm) ∧ w < 0x1000 ∧ KMem.readC h.dmem (w / 2) = (.clean, v)) ∧
    (let d : GReg := 2
     let a : GReg := 1
     let imm : BitVec 19 := 0
     let s : State := (tIns (encI 3 d a imm) [(1, 0x10000), (2, 0x12345678), (3, 0x9)])
     let h := s.kn.sheep
     let w := (h.get a + imm.signExtend 32).toNat
     s.atIns (encI 3 d a imm) ∧ 0x10000 ≤ w ∧ w < 0x10010) ∧
    (let d : GReg := 2
     let a : GReg := 1
     let imm : BitVec 19 := 0
     let s : State := (tIns (encI 3 d a imm) [(1, 0x1000000), (2, 0x12345678), (3, 0x9)])
     let v := (0 : Word)
     let h := s.kn.sheep
     let w := (h.get a + imm.signExtend 32).toNat
     s.atIns (encI 3 d a imm) ∧ 0x1000000 ≤ w ∧ w < 0x1200000 ∧ ((w - 0x1000000) / 2 < 0x400000 / 8 ∨ 0x410000 / 8 ≤ (w - 0x1000000) / 2)
       ∧ s.kn.storeRead ((w - 0x1000000) / 2) = (.clean, v)) ∧
    (let d : GReg := 2
     let a : GReg := 1
     let imm : BitVec 19 := 0
     let s : State := (tIns (encI 3 d a imm) [(1, 0x1000), (2, 0x12345678), (3, 0x9)])
     let h := s.kn.sheep
     let w := (h.get a + imm.signExtend 32).toNat
     s.atIns (encI 3 d a imm) ∧ 0x1000 ≤ w ∧ (w < 0x10000 ∨ 0x10010 ≤ w) ∧ (w < 0x1000000 ∨ 0x1200000 ≤ w)) ∧
    (let d : GReg := 2
     let a : GReg := 1
     let imm : BitVec 19 := 0
     let s : State := (tIns (encI 3 d a imm) [(1, 0xFFF), (2, 0x12345678), (3, 0x9)]).updSheep fun h => { h with dmem := [(2047, ⟨0, 0x03⟩)] }
     let v := (KMem.readC s.kn.sheep.dmem 2047).2
     let h := s.kn.sheep
     let w := (h.get a + imm.signExtend 32).toNat
     s.atIns (encI 3 d a imm) ∧ w < 0x1000 ∧ KMem.readC h.dmem (w / 2) = (.uncorrectable, v)) ∧
    (let d : GReg := 2
     let a : GReg := 1
     let imm : BitVec 19 := 0
     let s : State := (tIns (encI 4 d a imm) [(1, 0xFFF), (2, 0x12345678), (3, 0x9)])
     let v := (0 : Word)
     let h := s.kn.sheep
     let w := (h.get a + imm.signExtend 32).toNat
     s.atIns (encI 4 d a imm) ∧ w < 0x1000 ∧ KMem.readC h.dmem (w / 2) = (.clean, v)) ∧
    (let d : GReg := 2
     let a : GReg := 1
     let imm : BitVec 19 := 0
     let s : State := (tIns (encI 4 d a imm) [(1, 0x1000F), (2, 0x12345678), (3, 0x9)])
     let h := s.kn.sheep
     let w := (h.get a + imm.signExtend 32).toNat
     s.atIns (encI 4 d a imm) ∧ 0x10000 ≤ w ∧ w < 0x10010) ∧
    (let d : GReg := 2
     let a : GReg := 1
     let imm : BitVec 19 := 0
     let s : State := (tIns (encI 4 d a imm) [(1, 0x1000), (2, 0x12345678), (3, 0x9)])
     let h := s.kn.sheep
     let w := (h.get a + imm.signExtend 32).toNat
     s.atIns (encI 4 d a imm) ∧ 0x1000 ≤ w ∧ (w < 0x10000 ∨ 0x10010 ≤ w)) ∧
    (let d : GReg := 2
     let a : GReg := 1
     let imm : BitVec 19 := 0xFFF
     let s : State := (tIns (encI 5 d a imm) [(1, 0x0), (2, 0x12345678), (3, 0x9)])
     s.atIns (encI 5 d a imm) ∧ d ≠ 0 ∧ d.toNat % 2 = 0) := by
  dsimp only [State.atIns, State.awake, State.single]; repeat (any_goals refine And.intro ?_ ?_)
  all_goals decide +kernel

/-- States and operands that meet the premises of `sample_reg_results`. -/
theorem witness_sample_reg_results :
    (let d : GReg := 2
     let imm : BitVec 19 := 23
     let s : State := tIns (encI 8 d 0 imm) []
     let cls := imm.toNat / 256
     let idx := imm.toNat % 256
     d ≠ 0 ∧ d.toNat % 2 = 0 ∧ s.atIns (encI 8 d 0 imm) ∧ imm.toNat < 4096 ∧ sourceOk cls idx = true ∧ cls = 0 ∧ idx < 24) ∧
    (let d : GReg := 2
     let imm : BitVec 19 := 1345
     let s : State := tIns (encI 8 d 0 imm) []
     let cls := imm.toNat / 256
     let idx := imm.toNat % 256
     d ≠ 0 ∧ d.toNat % 2 = 0 ∧ s.atIns (encI 8 d 0 imm) ∧ imm.toNat < 4096 ∧ cls = 5 ∧ idx < 66) ∧
    (let d : GReg := 2
     let imm : BitVec 19 := 2048
     let s : State := tIns (encI 8 d 0 imm) []
     let cls := imm.toNat / 256
     let idx := imm.toNat % 256
     d ≠ 0 ∧ d.toNat % 2 = 0 ∧ s.atIns (encI 8 d 0 imm) ∧ imm.toNat < 4096 ∧ cls = 8 ∧ idx = 0) ∧
    (let d : GReg := 2
     let imm : BitVec 19 := 2050
     let s : State := tIns (encI 8 d 0 imm) []
     let cls := imm.toNat / 256
     let idx := imm.toNat % 256
     d ≠ 0 ∧ d.toNat % 2 = 0 ∧ s.atIns (encI 8 d 0 imm) ∧ imm.toNat < 4096 ∧ cls = 8 ∧ idx = 2) ∧
    (let d : GReg := 2
     let imm : BitVec 19 := 24
     let s : State := tIns (encI 8 d 0 imm) []
     let cls := imm.toNat / 256
     let idx := imm.toNat % 256
     d ≠ 0 ∧ d.toNat % 2 = 0 ∧ s.atIns (encI 8 d 0 imm) ∧ imm.toNat < 4096 ∧ sourceOk cls idx = false) ∧
    (let d : GReg := 2
     let a : GReg := 1
     let b : GReg := 4
     let s : State := (tIns (encA 14 d a b 0 0) [(1, 0x7FFF8), (2, 0x12345678), (3, 0x9)])
     let o := (s.kn.sheep.get a).toNat % 2 ^ 20
     let acc := acc8 false (o + 0x80000) 0 (s.kn.sheep.pair d)
     d ≠ 0 ∧ d.toNat % 2 = 0 ∧ s.atIns (encA 14 d a b 0 0) ∧ o % 8 = 0 ∧ o < 0x80000 ∧ s.waitsTurn .sheep acc = false ∧
       (s.kn.sheep.regWait = none ∨ s.kn.sheep.regWait = some ⟨d, a, b, false, false⟩)) ∧
    (let d : GReg := 2
     let a : GReg := 1
     let b : GReg := 4
     let s : State := (tIns (encA 14 d a b 0 1) [(1, 0x220), (2, 0x12345678), (3, 0x9)])
     let o := (s.kn.sheep.get a).toNat % 2 ^ 20
     let acc := acc8 true o 0 (s.kn.sheep.pair d)
     let op : RegOp := ⟨d, a, b, true, false⟩
     let u := (s.updSheep fun h => { h with regWait := some op }).access .sheep acc
     d ≠ 0 ∧ d.toNat % 2 = 0 ∧ s.atIns (encA 14 d a b 0 1) ∧ o % 8 = 0 ∧ o < 0x80000 ∧ s.waitsTurn .sheep acc = false ∧
       (s.kn.sheep.regWait = none ∨ s.kn.sheep.regWait = some op) ∧ u.1.kn.sheep.regWait = some op ∧ u.2.2 = []) ∧
    (let d : GReg := 2
     let a : GReg := 1
     let b : GReg := 4
     let s : State := (tIns (encA 14 d a b 0 1) [(1, 0x220), (2, 0x12345678), (3, 0x9)]).updSlice 0 fun x => { x with replay := true }
     let o := (s.kn.sheep.get a).toNat % 2 ^ 20
     let acc := acc8 true o 0 (s.kn.sheep.pair d)
     let op : RegOp := ⟨d, a, b, true, false⟩
     let u := (s.updSheep fun h => { h with regWait := some op }).access .sheep acc
     d ≠ 0 ∧ d.toNat % 2 = 0 ∧ s.atIns (encA 14 d a b 0 1) ∧ o % 8 = 0 ∧ o < 0x80000 ∧ s.waitsTurn .sheep acc = false ∧
       (s.kn.sheep.regWait = none ∨ s.kn.sheep.regWait = some op) ∧ u.1.kn.sheep.regWait = some op ∧ u.2.2 ≠ []) ∧
    (let d : GReg := 2
     let a : GReg := 1
     let b : GReg := 4
     let s : State := (tIns (encA 14 d a b 0 0) [(1, 0x80000), (2, 0x12345678), (3, 0x9)])
     let o := (s.kn.sheep.get a).toNat % 2 ^ 20
     d ≠ 0 ∧ d.toNat % 2 = 0 ∧ s.atIns (encA 14 d a b 0 0) ∧ (o % 8 ≠ 0 ∨ 0x80000 ≤ o)) ∧
    (let d : GReg := 2
     let a : GReg := 1
     let b : GReg := 4
     let s : State := (tIns (encA 14 d a b 0 1) [(1, 0x80000), (2, 0x12345678), (3, 0x9)])
     let o := (s.kn.sheep.get a).toNat % 2 ^ 20
     d ≠ 0 ∧ d.toNat % 2 = 0 ∧ s.atIns (encA 14 d a b 0 1) ∧ (o % 8 ≠ 0 ∨ 0x80000 ≤ o)) := by
  dsimp only [State.atIns, State.awake, State.single]; repeat (any_goals refine And.intro ?_ ?_)
  all_goals decide +kernel

/-- States and operands that meet the premises of `sheepdog_actions`. -/
theorem witness_sheepdog_actions :
    (let d : GReg := 3
     let a : GReg := 1
     let b : GReg := 2
     let s : State := (tIns (encA 15 d a b 0 0) [(1,0),(2,0xFFFFFFFF)])
     let n := (s.kn.sheep.get a).toNat
     let mode := s.sh.mode = .run ∨ s.sh.mode = .drain ∨ s.sh.mode = .recover
     s.atIns (encA 15 d a b 0 0) ∧ mode ∧ n < 66 ∧ (s.slice n).active = true ∧ (s.slice n).egrantAt ≠ some s.sh.now) ∧
    (let d : GReg := 3
     let a : GReg := 1
     let b : GReg := 2
     let s : State := (tIns (encA 15 d a b 0 0) [(1,0),(2,0xFFFFFFFF)]).updSlice 0 fun x => { x with egrantAt := some 1000000000 }
     let n := (s.kn.sheep.get a).toNat
     let mode := s.sh.mode = .run ∨ s.sh.mode = .drain ∨ s.sh.mode = .recover
     s.atIns (encA 15 d a b 0 0) ∧ mode ∧ n < 66 ∧ (s.slice n).active = true ∧ (s.slice n).egrantAt = some s.sh.now) ∧
    (let d : GReg := 3
     let a : GReg := 1
     let b : GReg := 2
     let s : State := (tIns (encA 15 d a b 0 0) [(1,66),(2,1)])
     let n := (s.kn.sheep.get a).toNat
     let mode := s.sh.mode = .run ∨ s.sh.mode = .drain ∨ s.sh.mode = .recover
     s.atIns (encA 15 d a b 0 0) ∧ ¬(mode ∧ n < 66 ∧ (s.slice n).active = true)) ∧
    (let d : GReg := 3
     let a : GReg := 1
     let s : State := (tIns (encI 16 d a 2) [(1,65)])
     let n := (s.kn.sheep.get a).toNat
     let spare := s.usable n = true ∧ (s.slice n).active = false ∧ (s.slice n).failed = false ∧ (s.slice n).sink = false ∧
       ¬(s.ctl.rcv.step ≠ 0 ∧ s.ctl.rcv.newp.toNat = n)
     s.atIns (encI 16 d a 2) ∧ n < 66 ∧ spare ∧ (s.slice n).pwr = .off) ∧
    (let d : GReg := 3
     let a : GReg := 1
     let s : State := (tIns (encI 16 d a 2) [(1,65)]).updSlice 65 fun x => { x with pwr := .on }
     let n := (s.kn.sheep.get a).toNat
     let spare := s.usable n = true ∧ (s.slice n).active = false ∧ (s.slice n).failed = false ∧ (s.slice n).sink = false ∧
       ¬(s.ctl.rcv.step ≠ 0 ∧ s.ctl.rcv.newp.toNat = n)
     s.atIns (encI 16 d a 2) ∧ n < 66 ∧ spare ∧ (s.slice n).pwr = .on) ∧
    (let d : GReg := 3
     let a : GReg := 1
     let s : State := (tIns (encI 16 d a 0) [(1,65)]).updSlice 65 fun x => { x with pwr := .on }
     let n := (s.kn.sheep.get a).toNat
     let spare := s.usable n = true ∧ (s.slice n).active = false ∧ (s.slice n).failed = false ∧ (s.slice n).sink = false ∧
       ¬(s.ctl.rcv.step ≠ 0 ∧ s.ctl.rcv.newp.toNat = n)
     s.atIns (encI 16 d a 0) ∧ n < 66 ∧ spare ∧ (s.slice n).pwr = .on ∧ (s.slice n).quiet = true) ∧
    (let d : GReg := 3
     let a : GReg := 1
     let imm : BitVec 19 := 0
     let s : State := (tIns (encI 16 d a imm) [(1,66)])
     let n := (s.kn.sheep.get a).toNat
     let spare := s.usable n = true ∧ (s.slice n).active = false ∧ (s.slice n).failed = false ∧ (s.slice n).sink = false ∧
       ¬(s.ctl.rcv.step ≠ 0 ∧ s.ctl.rcv.newp.toNat = n)
     s.atIns (encI 16 d a imm) ∧ imm.toNat < 3 ∧ ¬spare ∧ s.sh.mode ≠ .dormant) ∧
    (let d : GReg := 3
     let a : GReg := 1
     let b : GReg := 2
     let s : State := (tIns (encA 17 d a b 0 0) [(1,65),(2,800)])
     let n := (s.kn.sheep.get a).toNat
     let v := (s.kn.sheep.get b).toNat
     let clk := (n < 66 ∧ 800 ≤ v ∧ v ≤ 2400) ∨ ((n = 66 ∨ n = 67) ∧ 500 ≤ v ∧ v ≤ 1000)
     s.atIns (encA 17 d a b 0 0) ∧ clk) ∧
    (let d : GReg := 3
     let a : GReg := 1
     let b : GReg := 2
     let s : State := (tIns (encA 17 d a b 0 0) [(1,65),(2,799)])
     let n := (s.kn.sheep.get a).toNat
     let v := (s.kn.sheep.get b).toNat
     let clk := (n < 66 ∧ 800 ≤ v ∧ v ≤ 2400) ∨ ((n = 66 ∨ n = 67) ∧ 500 ≤ v ∧ v ≤ 1000)
     s.atIns (encA 17 d a b 0 0) ∧ ¬clk) := by
  dsimp only [State.atIns, State.awake, State.single]; repeat (any_goals refine And.intro ?_ ?_)
  all_goals decide +kernel

/-- States and operands that meet the premises of `sheepdog_posts_and_modes`. -/
theorem witness_sheepdog_posts_and_modes :
    (let a : GReg := 60
     let imm : BitVec 19 := 15
     let s : State := (tIns (encI 18 0 a imm) [(60,5)])
     s.atIns (encI 18 0 a imm) ∧ imm.toNat < 16) ∧
    (let a : GReg := 60
     let imm : BitVec 19 := 255
     let s : State := ((tIns (encI 19 0 a imm) [(60,5),(63,7)])).updLdg fun l => { l with ctl := 1, uen1 := 16, ten := 0x200 }
     s.atIns (encI 19 0 a imm) ∧ imm.toNat < 256 ∧ 1 ≤ a.toNat ∧ a.toNat ≤ 60) ∧
    (let a : GReg := 60
     let k : BitVec 8 := 0xFF
     let s : State := ((tIns (encI 20 0 a (0#10 ++ 0#1 ++ k)) [(60,5),(63,7)])).updKn fun k =>
       { k with prog := [{ idx := 655360, data := 0, why := .log }] }
     s.atIns (encI 20 0 a (0#10 ++ 0#1 ++ k)) ∧ 1 ≤ a.toNat ∧ a.toNat ≤ 60) ∧
    (let a : GReg := 60
     let k : BitVec 8 := 0xFF
     let s : State := ((tIns (encI 20 0 a (0#10 ++ 1#1 ++ k)) [(60,5),(63,7)])).updKn fun k =>
       { k with prog := [{ idx := 655360, data := 0, why := .log }] }
     s.atIns (encI 20 0 a (0#10 ++ 1#1 ++ k)) ∧ 1 ≤ a.toNat ∧ a.toNat ≤ 60) ∧
    (let d : GReg := 3
     let a : GReg := 60
     let imm : BitVec 19 := 0
     let s : State := (tIns (encI 21 d a imm) [])
     s.atIns (encI 21 d a imm) ∧ imm = 0 ∧ s.changing = false ∧ (s.sh.mode = .run ∨ s.sh.mode = .drain) ∧ s.dormantRefused = false ∧
       s.ctl.ms.cmdAt ≠ some s.sh.now) ∧
    (let d : GReg := 3
     let a : GReg := 60
     let imm : BitVec 19 := 2
     let s : State := ((tIns (encI 21 d a imm) []).updSlice 0 fun x => { x with pwr := .retained }).updSh fun g => { g with mode := .dormant }
     s.atIns (encI 21 d a imm) ∧ imm = 2 ∧ s.sh.mode = .dormant ∧ s.ctl.ms.chg = false ∧ s.ctl.ms.cmdAt ≠ some s.sh.now) ∧
    (let d : GReg := 3
     let a : GReg := 60
     let imm : BitVec 19 := 0
     let s : State := (tIns (encI 21 d a imm) []).updMs fun m => { m with chg := true }
     s.atIns (encI 21 d a imm) ∧ (imm = 0 ∨ imm = 2) ∧ s.sh.mode ≠ .dormant ∧ s.changing = true) ∧
    (let d : GReg := 3
     let a : GReg := 60
     let imm : BitVec 19 := 0
     let s : State := (tIns (encI 21 d a imm) []).updSlice 0 fun x => { x with replay := true }
     s.atIns (encI 21 d a imm) ∧ imm = 0 ∧ s.changing = false ∧ s.dormantRefused = true) ∧
    (let d : GReg := 3
     let a : GReg := 60
     let imm : BitVec 19 := 1
     let s : State := (tIns (encI 21 d a imm) [])
     s.atIns (encI 21 d a imm) ∧ imm.toNat < 8 ∧ imm ≠ 0 ∧ imm ≠ 2) ∧
    (let d : GReg := 3
     let a : GReg := 60
     let imm : BitVec 19 := 0
     let s : State := (tIns (encI 21 d a imm) []).updMs fun m => { m with cmdAt := some 1000000000 }
     s.atIns (encI 21 d a imm) ∧ (imm = 0 ∨ imm = 2) ∧ s.ctl.ms.cmdAt = some s.sh.now) := by
  dsimp only [State.atIns, State.awake, State.single]; repeat (any_goals refine And.intro ?_ ?_)
  all_goals decide +kernel

/-- States and operands that meet the premises of `waits_and_watchdog`. -/
theorem witness_waits_and_watchdog :
    (let d : GReg := 3
     let a : GReg := 60
     let imm : BitVec 19 := 15
     let s : State := (tIns (encI 22 d a imm) []).updSheep fun h => { h with latch := 8 }
     let b : Nat := 3
     let h := s.kn.sheep
     let set := fun (m : BitVec 4) (i : Nat) => m.getLsbD i = true ∧ h.latch.getLsbD i = true
     let lowest := fun (m : BitVec 4) => b < 4 ∧ set m b ∧ ∀ i, i < b → ¬set m i
     s.atIns (encI 22 d a imm) ∧ imm.toNat < 16 ∧ lowest (imm.setWidth 4)) ∧
    (let d : GReg := 3
     let a : GReg := 60
     let imm : BitVec 19 := 1
     let s : State := (tIns (encI 22 d a imm) []).updSheep fun h => { h with latch := 14 }
     let h := s.kn.sheep
     let passed := fun (t : W32) => (2 ^ 31 + s.sh.now / 1024 % 2 ^ 31 - t.toNat % 2 ^ 31) % 2 ^ 31 < 2 ^ 30
     s.atIns (encI 22 d a imm) ∧ imm.toNat < 16 ∧ h.latch &&& imm.setWidth 4 = 0 ∧ passed (h.get a)) ∧
    (let d : GReg := 3
     let a : GReg := 60
     let imm : BitVec 19 := 0
     let s : State := (tIns (encI 22 d a imm) [(60,0x100000)])
     let h := s.kn.sheep
     let passed := fun (t : W32) => (2 ^ 31 + s.sh.now / 1024 % 2 ^ 31 - t.toNat % 2 ^ 31) % 2 ^ 31 < 2 ^ 30
     s.atIns (encI 22 d a imm) ∧ imm.toNat < 16 ∧ h.latch &&& imm.setWidth 4 = 0 ∧ ¬passed (h.get a)) ∧
    (let d : GReg := 3
     let a : GReg := 60
     let imm : BitVec 19 := 15
     let w : WaitOp := ⟨3, 15, 0, false⟩
     let s : State := (tIns (encI 22 d a imm) []).updSheep fun h => { h with latch := 14, wait := some w }
     let b : Nat := 1
     let h := s.kn.sheep
     let set := fun (m : BitVec 4) (i : Nat) => m.getLsbD i = true ∧ h.latch.getLsbD i = true
     let lowest := fun (m : BitVec 4) => b < 4 ∧ set m b ∧ ∀ i, i < b → ¬set m i
     s.kn.on = true ∧ s.frozen = false ∧ h.runState = 1 ∧ h.wait = some w ∧ lowest w.mask) ∧
    (let d : GReg := 3
     let a : GReg := 60
     let imm : BitVec 19 := 15
     let w : WaitOp := ⟨3, 15, 0, false⟩
     let s : State := (tIns (encI 22 d a imm) []).updSheep fun h => { h with latch := 0, wait := some w }
     let h := s.kn.sheep
     let passed := fun (t : W32) => (2 ^ 31 + s.sh.now / 1024 % 2 ^ 31 - t.toNat % 2 ^ 31) % 2 ^ 31 < 2 ^ 30
     s.kn.on = true ∧ s.frozen = false ∧ h.runState = 1 ∧ h.wait = some w ∧ h.latch &&& w.mask = 0 ∧ passed w.tick) ∧
    (let s : State := (tIns (encI 23 0 0 0) [])
     s.atIns (encI 23 0 0 0)) ∧
    (let s : State := tOne.updKn fun k => { k with wdt := put 1000000 0 }
     let h := s.kn.sheep
     s.kn.on = true ∧ s.frozen = false ∧ h.runState = 1 ∧ h.halted = false ∧ h.wdtAt + s.kn.wdt.toNat % 2 ^ 17 * 1000 ≤ s.sh.now) ∧
    (let s : State := tOne.updSheep fun h => { h with runState := 4, hist := [0,0,0], image := [(0,5)] }
     let h := s.kn.sheep
     s.kn.on = true ∧ s.frozen = false ∧ h.runState = 4) := by
  dsimp only [State.atIns, State.awake, State.single]; repeat (any_goals refine And.intro ?_ ?_)
  all_goals decide +kernel

/-- States and operands that meet the premises of `sheepdog_registers`. -/
theorem witness_sheepdog_registers :
    (let s : State := tOne
     s.portFree ∧ s.lock.lock = false ∧ s.reloading = false ∧ s.pins.dormant = false) ∧
    (let s : State := { tOne with lock := { lock := true } }
     s.portFree ∧ s.lock.lock = true) ∧
    (let s : State := tOne.updPins fun p => { p with dormant := true }
     let v : Word := 0x101
     s.portFree ∧ s.lock.lock = false ∧ s.pins.dormant = true ∧ v.getLsbD 0 = true) := by
  dsimp only [State.portFree, State.awake, State.single]; repeat (any_goals refine And.intro ?_ ?_)
  all_goals decide +kernel

/-- States and operands that meet the premises of `port_accesses`. -/
theorem witness_port_accesses :
    (let s : State := tOne
     let tag : BitVec 8 := 7
     let acc : RegAcc := { wr := true, size := 3, addr := 4, tag := 7, lo := 0, hi := 0 }
     let o : BitVec 19 := 0x7FFF8
     let v : Word := 0x123456789
     s.portFree ∧ accBadSize acc = true ∧ s.sliceMoving acc = false ∧ o.toNat % 8 = 0 ∧ s.sliceMoving (acc8 true (o.toNat + 0x80000) tag
       v) = false ∧ regAt o.toNat = none ∧ s.lock.lock = false ∧ s.sh.mode ≠ .engrave ∧ s.anyReplay = false ∧ s.reloading = false) ∧
    (let s : State := { tOne with lock := { lock := true } }
     s.portFree ∧ s.lock.lock = true ∧ s.sh.mode ≠ .engrave) ∧
    (let s : State := tMode .engrave
     s.portFree ∧ s.lock.lock = false ∧ s.sh.mode = .engrave) ∧
    (let s : State := tOne
     let tag : BitVec 8 := 7
     let acc : RegAcc := { wr := true, size := 4, addr := 16, tag := 7, lo := 0, hi := 0 }
     s.portFree ∧ acc.size = 4 ∧ accBadSize acc = false ∧ s.sliceMoving acc = false) := by
  dsimp only [State.portFree, State.awake, State.single]; repeat (any_goals refine And.intro ?_ ?_)
  all_goals decide +kernel

/-- States and operands that meet the premises of `key_and_window_writes`. -/
theorem witness_key_and_window_writes :
    (let s : State := tOne
     let p : Fin 16 := 15
     let w : Fin 8 := 7
     let win := (s.sh.pack p).wins.getD w {}
     s.portFree ∧ s.sh.mode ≠ .engrave ∧ s.anyReplay = false ∧ s.reloading = false ∧ win.en = false) ∧
    (let s : State := tOne.updSh fun g => g.updPack 15 fun k => { k with wins := k.wins.modify 7 fun y => { y with base := 0x2000, attr := 0x1001 } }
     let p : Fin 16 := 15
     let w : Fin 8 := 7
     let f : WrForm := .whole 0
     let win := (s.sh.pack p).wins.getD w {}
     let attr := formWritten f win.attr 0xFFFFFFFFF0F5
     let limit := attr.toNat / 2 ^ 12 % 2 ^ 36
     s.portFree ∧ s.sh.mode ≠ .engrave ∧ s.anyReplay = false ∧ s.reloading = false ∧ win.en = true ∧ (attr.getLsbD 0 = false ∨ (win.en =
       false ∧ win.lo ≤ limit) ∨ (win.en = true ∧ win.hi = limit))) ∧
    (let s : State := tOne.updSh fun g => g.updPack 15 fun k => { k with wins := k.wins.modify 7 fun y => { y with base := 0x2000, attr := 0x1000 } }
     let p : Fin 16 := 15
     let w : Fin 8 := 7
     let f : WrForm := .whole 0x1001
     let win := (s.sh.pack p).wins.getD w {}
     let attr := formWritten f win.attr 0xFFFFFFFFF0F5
     let limit := attr.toNat / 2 ^ 12 % 2 ^ 36
     s.portFree ∧ s.sh.mode ≠ .engrave ∧ s.anyReplay = false ∧ s.reloading = false ∧ attr.getLsbD 0 = true ∧ (win.en = false ∧ limit <
       win.lo) ∨ (win.en = true ∧ win.hi ≠ limit)) := by
  dsimp only [State.portFree, State.awake, State.single]; repeat (any_goals refine And.intro ?_ ?_)
  all_goals decide +kernel

/-- States and operands that meet the premises of `pack_and_grant_registers`. -/
theorem witness_pack_and_grant_registers :
    (let s : State := tOne
     let p : Fin 16 := 0
     let v : Word := 0xFFFFFFFFFFFFFFFE
     let x : BitVec 32 := 0xFFFFFFFE
     let n : Fin 66 := 0
     let pk := s.sh.pack p
     let drained := s.drainedFor p
     s.portFree ∧ s.sh.mode ≠ .engrave ∧ s.anyReplay = false ∧ s.reloading = false ∧ (pk.drain = true ∨ v.getLsbD 0 = false) ∧ (pk.drain =
       true ∨ x.getLsbD 0 = false) ∧ drained = false ∧ (s.slice n).pwr = .on ∧ (s.slice n).replay = false) ∧
    (let x : BitVec 32 := 0xFFFFFFFE
     let b : BarArr := { port := 511, txid := 9, scope := 0, mem := false, gen := 3, at_ := 5, due := 10 }
     let s : State := tOne.updSlice 0 fun x => { x with bar := [b] }
     let p : Fin 16 := 0
     let n : Fin 66 := 0
     let v : Word := 1
     let pk := s.sh.pack p
     s.portFree ∧ s.sh.mode ≠ .engrave ∧ s.anyReplay = false ∧ s.reloading = false ∧ pk.drain = false ∧ v.getLsbD 0 = true ∧ (s.slice
       n).active = true ∧ (s.slice n).pwr = .on ∧ (∀ q, q < 66 → q ≠ n.val → (s.slice q).bar = [] ∧ (s.slice q).coord = []) ∧ (s.slice
       n).bar = [b] ∧ b.stage ≠ 2 ∧ (s.slice n).coord = [] ∧ s.link = [] ∧ s.ctl.rcv.step ≠ 4 ∧ b.port < 512 ∧ (s.sh.port b.port).packNo = p
       ∧ (s.sh.port b.port).absent = false) ∧
    (let s : State := tOne
     let v : Word := 0xFFFFFFFFFFFFFFFF
     let n : Fin 66 := 65
     s.portFree ∧ s.sh.mode ≠ .engrave ∧ s.anyReplay = false ∧ s.reloading = false ∧ 1 ≤ v.toNat / 2 ^ 32 % 2 ^ 12 ∧ ((s.slice n).pwr =
       .off ∨ (s.slice n).pwr = .retained)) ∧
    (let s : State := tOne
     let v : Word := 0xFFFFF000FFFFFFFF
     s.portFree ∧ s.sh.mode ≠ .engrave ∧ s.anyReplay = false ∧ s.reloading = false ∧ v.toNat / 2 ^ 32 % 2 ^ 12 = 0) ∧
    (let s : State := tOne.updSh fun g => (g.updPack 15 fun k => { k with gate := 1 })
     let p : Fin 16 := 15
     let v : Word := 6
     let drained := s.drainedFor p
     s.portFree ∧ s.sh.mode ≠ .engrave ∧ s.anyReplay = false ∧ s.reloading = false ∧ drained = true ∧ v.toNat % 8 ≤ 6 ∧ (∀ q, q < 66 →
       (s.slice q).wat = [])) ∧
    (let s : State := tOne.updSh fun g => (g.updPack 15 fun k => { k with gate := 1 })
     let p : Fin 16 := 15
     let v : Word := 7
     let drained := s.drainedFor p
     s.portFree ∧ s.sh.mode ≠ .engrave ∧ s.anyReplay = false ∧ s.reloading = false ∧ drained = true ∧ v.toNat % 8 = 7) := by
  dsimp only [State.portFree, State.awake, State.single]; repeat (any_goals refine And.intro ?_ ?_)
  all_goals decide +kernel

/-- States and operands that meet the premises of `request_arrives`. -/
theorem witness_request_arrives :
    (let s : State := tOne
     let n : Fin 66 := 0
     let m : Msg := { cls := 0, cmd := 1, src := 511, dst := 512, txid := 5, pack := 0, line := 0x40, f := 0, units := [] }
     let pkt : Pkt := tPkt m
     let r : Req := { kind := .rdShared, port := 511, txid := 5, pack := 0, line := 0x40, f := 0, be := 0, data := [] }
     let x := s.slice n
     s.frozen = false ∧ (s.slice n).up = true ∧ s.intact n pkt m ∧ m.cls = 0 ∧ m.cmd ≠ 14 ∧ m.cmd ≠ 15 ∧ reqOf m = some r ∧ (s.slice
       n).ent.any (·.port == r.port) = false ∧ s.sh.stop = false ∧ x.dead = false ∧ x.retrying s.sh = false ∧ x.parErr = []) ∧
    (let s : State := tOne.updSh fun g => { g with stop := true }
     let n : Fin 66 := 0
     let m : Msg := { cls := 0, cmd := 1, src := 511, dst := 512, txid := 5, pack := 0, line := 0x40, f := 0, units := [] }
     let pkt : Pkt := tPkt m
     let r : Req := { kind := .rdShared, port := 511, txid := 5, pack := 0, line := 0x40, f := 0, be := 0, data := [] }
     s.frozen = false ∧ (s.slice n).up = true ∧ s.intact n pkt m ∧ m.cls = 0 ∧ m.cmd ≠ 14 ∧ m.cmd ≠ 15 ∧ reqOf m = some r ∧ (s.slice
       n).ent.any (·.port == r.port) = false ∧ s.sh.stop = true) ∧
    (let s : State := tOne.updSlice 0 fun x => { x with dead := true }
     let n : Fin 66 := 0
     let m : Msg := { cls := 0, cmd := 1, src := 511, dst := 512, txid := 5, pack := 0, line := 0x40, f := 0, units := [] }
     let pkt : Pkt := tPkt m
     let r : Req := { kind := .rdShared, port := 511, txid := 5, pack := 0, line := 0x40, f := 0, be := 0, data := [] }
     let x := s.slice n
     s.frozen = false ∧ (s.slice n).up = true ∧ s.intact n pkt m ∧ m.cls = 0 ∧ m.cmd ≠ 14 ∧ m.cmd ≠ 15 ∧ reqOf m = some r ∧ (s.slice
       n).ent.any (·.port == r.port) = false ∧ s.sh.stop = false ∧ x.dead = true) ∧
    (let s : State := tOne.updSlice 0 fun x => { x with replay := true }
     let n : Fin 66 := 0
     let m : Msg := { cls := 0, cmd := 1, src := 511, dst := 512, txid := 5, pack := 0, line := 0x40, f := 0, units := [] }
     let pkt : Pkt := tPkt m
     let r : Req := { kind := .rdShared, port := 511, txid := 5, pack := 0, line := 0x40, f := 0, be := 0, data := [] }
     let x := s.slice n
     s.frozen = false ∧ (s.slice n).up = true ∧ s.intact n pkt m ∧ m.cls = 0 ∧ m.cmd ≠ 14 ∧ m.cmd ≠ 15 ∧ reqOf m = some r ∧ (s.slice
       n).ent.any (·.port == r.port) = false ∧ s.sh.stop = false ∧ x.dead = false ∧ x.retrying s.sh = true) := by
  dsimp only [State.awake, State.intact, State.single]; repeat (any_goals refine And.intro ?_ ?_)
  all_goals decide +kernel

/-- States and operands that meet the premises of `entries_answered`. -/
theorem witness_entries_answered :
    (let e : AdmEntry := { port := 511, req := { kind := .rdShared, port := 511, txid := 5, pack := 0, line := 0x40, f := 0, be := 0, data := [] }, complete := false, at_ := 5 }
     let s : State := (tOne.updSlice 0 fun x => { x with ent := [e] }).updSh fun g => { g with tmo := put 1 32 }
     let n : Fin 66 := 0
     let a : Fin 512 := 511
     let x := s.slice n
     let mine := x.ent.find? (·.port == a.val) = some e ∧ e.req.port = a.val
     (s.sh.port a).absent = false ∧ s.awake n ∧ mine ∧ e.complete = false ∧ e.at_ + 100 * (s.sh.tmo.toNat / 2 ^ 32 % 2 ^ 10) ≤ s.sh.now) ∧
    (let e : AdmEntry := { port := 511, req := { kind := .rdShared, port := 511, txid := 5, pack := 0, line := 0x40, f := 0, be := 0, data := [] }, complete := false, at_ := 999999901 }
     let s : State := (tOne.updSlice 0 fun x => { x with ent := [e] }).updSh fun g => { g with tmo := put 1 32 }
     let n : Fin 66 := 0
     let a : Fin 512 := 511
     let x := s.slice n
     let mine := x.ent.find? (·.port == a.val) = some e ∧ e.req.port = a.val
     (s.sh.port a).absent = false ∧ s.awake n ∧ mine ∧ s.sh.now < e.at_ + 100 * (s.sh.tmo.toNat / 2 ^ 32 % 2 ^ 10)) ∧
    (let e : AdmEntry := { port := 511, req := { kind := .rdShared, port := 511, txid := 5, pack := 0, line := 0x40, f := 0, be := 0, data := [] }, complete := true, age := 64 }
     let s : State := tOne.updSlice 0 fun x => { x with ent := [e], prt := [(511, { exp := 3, loss := 5 })] }
     let n : Fin 66 := 0
     let a : Fin 512 := 511
     let x := s.slice n
     let mine := x.ent.find? (·.port == a.val) = some e ∧ e.req.port = a.val
     (s.sh.port a).absent = false ∧ s.awake n ∧ mine ∧ e.complete = true ∧ e.admitted = false ∧ e.contest ≤ e.age ∧ (x.port a).loss ≠ 6) ∧
    (let e : AdmEntry := { port := 511, req := { kind := .rdShared, port := 511, txid := 5, pack := 0, line := 0x40, f := 1, be := 0, data := [] }, complete := true }
     let s : State := tOne.updSlice 0 fun x => { x with ent := [e], prt := [(511, { exp := 3, loss := 6 })] }
     let n : Fin 66 := 0
     let a : Fin 512 := 511
     let m : Msg := { cls := 0, cmd := 15, src := 511, dst := 512, txid := 5, pack := 0, line := 0x40, f := 0, units := [] }
     let pkt : Pkt := tPkt m
     let x := s.slice n
     let mine := x.ent.find? (·.port == a.val) = some e ∧ e.req.port = a.val
     (s.sh.port a).absent = false ∧ s.frozen = false ∧ x.up = true ∧ s.intact n pkt m ∧ m.cls = 0 ∧ m.cmd = 15 ∧ m.src.toNat = a.val ∧
       x.replay = false ∧ s.sh.stop = false ∧ s.sh.gated m.pack.toNat = false ∧ (∀ u ∈ x.trk, u.req.port ≠ a.val ∧ u.no < 240) ∧ (∀ u ∈
       x.agedq, u.1.port ≠ a.val) ∧ mine ∧ (∀ u ∈ x.ent, u.req.port = u.port) ∧ e.admitted = false ∧ e.req.txid = m.txid ∧ e.req.line =
       m.line ∧ (e.req.intent = 1 ∨ e.req.intent = 2)) ∧
    (let s : State := tOne
     let n : Fin 66 := 0
     let a : Fin 512 := 511
     let m : Msg := { cls := 0, cmd := 15, src := 511, dst := 512, txid := 5, pack := 0, line := 0x40, f := 0, units := [] }
     let pkt : Pkt := tPkt m
     let x := s.slice n
     (s.sh.port a).absent = false ∧ s.frozen = false ∧ x.up = true ∧ s.intact n pkt m ∧ m.cls = 0 ∧ m.cmd = 15 ∧ m.src.toNat = a.val ∧
       x.replay = false ∧ s.sh.stop = false ∧ s.sh.gated m.pack.toNat = false ∧ (∀ u ∈ x.trk, u.req.port ≠ a.val ∧ u.no < 240) ∧ (∀ u ∈
       x.agedq, u.1.port ≠ a.val) ∧ (∀ u ∈ x.ent, u.req.port ≠ a.val)) := by
  dsimp only [State.awake, State.intact, State.single]; repeat (any_goals refine And.intro ?_ ?_)
  all_goals decide +kernel

/-- States and operands that meet the premises of `admission_phase`. -/
theorem witness_admission_phase :
    (let r : Req := { kind := .rdShared, port := 511, txid := 5, pack := 0, line := 0x40, f := 0, be := 0, data := [] }
     let s : State := tOne.updSlice 0 fun x =>
       { x with agedq := [(r, 0)], trk := (List.range 223).map fun i => { no := i, seq := i, req := { kind := .rdOnce, port := 1, txid := 5, pack := 0, line := BitVec.ofNat 42 (4096 * (i + 1)), f := 0, be := 0, data := [] } } }
     let n : Fin 66 := 0
     let est : Int := 0
     let rest : List (Req × Int) := []
     let k : Nat := 223
     let x := s.slice n
     let c := x.cycle s.sh
     s.awake n ∧ x.serving s.sh = true ∧ x.claimed s.sh = false ∧ x.claim = 0 ∧ x.dslot = 0 ∧ x.bgCount + 1 < x.arb.toNat / 2 ^ 32 % 2 ^
       13 ∧ x.ent = [] ∧ x.agedq = (r, est) :: rest ∧ c.takeNo s.sh r true = some k) ∧
    (let s : State := tOne.updSlice 0 fun x =>
       { x with ent := [{ port := 511, req := { kind := .rdShared, port := 511, txid := 5, pack := 0, line := 0x40, f := 0, be := 0, data := [] }, complete := true }], trk := (List.range 223).map fun i => { no := i, seq := i, req := { kind := .rdOnce, port := 1, txid := 5, pack := 0, line := BitVec.ofNat 42 (4096 * (i + 1)), f := 0, be := 0, data := [] } } }
     let n : Fin 66 := 0
     let e : AdmEntry := (((s.slice 0).cycle s.sh).draw s.sh).getD
       { port := 511, req := { kind := .rdShared, port := 511, txid := 5, pack := 0, line := 0x40, f := 0, be := 0, data := [] }, complete := true }
     let k : Nat := 223
     let x := s.slice n
     let c := x.cycle s.sh
     s.awake n ∧ x.serving s.sh = true ∧ x.claimed s.sh = false ∧ x.claim = 0 ∧ x.dslot = 0 ∧ x.bgCount + 1 < x.arb.toNat / 2 ^ 32 % 2 ^
       13 ∧ x.agedq = [] ∧ (∀ u ∈ x.ent, s.sh.gated u.req.pack.toNat = false ∧ x.aged u.port = false) ∧ c.draw s.sh = some e ∧ c.takeNo s.sh
       e.req false = some k) ∧
    (let e : AdmEntry := { port := 511, req := { kind := .rdShared, port := 511, txid := 5, pack := 0, line := 0x40, f := 0, be := 0, data := [] }, complete := true }
     let s : State := (tMode .drain).updSlice 0 fun x => { x with ent := [e] }
     let n : Fin 66 := 0
     let x := s.slice n
     s.awake n ∧ x.serving s.sh = true ∧ x.ent = [e] ∧ e.req.port = e.port ∧ e.complete = true ∧ e.admitted = false ∧ s.sh.gated
       e.req.pack.toNat = true ∧ (s.sh.port e.port).absent = false ∧ e.port < 512) ∧
    (let s : State := tOne.updSlice 0 fun x => { x with qpos := 4096 }
     let n : Fin 66 := 0
     let x := s.slice n
     s.awake n ∧ x.qwin ≤ x.qpos) ∧
    (let s : State := tOne.updSlice 0 fun x => { x with qpos := 4095 }
     let n : Fin 66 := 0
     let x := s.slice n
     s.awake n ∧ x.qpos < x.qwin) := by
  dsimp only [State.awake, State.single]; repeat (any_goals refine And.intro ?_ ?_)
  all_goals decide +kernel

/-- States and operands that meet the premises of `background_and_epoch`. -/
theorem witness_background_and_epoch :
    (let s : State := tOne.updSlice 0 fun x => { x with bgCount := 100 }
     let n : Fin 66 := 0
     let x := s.slice n
     s.awake n ∧ x.serving s.sh = true ∧ x.claimed s.sh = false ∧ x.claim = 0 ∧ x.arb.toNat / 2 ^ 32 % 2 ^ 13 ≤ x.bgCount ∧ x.bgFree =
       true) ∧
    (let s : State := tOne.updSlice 0 fun x => { x with bgCount := 99 }
     let n : Fin 66 := 0
     let x := s.slice n
     s.awake n ∧ x.bgCount < x.arb.toNat / 2 ^ 32 % 2 ^ 13) ∧
    (let s : State := tOne.updSlice 0 fun x => { x with scDue := 21, scStart := 5 }
     let n : Fin 66 := 0
     let x := s.slice n
     let per := if x.scDue = 0 then s.sh.scrub.toNat % 2 ^ 17 else x.scPer
     s.awake n ∧ x.scDue < 78104 ∧ x.scStart + x.scDue * (per * 1000000000) / 78104 ≤ s.sh.now) ∧
    (let s : State := tOne.updSlice 0 fun x => { x with scDue := 21, scStart := 5, scPer := 100000 }
     let n : Fin 66 := 0
     let x := s.slice n
     let per := if x.scDue = 0 then s.sh.scrub.toNat % 2 ^ 17 else x.scPer
     s.awake n ∧ s.sh.now < x.scStart + x.scDue * (per * 1000000000) / 78104) ∧
    (let s : State := (tOne.updSlice 0 fun x => { x with egrant := 500, remain := -7 }).updSh fun g =>
       { g with epoch := put 10 0 ||| put 2 24 ||| put 100 32, esafe := 33 }
     let len := s.ctl.epLen * 1000
     s.frozen = false ∧ s.ctl.on = true ∧ s.sh.mode ≠ .engrave ∧ 0 < len ∧ s.ctl.epochAt < s.sh.now / len * len ∧ s.kn.sheep.runState ≠ 2) := by
  dsimp only [State.awake, State.single]; repeat (any_goals refine And.intro ?_ ?_)
  all_goals decide +kernel

/-- States and operands that meet the premises of `decision_messages`. -/
theorem witness_decision_messages :
    (let kind : ReqKind := .rdShared
     let k : Tracker := { no := 239, seq := 0, req := { kind := .rdShared, port := 511, txid := 5, pack := 0, line := 0x40, f := 0, be := 0, data := [] } }
     let s : State := (tOne.updSlice 0 fun x => { x with trk := [k] })
     let n : Fin 66 := 0
     let t : Fin 240 := 239
     let way : Option Nat := none
     let e : EntNew := { st := .i }
     let x := s.slice n
     let r := k.req
     let p := tablePlan kind e r.port
     kind ≠ .resvWatch ∧ kind ≠ .barrier ∧ kind ≠ .cancel ∧ s.alone n k ∧ k.no = t.val ∧ r.kind = kind ∧ s.entry n r way e ∧ (way.isSome =
       true ∨ p.new.canon.st = .i ∨ s.freeWay n r) ∧ unlisted kind false e r.port = false ∧ (∀ a ∈ p.snooped, a < 512 ∧ (s.sh.port a).absent
       = false) ∧ (kind = .stash → x.offers s.sh r = false) ∧ (kind = .atomic → x.goesFar s.sh r (x.ownEvent s.sh r).2.1 e.pred = false)) := by
  dsimp only [State.awake, State.single, State.alone, State.entry, State.freeWay]; repeat (any_goals refine And.intro ?_ ?_)
  all_goals decide +kernel

/-- States and operands that meet the premises of `uncached_lines`. -/
theorem witness_uncached_lines :
    (let k : Tracker := { no := 239, seq := 0, req := { kind := .rdShared, port := 511, txid := 5, pack := 0, line := 0x40, f := 0, be := 0, data := [] } }
     let s : State := (tOne.updSlice 0 fun x => { x with trk := [k] })
     let n : Fin 66 := 0
     let t : Fin 240 := 239
     let v := 0
     let x := s.slice n
     let r := k.req
     let set := lpSet (s.sh.lp r.line)
     s.alone n k ∧ k.no = t.val ∧ s.entry n r none { st := .i } ∧ x.stuck = [] ∧ x.repair = [] ∧ (List.range s.sh.dirw).find? (x.freeWay
       s.sh set) = some v ∧ r.kind = .rdShared) ∧
    (let k : Tracker := { no := 239, seq := 0, req := { kind := .rdUnique, port := 511, txid := 5, pack := 0, line := 0x40, f := 0, be := 0, data := [] } }
     let s : State := (tOne.updSlice 0 fun x => { x with trk := [k] })
     let n : Fin 66 := 0
     let t : Fin 240 := 239
     let v := 0
     let x := s.slice n
     let r := k.req
     let set := lpSet (s.sh.lp r.line)
     s.alone n k ∧ k.no = t.val ∧ s.entry n r none { st := .i } ∧ x.stuck = [] ∧ x.repair = [] ∧ (List.range s.sh.dirw).find? (x.freeWay
       s.sh set) = some v ∧ r.kind = .rdUnique) ∧
    (let k : Tracker := { no := 239, seq := 0, req := { kind := .upgrade, port := 511, txid := 5, pack := 0, line := 0x40, f := 0, be := 0, data := [] } }
     let s : State := (tOne.updSlice 0 fun x => { x with trk := [k] })
     let n : Fin 66 := 0
     let t : Fin 240 := 239
     let v := 0
     let x := s.slice n
     let r := k.req
     let set := lpSet (s.sh.lp r.line)
     s.alone n k ∧ k.no = t.val ∧ s.entry n r none { st := .i } ∧ x.stuck = [] ∧ x.repair = [] ∧ (List.range s.sh.dirw).find? (x.freeWay
       s.sh set) = some v ∧ r.kind = .upgrade) ∧
    (let k : Tracker := { no := 239, seq := 0, req := { kind := .leashTake, port := 511, txid := 5, pack := 0, line := 0x40, f := 0, be := 0, data := [] } }
     let s : State := (tOne.updSlice 0 fun x => { x with trk := [k] })
     let n : Fin 66 := 0
     let t : Fin 240 := 239
     let v := 0
     let x := s.slice n
     let r := k.req
     let set := lpSet (s.sh.lp r.line)
     s.alone n k ∧ k.no = t.val ∧ s.entry n r none { st := .i } ∧ x.stuck = [] ∧ x.repair = [] ∧ (List.range s.sh.dirw).find? (x.freeWay
       s.sh set) = some v ∧ r.kind = .leashTake) ∧
    (let k : Tracker := { no := 239, seq := 0, req := { kind := .rdOnce, port := 511, txid := 5, pack := 0, line := 0x40, f := 0, be := 0, data := [] } }
     let s : State := (tOne.updSlice 0 fun x => { x with trk := [k] })
     let n : Fin 66 := 0
     let t : Fin 240 := 239
     let x := s.slice n
     let r := k.req
     s.alone n k ∧ k.no = t.val ∧ s.entry n r none { st := .i } ∧ x.stuck = [] ∧ x.repair = [] ∧ r.kind = .rdOnce) ∧
    (let k : Tracker := { no := 239, seq := 0, req := { kind := .wrFull, port := 5, txid := 5, pack := 0, line := 0x40, f := 0, be := 0, data := [1, 2, 3, 4] } }
     let s : State := (tOne.updSlice 0 fun x => { x with trk := [k] })
     let n : Fin 66 := 0
     let t : Fin 240 := 239
     let x := s.slice n
     let r := k.req
     s.alone n k ∧ k.no = t.val ∧ s.entry n r none { st := .i } ∧ x.stuck = [] ∧ x.repair = [] ∧ r.kind = .wrFull) ∧
    (let k : Tracker := { no := 239, seq := 0, req := { kind := .wrPartial, port := 5, txid := 5, pack := 0, line := 0x40, f := 0, be := 3, data := [1, 2, 3, 4] } }
     let s : State := (tOne.updSlice 0 fun x => { x with trk := [k] })
     let n : Fin 66 := 0
     let t : Fin 240 := 239
     let x := s.slice n
     let r := k.req
     s.alone n k ∧ k.no = t.val ∧ s.entry n r none { st := .i } ∧ x.stuck = [] ∧ x.repair = [] ∧ r.kind = .wrPartial) := by
  dsimp only [State.awake, State.single, State.alone, State.entry, State.freeWay]; repeat (any_goals refine And.intro ?_ ?_)
  all_goals decide +kernel

/-- States and operands that meet the premises of `waiting_decisions`. -/
theorem witness_waiting_decisions :
    (let k : Tracker := { no := 239, seq := 0, req := { kind := .rdShared, port := 511, txid := 5, pack := 0, line := 0x40, f := 0, be := 0, data := [] }, stat := .waiting .order }
     let s : State := (tOne.updSlice 0 fun x => { x with trk := [k] })
     let n : Fin 66 := 0
     let t : Fin 240 := 239
     let way : Option Nat := none
     let e : EntNew := { st := .i }
     let r := k.req
     let p := tablePlan r.kind e r.port
     k.no = t.val ∧ s.single n k ∧ s.entry n r way e ∧ (way.isSome = true ∨ p.new.canon.st = .i ∨ s.freeWay n r) ∧ unlisted r.kind false e
       r.port = false ∧ (∀ a ∈ p.snooped, a < 512 ∧ (s.sh.port a).absent = false) ∧ r.kind ∈
       [ReqKind.rdShared, .rdUnique, .rdOnce, .upgrade, .wrBack, .evictClean, .wrFull, .wrPartial, .leashFree] ∧ k.stat = .waiting .order) ∧
    (let k : Tracker := { no := 239, seq := 0, req := { kind := .rdShared, port := 511, txid := 5, pack := 0, line := 0x40, f := 0, be := 0, data := [] }, stat := .waiting .way }
     let s : State := (tOne.updSlice 0 fun x => { x with trk := [k] })
     let n : Fin 66 := 0
     let t : Fin 240 := 239
     let way : Option Nat := none
     let e : EntNew := { st := .i }
     let r := k.req
     let p := tablePlan r.kind e r.port
     k.no = t.val ∧ s.single n k ∧ s.entry n r way e ∧ (way.isSome = true ∨ p.new.canon.st = .i ∨ s.freeWay n r) ∧ unlisted r.kind false e
       r.port = false ∧ (∀ a ∈ p.snooped, a < 512 ∧ (s.sh.port a).absent = false) ∧ r.kind ∈
       [ReqKind.rdShared, .rdUnique, .rdOnce, .upgrade, .wrBack, .evictClean, .wrFull, .wrPartial, .leashFree] ∧ k.stat = .waiting .way) ∧
    (let k : Tracker := { no := 239, seq := 0, req := { kind := .rdOnce, port := 511, txid := 5, pack := 0, line := 0x40, f := 0, be := 0, data := [] }, stat := .decided, exp := [{ kind := .mem, node := 640, msg := { cls := 0, cmd := 16, src := 512, dst := 640, txid := 239, pack := 0, line := 0x40, f := 0, units := [] }, held := true }] }
     let s : State := (tOne.updSlice 0 fun x => { x with trk := [k] })
     let n : Fin 66 := 0
     let m : Exp := { kind := .mem, node := 640, msg := { cls := 0, cmd := 16, src := 512, dst := 640, txid := 239, pack := 0, line := 0x40, f := 0, units := [] }, held := true }
     let x := s.slice n
     s.awake n ∧ x.trk = [k] ∧ x.rcl = [] ∧ x.collapses = [] ∧ x.far = [] ∧ k.exp = [m] ∧ m.kind = .mem ∧ m.held = true ∧ 512 ≤
       m.msg.dst.toNat ∧ k.no < 240) := by
  dsimp only [State.awake, State.single, State.entry, State.freeWay]; repeat (any_goals refine And.intro ?_ ?_)
  all_goals decide +kernel

/-- States and operands that meet the premises of `decision_tables`. -/
theorem witness_decision_tables :
    (let o : Nat := 0
     let a : Nat := 511
     let v : Vec := vecOf [0, 1, 4]
     o ≠ a ∧ a < 512 ∧ v.getLsbD a = false) ∧
    (let o : Nat := 0
     let a : Nat := 511
     let v : Vec := vecOf [0, 1, 4]
     o ≠ a ∧ a < 512 ∧ v.getLsbD a = false) ∧
    (let o : Nat := 0
     let a : Nat := 511
     let v : Vec := vecOf [0, 1, 4]
     o ≠ a ∧ a < 512 ∧ v.getLsbD a = false) ∧
    (let o : Nat := 0
     let a : Nat := 511
     let v : Vec := vecOf [0, 1, 4]
     o ≠ a ∧ a < 512 ∧ v.getLsbD a = false) ∧
    (let o : Nat := 0
     let a : Nat := 511
     let v : Vec := vecOf [0, 1, 4]
     o ≠ a ∧ a < 512 ∧ v.getLsbD a = false) ∧
    (let o : Nat := 0
     let a : Nat := 511
     let v : Vec := vecOf [0, 1, 4]
     o ≠ a ∧ a < 512 ∧ v.getLsbD a = false) ∧
    (let o : Nat := 0
     let a : Nat := 511
     let v : Vec := vecOf [0, 1, 4]
     o ≠ a ∧ a < 512 ∧ v.getLsbD a = false) ∧
    (let o : Nat := 0
     let a : Nat := 511
     let v : Vec := vecOf [0, 1, 4]
     o ≠ a ∧ a < 512 ∧ v.getLsbD a = false) ∧
    (let o : Nat := 0
     let a : Nat := 511
     let v : Vec := vecOf [0, 1, 4]
     o ≠ a ∧ a < 512 ∧ v.getLsbD a = false) ∧
    (let o : Nat := 0
     let a : Nat := 511
     let v : Vec := vecOf [0, 1, 4]
     o ≠ a ∧ a < 512 ∧ v.getLsbD a = false) ∧
    (let o : Nat := 0
     let a : Nat := 511
     let v : Vec := vecOf [0, 1, 4]
     o ≠ a ∧ a < 512 ∧ v.getLsbD a = false) ∧
    (let o : Nat := 0
     let a : Nat := 511
     let v : Vec := vecOf [0, 1, 4]
     o ≠ a ∧ a < 512 ∧ v.getLsbD a = false) ∧
    (let o : Nat := 0
     let a : Nat := 511
     let v : Vec := vecOf [0, 1, 4]
     o ≠ a ∧ a < 512 ∧ v.getLsbD a = false) ∧
    (let o : Nat := 0
     let a : Nat := 511
     let v : Vec := vecOf [0, 1, 4]
     o ≠ a ∧ a < 512 ∧ v.getLsbD a = false) ∧
    (let o : Nat := 0
     let a : Nat := 511
     let v : Vec := vecOf [0, 1, 4]
     o ≠ a ∧ a < 512 ∧ v.getLsbD a = false) ∧
    (let o : Nat := 0
     let a : Nat := 511
     let v : Vec := vecOf [0, 1, 4]
     o ≠ a ∧ a < 512 ∧ v.getLsbD a = false) ∧
    (let o : Nat := 0
     let a : Nat := 511
     let v : Vec := vecOf [0, 1, 4]
     o ≠ a ∧ a < 512 ∧ v.getLsbD a = false) ∧
    (let o : Nat := 0
     let a : Nat := 511
     let v : Vec := vecOf [0, 1, 4]
     o ≠ a ∧ a < 512 ∧ v.getLsbD a = false) ∧
    (let o : Nat := 0
     let a : Nat := 511
     let v : Vec := vecOf [0, 1, 4]
     o ≠ a ∧ a < 512 ∧ v.getLsbD a = false) ∧
    (let o : Nat := 0
     let a : Nat := 511
     let v : Vec := vecOf [0, 1, 4]
     o ≠ a ∧ a < 512 ∧ v.getLsbD a = false) ∧
    (let o : Nat := 0
     let a : Nat := 511
     let v : Vec := vecOf [0, 1, 4]
     o ≠ a ∧ a < 512 ∧ v.getLsbD a = false) ∧
    (let o : Nat := 0
     let a : Nat := 511
     let v : Vec := vecOf [0, 1, 4]
     o ≠ a ∧ a < 512 ∧ v.getLsbD a = false) ∧
    (let o : Nat := 0
     let a : Nat := 511
     let v : Vec := vecOf [0, 1, 4]
     o ≠ a ∧ a < 512 ∧ v.getLsbD a = false) ∧
    (let o : Nat := 0
     let a : Nat := 511
     let v : Vec := vecOf [0, 1, 4]
     o ≠ a ∧ a < 512 ∧ v.getLsbD a = false) ∧
    (let o : Nat := 0
     let a : Nat := 511
     let v : Vec := vecOf [0, 1, 4]
     o ≠ a ∧ a < 512 ∧ v.getLsbD a = false) ∧
    (let o : Nat := 0
     let a : Nat := 511
     let v : Vec := vecOf [0, 1, 4]
     o ≠ a ∧ a < 512 ∧ v.getLsbD a = false) ∧
    (let o : Nat := 0
     let a : Nat := 511
     let v : Vec := vecOf [0, 1, 4]
     o ≠ a ∧ a < 512 ∧ v.getLsbD a = false) ∧
    (let o : Nat := 0
     let a : Nat := 511
     let v : Vec := vecOf [0, 1, 4]
     o ≠ a ∧ a < 512 ∧ v.getLsbD a = false) ∧
    (let o : Nat := 0
     let a : Nat := 511
     let v : Vec := vecOf [0, 1, 4]
     o ≠ a ∧ a < 512 ∧ v.getLsbD a = false) ∧
    (let o : Nat := 0
     let a : Nat := 511
     let v : Vec := vecOf [0, 1, 4]
     o ≠ a ∧ a < 512 ∧ v.getLsbD a = false) ∧
    (let o : Nat := 0
     let a : Nat := 511
     let v : Vec := vecOf [0, 1, 4]
     o ≠ a ∧ a < 512 ∧ v.getLsbD a = false) ∧
    (let o : Nat := 0
     let a : Nat := 511
     let v : Vec := vecOf [0, 1, 4]
     o ≠ a ∧ a < 512 ∧ v.getLsbD a = false) ∧
    (let o : Nat := 0
     let a : Nat := 511
     let v : Vec := vecOf [0, 1, 4]
     o ≠ a ∧ a < 512 ∧ v.getLsbD a = false) ∧
    (let o : Nat := 0
     let a : Nat := 511
     let v : Vec := vecOf [0, 1, 4]
     o ≠ a ∧ a < 512 ∧ v.getLsbD a = false) ∧
    (let o : Nat := 0
     let a : Nat := 511
     let v : Vec := vecOf [0, 1, 4]
     o ≠ a ∧ a < 512 ∧ v.getLsbD a = false) ∧
    (let o : Nat := 0
     let a : Nat := 511
     let v : Vec := vecOf [0, 1, 4]
     o ≠ a ∧ a < 512 ∧ v.getLsbD a = false) ∧
    (let o : Nat := 0
     let a : Nat := 511
     let v : Vec := vecOf [0, 1, 4]
     o ≠ a ∧ a < 512 ∧ v.getLsbD a = false) ∧
    (let o : Nat := 0
     let a : Nat := 511
     let v : Vec := vecOf [0, 1, 4]
     o ≠ a ∧ a < 512 ∧ v.getLsbD a = false) ∧
    (let o : Nat := 0
     let a : Nat := 511
     let v : Vec := vecOf [0, 1, 4]
     o ≠ a ∧ a < 512 ∧ v.getLsbD a = false) ∧
    (let o : Nat := 0
     let a : Nat := 511
     let v : Vec := vecOf [0, 1, 4]
     o ≠ a ∧ a < 512 ∧ v.getLsbD a = false) ∧
    (let o : Nat := 0
     let a : Nat := 511
     let v : Vec := vecOf [0, 1, 4]
     o ≠ a ∧ a < 512 ∧ v.getLsbD a = false) ∧
    (let o : Nat := 0
     let a : Nat := 511
     let v : Vec := vecOf [0, 1, 4]
     o ≠ a ∧ a < 512 ∧ v.getLsbD a = false) ∧
    (let o : Nat := 0
     let a : Nat := 511
     let v : Vec := vecOf [0, 1, 4]
     o ≠ a ∧ a < 512 ∧ v.getLsbD a = false) := by
  dsimp only [State.awake, State.single]; repeat (any_goals refine And.intro ?_ ?_)
  all_goals decide +kernel

/-- States and operands that meet the premises of `atomic_operations`. -/
theorem witness_atomic_operations :
    (let line : BitVec 512 := 0x123456789ABCDEF0FEDCBA98765432108000000000000005800000018000000000000000800000010000000500000005 <<< 64 ||| 5
     let r : Req := { kind := .atomic, port := 0, txid := 0, pack := 0, line := 0, f := BitVec.ofNat 28 (2 + 16 * 0 + 64 * 0), data := [0x80000000000000010000000000000005] }
     let k := 8 * r.opSize
     let off := 8 * (r.f.toNat / 2 ^ 6 % 2 ^ 6)
     r.f.toNat % 16 ≤ 9 ∧ r.opSize ≤ 16 ∧ off + k ≤ 512) := by
  dsimp only [State.awake, State.single]; repeat (any_goals refine And.intro ?_ ?_)
  all_goals decide +kernel

/-- States and operands that meet the premises of `stencil_operations`. -/
theorem witness_stencil_operations :
    (let o : StnOp := { set := 32767, way := 15, line := 0x1FFFC0, new := { st := .x, owner := 0 } }
     let s : State := tOne.updSlice 0 fun x => { x with stq := [o] }
     let n : Fin 66 := 0
     let x := s.slice n
     let a := entAddr o.set o.way
     s.awake n ∧ x.stq = [o] ∧ x.stwait = [] ∧ x.collapses = [] ∧ o.release = none ∧ o.task = none ∧ o.htx = none ∧ x.stuck = [] ∧
       x.repair = [] ∧ x.parErr = [] ∧ (x.readC a).1 = .clean ∧ eForm (x.readD a) = false ∧ eState (x.readD a) ≠ 5 ∧ o.set < 32768 ∧ o.way <
       16 ∧ o.new.fits = true) ∧
    (let o : StnOp := { set := 32767, way := 15, line := 0x1FFFC0, new := { st := .s, sharers := vecOf (List.range 512) } }
     let s : State := tOne.updSlice 0 fun x => { x with stq := [o] }
     let n : Fin 66 := 0
     let r : Nat := 0
     let x := s.slice n
     let a := entAddr o.set o.way
     s.awake n ∧ x.stq = [o] ∧ x.stwait = [] ∧ x.collapses = [] ∧ o.release = none ∧ o.task = none ∧ o.htx = none ∧ x.stuck = [] ∧
       x.repair = [] ∧ x.parErr = [] ∧ (x.readC a).1 = .clean ∧ eForm (x.readD a) = false ∧ eState (x.readD a) ≠ 5 ∧ o.set < 32768 ∧ o.way <
       16 ∧ o.new.fits = false ∧ x.stnFind s.sh o.new.sharers = none ∧ x.freeRow s.sh = some r ∧ r < 8192 ∧ (∀ i ∈ x.findWords s.sh
       o.new.sharers, (x.readC i).1 = .clean)) := by
  dsimp only [State.awake, State.single]; repeat (any_goals refine And.intro ?_ ?_)
  all_goals decide +kernel

/-- States and operands that meet the premises of `far_atomics`. -/
theorem witness_far_atomics :
    (let f : Fin 8 := 7
     let k : Tracker := { no := 239, seq := 0, req := { kind := .atomic, port := 511, txid := 5, pack := 0, line := 0x40, f := 0x2002, be := 0, data := [7] } }
     let s : State := (tOne.updSlice 0 fun x => { x with trk := [k] })
     let n : Fin 66 := 0
     let t : Fin 240 := 239
     let m : Nat := 0
     let x := s.slice n
     let r := k.req
     s.alone n k ∧ k.no = t.val ∧ r.kind = .atomic ∧ s.entry n r none { st := .i } ∧ x.goesFar s.sh r (x.ownEvent s.sh r).2.1 false = true
       ∧ s.sh.target r.line = some m) ∧
    (let f : Fin 8 := 7
     let k : Tracker := { no := 239, seq := 0, req := { kind := .atomic, port := 511, txid := 5, pack := 0, line := 0x40, f := 0x2, be := 0, data := [7] }, far := some 7, stat := .decided }
     let y : FarReg := { no := 7, line := 0x40, valid := true, idle := 0x100, queue := [239] }
     let m : Nat := 0
     let s : State := tOne.updSlice 0 fun x =>
       { x with trk := [k], far := [y], mem := (List.range 8).foldl (fun m j => Memory.write m (bankAddr 28 (56 + j)) (encode72 0x1234 (bankAddr 28 (56 + j)))) [] }
     let n : Fin 66 := 0
     let t : Fin 240 := 239
     let rest : List Nat := []
     let x := s.slice n
     let r := k.req
     let a := bankAddr 28 (8 * f.val)
     let clean := ∀ j, j < 8 → (x.readC (a + j)).1 = .clean
     s.awake n ∧ x.trk = [k] ∧ x.rcl = [] ∧ x.collapses = [] ∧ x.far = [y] ∧ k.no = t.val ∧ k.far = some f.val ∧ k.stat = .decided ∧
       k.poison = false ∧ (∀ e ∈ k.exp, e.kind = .data) ∧ y.no = f.val ∧ y.valid = true ∧ y.poison = false ∧ y.queue = k.no :: rest ∧
       y.wbWanted = false ∧ r.kind = .atomic ∧ r.port < 512 ∧ (s.sh.port r.port).absent = false ∧ clean ∧ x.stuck = [] ∧ x.repair = []) ∧
    (let y : FarReg := { no := 7, line := 0x40, valid := true, idle := 0x100 }
     let m : Nat := 0
     let s : State := tOne.updSlice 0 fun x =>
       { x with far := [y], mem := (List.range 8).foldl (fun m j => Memory.write m (bankAddr 28 (56 + j)) (encode72 0x1234 (bankAddr 28 (56 + j)))) [] }
     let n : Fin 66 := 0
     let f : Fin 8 := 7
     let x := s.slice n
     let a := bankAddr 28 (8 * f.val)
     let clean := ∀ j, j < 8 → (x.readC (a + j)).1 = .clean
     s.awake n ∧ x.far = [y] ∧ y.no = f.val ∧ y.valid = true ∧ y.queue = [] ∧ y.wb = none ∧ x.atmCtl.toNat / 2 ^ 16 % 2 ^ 16 ≤ y.idle ∧
       clean ∧ s.sh.target y.line = some m ∧ m < 32) := by
  dsimp only [State.awake, State.single, State.alone, State.entry]; repeat (any_goals refine And.intro ?_ ?_)
  all_goals decide +kernel

/-- States and operands that meet the premises of `leashes_and_watches`. -/
theorem witness_leashes_and_watches :
    (let l : Leash := { no := 31, agent := 511, slot := true, line := 0x40, start := some 999000000, limit := 1000000 }
     let s : State := tOne.updSlice 0 fun x => { x with lsh := [l] }
     let n : Fin 66 := 0
     let li : Fin 32 := 31
     let t0 : Nat := 999000000
     let x := s.slice n
     s.awake n ∧ x.lsh = [l] ∧ l.no = li.val ∧ l.start = some t0 ∧ t0 + l.limit ≤ s.sh.now ∧ l.cut = none ∧ l.agent < 512 ∧ (s.sh.port
       l.agent).absent = false) ∧
    (let k : Tracker := { no := 239, seq := 0, req := { kind := .resvWatch, port := 511, txid := 5, pack := 0, line := 0x40, f := 0, be := 0, data := [] } }
     let s : State := (tOne.updSlice 0 fun x => { x with trk := [k] })
     let n : Fin 66 := 0
     let t : Fin 240 := 239
     let r := k.req
     let gran := (s.sh.pack r.pack.toNat).gran
     s.alone n k ∧ k.no = t.val ∧ r.kind = .resvWatch ∧ gran = 0) ∧
    (let k : Tracker := { no := 239, seq := 0, req := { kind := .resvWatch, port := 511, txid := 5, pack := 0, line := 0x40, f := 3, be := 0, data := [] } }
     let s : State := ((tOne.updSlice 0 fun x => { x with trk := [k] })).updSh fun g => g.updPack 0 fun p => { p with resv := 6 }
     let n : Fin 66 := 0
     let t : Fin 240 := 239
     let r := k.req
     let gran := (s.sh.pack r.pack.toNat).gran
     s.alone n k ∧ k.no = t.val ∧ r.kind = .resvWatch ∧ gran ≠ 0 ∧ r.f.getLsbD 2 = false) ∧
    (let k : Tracker := { no := 239, seq := 0, req := { kind := .resvWatch, port := 511, txid := 5, pack := 0, line := 0x40, f := 7, be := 0, data := [] } }
     let s : State := ((tOne.updSlice 0 fun x => { x with trk := [k] })).updSh fun g => g.updPack 0 fun p => { p with resv := 6 }
     let n : Fin 66 := 0
     let t : Fin 240 := 239
     let r := k.req
     let gran := (s.sh.pack r.pack.toNat).gran
     s.alone n k ∧ k.no = t.val ∧ r.kind = .resvWatch ∧ gran ≠ 0 ∧ r.f.getLsbD 2 = true) ∧
    (let k : Tracker := { no := 239, seq := 0, req := { kind := .resvWatch, port := 511, txid := 5, pack := 0, line := 0x40, f := 3, be := 0, data := [] }, stat := .decided }
     let s : State := (tOne.updSlice 0 fun x => { x with trk := [k] })
     let n : Fin 66 := 0
     let t : Fin 240 := 239
     let e : EntNew := { st := .l, owner := 511, leash := 31 }
     let x := s.slice n
     let r := k.req
     s.awake n ∧ s.anyReplay = false ∧ x.trk = [k] ∧ x.rcl = [] ∧ x.collapses = [] ∧ k.no = t.val ∧ r.kind = .resvWatch ∧ k.stat =
       .decided ∧ (∀ e ∈ k.exp, e.kind = .data) ∧ k.unit = none ∧ r.port < 512 ∧ (s.sh.port r.port).absent = false) ∧
    (let k : Tracker := { no := 239, seq := 0, req := { kind := .resvWatch, port := 511, txid := 5, pack := 0, line := 0x40, f := 3, be := 0, data := [] }, stat := .waiting .watchAge }
     let s : State := ((tOne.updSlice 0 fun x => { x with trk := [k] })).updSh fun g => g.updPack 0 fun p => { p with resv := 6 }
     let n : Fin 66 := 0
     let t : Fin 240 := 239
     let r := k.req
     let gran := (s.sh.pack r.pack.toNat).gran
     s.single n k ∧ k.no = t.val ∧ r.kind = .resvWatch ∧ k.stat = .waiting .watchAge ∧ gran ≠ 0 ∧ r.f.getLsbD 2 = false) ∧
    (let k : Tracker := { no := 239, seq := 0, req := { kind := .leashFree, port := 511, txid := 5, pack := 0, line := 0x40, f := 1, be := 0, data := [] } }
     let l : Leash := { no := 31, agent := 511, slot := true, line := 0x40, start := some 999000000, limit := 1000000 }
     let e : EntNew := { st := .l, owner := 511, leash := 31 }
     let s : State := (tOne.updSlice 0 fun x =>
       { x with trk := [k], lsh := [l], mem := Memory.write [] (entAddr 1 15) (encode72 (e.inlineWord 0) (entAddr 1 15)) })
     let n : Fin 66 := 0
     let t : Fin 240 := 239
     let v : Nat := 15
     let x := s.slice n
     let r := k.req
     let at_ := entAddr (lpSet (s.sh.lp r.line)) v
     (s.updSlice n fun y => { y with lsh := [] }).alone n k ∧ k.no = t.val ∧ r.kind = .leashFree ∧ x.lsh = [l] ∧ l.agent = r.port ∧ l.slot
       = r.f.getLsbD 0 ∧ l.cut = none ∧ x.entryOf s.sh r.line = (some v, e) ∧ e.st = .l ∧ e.owner = r.port ∧ e.leash = l.no ∧ x.entOk s.sh
       r.line (x.readD at_) = true ∧ x.stuck = [] ∧ x.repair = []) := by
  dsimp only [State.awake, State.single, State.alone]; repeat (any_goals refine And.intro ?_ ?_)
  all_goals decide +kernel

/-- States and operands that meet the premises of `offered_stash`. -/
theorem witness_offered_stash :
    (let k : Tracker := { no := 239, seq := 0, req := { kind := .stash, port := 5, txid := 5, pack := 0, line := 0x40, f := 511, be := 0, data := [1, 2, 3, 4] } }
     let s : State := ((tOne.updSlice 0 fun x => { x with trk := [k] })).updSh fun g => g.updPort 511 fun p => { p with stash := 1 }
     let n : Fin 66 := 0
     let t : Fin 240 := 239
     let v : Nat := 0
     let x := s.slice n
     let r := k.req
     let set := lpSet (s.sh.lp r.line)
     s.alone n k ∧ k.no = t.val ∧ r.kind = .stash ∧ s.entry n r none { st := .i } ∧ x.offers s.sh r = true ∧ x.stuck = [] ∧ x.repair = []
       ∧ (List.range s.sh.dirw).find? (x.freeWay s.sh set) = some v) := by
  dsimp only [State.awake, State.single, State.alone, State.entry, State.freeWay]; repeat (any_goals refine And.intro ?_ ?_)
  all_goals decide +kernel

/-- States and operands that meet the premises of `last_answer_completes`. -/
theorem witness_last_answer_completes :
    (let e : Exp := { kind := .mem, node := 640, msg := { cls := 0, cmd := 16, src := 512, dst := 640, txid := 239, pack := 0, line := 0x40, f := 0, units := [] } }
     let k : Tracker := { no := 239, seq := 0, req := { kind := .rdOnce, port := 511, txid := 5, pack := 0, line := 0x40, f := 0, be := 0, data := [] }, stat := .decided, exp := [e] }
     let s : State := (tOne.updSlice 0 fun x => { x with trk := [k] })
     let n : Fin 66 := 0
     let m : Msg := { cls := 2, cmd := 9, src := 640, dst := 512, txid := 239, pack := 0, line := 0x40, f := 0, units := [] }
     let pkt : Pkt := tPkt m
     s.awaits n k e ∧ s.intact n pkt m ∧ m.txid.toNat = k.no ∧ m.src.toNat = e.node ∧ m.cls = 2 ∧ m.cmd = 9 ∧ e.kind = .mem) ∧
    (let e : Exp := { kind := .inval, node := 0, msg := { cls := 1, cmd := 3, src := 512, dst := 0, txid := 239, pack := 0, line := 0x40, f := 0, units := [] } }
     let k : Tracker := { no := 239, seq := 0, req := { kind := .rdUnique, port := 511, txid := 5, pack := 0, line := 0x40, f := 0, be := 0, data := [] }, stat := .decided, exp := [e], grant := 2 }
     let s : State := (tOne.updSlice 0 fun x => { x with trk := [k] })
     let n : Fin 66 := 0
     let m : Msg := { cls := 2, cmd := 1, src := 0, dst := 512, txid := 239, pack := 0, line := 0x40, f := 0, units := [] }
     let pkt : Pkt := tPkt m
     s.awaits n k e ∧ s.intact n pkt m ∧ m.txid.toNat = k.no ∧ m.src.toNat = e.node ∧ m.cls = 2 ∧ m.cmd = 1 ∧ m.f.getLsbD 0 = false ∧
       m.line = e.msg.line ∧ e.kind = .inval) ∧
    (let e : Exp := { kind := .fwd, node := 0, msg := { cls := 1, cmd := 3, src := 512, dst := 0, txid := 239, pack := 0, line := 0x40, f := 0, units := [] } }
     let k : Tracker := { no := 239, seq := 0, req := { kind := .rdShared, port := 511, txid := 5, pack := 0, line := 0x40, f := 0, be := 0, data := [] }, stat := .decided, exp := [e] }
     let s : State := (tOne.updSlice 0 fun x => { x with trk := [k] })
     let n : Fin 66 := 0
     let m : Msg := { cls := 2, cmd := 2, src := 0, dst := 512, txid := 239, pack := 0, line := 0x40, f := 0, units := [] }
     let pkt : Pkt := tPkt m
     s.awaits n k e ∧ s.intact n pkt m ∧ m.txid.toNat = k.no ∧ m.src.toNat = e.node ∧ m.cls = 2 ∧ m.cmd = 2 ∧ m.line = e.msg.line ∧ e.kind
       = .fwd) := by
  dsimp only [State.awake, State.intact, State.single, State.awaits]; repeat (any_goals refine And.intro ?_ ?_)
  all_goals decide +kernel

/-- States and operands that meet the premises of `data_arrives`. -/
theorem witness_data_arrives :
    (let e : Exp := { kind := .recall, node := 0, msg := { cls := 1, cmd := 4, src := 512, dst := 0, txid := 239, pack := 0, line := 0x40, f := 0, units := [] } }
     let k : Tracker := { no := 239, seq := 0, req := { kind := .wrPartial, port := 5, txid := 5, pack := 0, line := 0x40, f := 0, be := 3, data := [9, 9, 9, 9] }, stat := .decided, exp := [e] }
     let s : State := (tOne.updSlice 0 fun x => { x with trk := [k] })
     let n : Fin 66 := 0
     let m : Msg := { cls := 3, cmd := 3, src := 0, dst := 512, txid := 239, pack := 0, line := 0x40, f := 0, units := [1, 2, 3, 4] }
     let pkt : Pkt := tPkt m
     let mt : Nat := 0
     let r := k.req
     s.intact n pkt m ∧ m.txid.toNat = k.no ∧ m.src.toNat = e.node ∧ s.awaits n k e ∧ m.cls = 3 ∧ m.cmd = 3 ∧ m.line = e.msg.line ∧ e.kind
       = .recall ∧ r.kind = .wrPartial ∧ s.sh.target r.line = some mt ∧ mt < 32) ∧
    (let e : Exp := { kind := .mem, node := 640, msg := { cls := 0, cmd := 16, src := 512, dst := 640, txid := 239, pack := 0, line := 0x40, f := 0, units := [] } }
     let k : Tracker := { no := 239, seq := 0, req := { kind := .atomic, port := 511, txid := 5, pack := 0, line := 0x40, f := 2, be := 0, data := [7] }, stat := .decided, exp := [e], far := some 7 }
     let y : FarReg := { no := 7, line := 0x40 }
     let s : State := tOne.updSlice 0 fun x => { x with trk := [k], far := [y] }
     let n : Fin 66 := 0
     let m : Msg := { cls := 3, cmd := 2, src := 640, dst := 512, txid := 239, pack := 0, line := 0x40, f := 0, units := [1, 2, 3, 4] }
     let pkt : Pkt := tPkt m
     let x := s.slice n
     s.intact n pkt m ∧ m.txid.toNat = k.no ∧ m.src.toNat = e.node ∧ s.awake n ∧ x.trk = [k] ∧ k.no < 240 ∧ k.far = some y.no ∧ x.far =
       [y] ∧ y.valid = false ∧ e ∈ k.exp ∧ e.kind = .mem ∧ e.held = false ∧ e.msg.cmd = 16 ∧ m.cls = 3 ∧ m.cmd = 2 ∧ x.stuck = [] ∧ x.repair
       = []) := by
  dsimp only [State.awake, State.intact, State.single, State.awaits]; repeat (any_goals refine And.intro ?_ ?_)
  all_goals decide +kernel

/-- States and operands that meet the premises of `answers_overdue`. -/
theorem witness_answers_overdue :
    (let e : Exp := { kind := .inval, node := 511, msg := { cls := 1, cmd := 3, src := 512, dst := 511, txid := 239, pack := 0, line := 0x40, f := 0, units := [] }, sentAt := 999900000 }
     let k : Tracker := { no := 239, seq := 0, req := { kind := .rdUnique, port := 0, txid := 5, pack := 0, line := 0x40, f := 0, be := 0, data := [] }, stat := .decided, exp := [e] }
     let s : State := (tOne.updSlice 0 fun x => { x with trk := [k] })
     let n : Fin 66 := 0
     let a : Fin 512 := 511
     let i : Fin 68 := 0
     let i' : Fin 67 := 0
     let m : Msg := { cls := 2, cmd := 8, src := 640, dst := 512, txid := 239, pack := 0, line := 0x40, f := 0xC0, units := [] }
     let pkt : Pkt := tPkt m
     let x := s.slice n
     let limit := 1000 * (s.sh.tmo.toNat % 2 ^ 20)
     i.val = n.val ∧ i'.val = n.val ∧ s.awaits n k e ∧ e.node = a.val ∧ e.kind = .inval ∧ e.sentAt + limit ≤ s.sh.now ∧ e.msg.dst.toNat =
       a.val ∧ (s.sh.port a).absent = false ∧ e.tries = 0 ∧ s.frozen = false ∧ x.up = true ∧ s.sh.stop = false ∧ s.intact n pkt m ∧ m.cls =
       2 ∧ m.cmd = 8 ∧ resendCopy x.copies m = none) ∧
    (let e : Exp := { kind := .inval, node := 511, msg := { cls := 1, cmd := 3, src := 512, dst := 511, txid := 239, pack := 0, line := 0x40, f := 0, units := [] }, sentAt := 999900000, tries := 1 }
     let k : Tracker := { no := 239, seq := 0, req := { kind := .rdUnique, port := 0, txid := 5, pack := 0, line := 0x40, f := 0, be := 0, data := [] }, stat := .decided, exp := [e] }
     let s : State := (tOne.updSlice 0 fun x => { x with trk := [k] })
     let n : Fin 66 := 0
     let a : Fin 512 := 511
     let i : Fin 68 := 0
     let i' : Fin 67 := 0
     let limit := 1000 * (s.sh.tmo.toNat % 2 ^ 20)
     i.val = n.val ∧ i'.val = n.val ∧ s.awaits n k e ∧ e.node = a.val ∧ e.kind = .inval ∧ e.sentAt + limit ≤ s.sh.now ∧ e.msg.dst.toNat =
       a.val ∧ (s.sh.port a).absent = false ∧ e.tries = 1 ∧ s.sh.walk = none) ∧
    (let e : Exp := { kind := .inval, node := 511, msg := { cls := 1, cmd := 3, src := 512, dst := 511, txid := 239, pack := 0, line := 0x40, f := 0, units := [] }, sentAt := 999900001 }
     let k : Tracker := { no := 239, seq := 0, req := { kind := .rdUnique, port := 0, txid := 5, pack := 0, line := 0x40, f := 0, be := 0, data := [] }, stat := .decided, exp := [e] }
     let s : State := (tOne.updSlice 0 fun x => { x with trk := [k] })
     let n : Fin 66 := 0
     let i : Fin 68 := 0
     let i' : Fin 67 := 0
     let limit := 1000 * (s.sh.tmo.toNat % 2 ^ 20)
     i.val = n.val ∧ i'.val = n.val ∧ s.awaits n k e ∧ s.sh.now < e.sentAt + limit) ∧
    (let e : Exp := { kind := .mem, node := 640, msg := { cls := 0, cmd := 16, src := 512, dst := 640, txid := 239, pack := 0, line := 0x40, f := 0, units := [] }, sentAt := 999800000, tries := 1 }
     let k : Tracker := { no := 239, seq := 0, req := { kind := .rdOnce, port := 0, txid := 5, pack := 0, line := 0x40, f := 0, be := 0, data := [] }, stat := .decided, exp := [e] }
     let s : State := (tOne.updSlice 0 fun x => { x with trk := [k] })
     let n : Fin 66 := 0
     let i : Fin 68 := 0
     let i' : Fin 67 := 0
     let limit := 1000 * (s.sh.tmo.toNat % 2 ^ 20)
     i.val = n.val ∧ i'.val = n.val ∧ s.awaits n k e ∧ e.kind = .mem ∧ e.sentAt + (e.tries + 1) * limit ≤ s.sh.now) ∧
    (let s : State := tOne.updSlice 0 fun x =>
       { x with copies := [{ cls := 0, cmd := 16, src := 512, dst := 640, txid := 239, pack := 0, line := 0x40, f := 0, units := [] }] }
     let n : Fin 66 := 0
     let i : Fin 68 := 0
     let i' : Fin 67 := 0
     let m : Msg := { cls := 2, cmd := 8, src := 640, dst := 512, txid := 239, pack := 0, line := 0x40, f := 0xC0, units := [] }
     let pkt : Pkt := tPkt m
     let c := ({ cls := 0, cmd := 16, src := 512, dst := 640, txid := 239, pack := 0, line := 0x40, f := 0, units := [] } : Msg)
     let x := s.slice n
     i.val = n.val ∧ i'.val = n.val ∧ s.frozen = false ∧ x.up = true ∧ s.sh.stop = false ∧ s.intact n pkt m ∧ m.cls = 2 ∧ m.cmd = 8 ∧
       resendCopy x.copies m = some c ∧ (512 ≤ c.dst.toNat ∨ (s.sh.port c.dst.toNat).absent = false)) ∧
    (let w : ResendWait := { src := 640, cls := 2, cmd := 9, txid := 239, line := none, at_ := 999999000 }
     let s : State := tOne.updSlice 0 fun x => { x with rsends := [w] }
     let n : Fin 66 := 0
     let i : Fin 68 := 0
     let i' : Fin 67 := 0
     let j : BitVec 12 := 0
     let x := s.slice n
     i.val = n.val ∧ i'.val = n.val ∧ s.awake n ∧ x.rsends[j.toNat]? = some w ∧ w.left = none ∧ w.sent = 1 ∧ w.at_ + 1000 ≤ s.sh.now ∧
       (512 ≤ w.src.toNat ∨ (s.sh.port w.src.toNat).absent = false)) ∧
    (let w : ResendWait := { src := 640, cls := 2, cmd := 9, txid := 239, line := none, at_ := 999999001 }
     let s : State := tOne.updSlice 0 fun x => { x with rsends := [w] }
     let n : Fin 66 := 0
     let i : Fin 68 := 0
     let i' : Fin 67 := 0
     let j : BitVec 12 := 0
     let x := s.slice n
     i.val = n.val ∧ i'.val = n.val ∧ s.awake n ∧ x.rsends[j.toNat]? = some w ∧ s.sh.now < w.at_ + 1000) := by
  dsimp only [State.awake, State.intact, State.single, State.awaits]; repeat (any_goals refine And.intro ?_ ?_)
  all_goals decide +kernel

/-- States and operands that meet the premises of `replay_commands`. -/
theorem witness_replay_commands :
    (let s : State := tOne
     let n : Fin 66 := 0
     let x := s.slice n
     s.nothingHeld ∧ s.frozen = false ∧ s.awake n ∧ x.up = true ∧ s.portFree ∧ s.lock.lock = false ∧ (s.sh.mode = .run ∨ s.sh.mode =
       .drain)) ∧
    (let s : State := { tOne with lock := { lock := true } }
     let n : Fin 66 := 0
     let x := s.slice n
     s.nothingHeld ∧ s.frozen = false ∧ s.portFree ∧ x.pwr = .on ∧ s.sh.mode ≠ .engrave ∧ s.lock.lock = true) ∧
    (let s : State := tOne.updSlice 0 fun x => { x with replay := true, rstart := 999950000 }
     let n : Fin 66 := 0
     let x := s.slice n
     s.nothingHeld ∧ s.frozen = false ∧ x.replay = true ∧ x.heldRx = [] ∧ x.unsent = [] ∧ x.unaccepted = [] ∧ x.trk = [] ∧ x.ent = [] ∧
       x.agedq = [] ∧ x.stq = [] ∧ x.slcp = false ∧ x.sliceCensusAfter = false ∧ s.ctl.rcv.step ≠ 5 ∧ s.sh.stop = false ∧ (x.mem.all fun y
       => (x.unplace y.1).all fun a => a / 32768 != 26) = true ∧ x.active = true ∧ x.rstart + 50000 ≤ s.sh.now ∧ s.ctl.ms.chg = false ∧
       s.ctl.rcv.step = 0 ∧ x.failed = false ∧ s.reloading = false ∧ s.sh.mode ≠ .dormant) ∧
    (let s : State := tOne.updSlice 0 fun x => { x with replay := true, rstart := 999950001 }
     let n : Fin 66 := 0
     let x := s.slice n
     s.nothingHeld ∧ s.frozen = false ∧ s.sh.now < x.rstart + 50000) := by
  dsimp only [State.portFree, State.nothingHeld, State.awake, State.single]; repeat (any_goals refine And.intro ?_ ?_)
  all_goals decide +kernel

/-- States and operands that meet the premises of `census_of_a_line`. -/
theorem witness_census_of_a_line :
    (let q : CenQueued := { cjob := 77, kind := .line, set := 1, way := 15, line := 0x40 }
     let s : State := tOne.updSlice 0 fun x =>
       { x with jobq := [q], mem := Memory.write [] (entAddr 1 15) (encode72 (({ st := .x, owner := 0 } : EntNew).inlineWord 0) (entAddr 1 15)) }
     let n : Fin 66 := 0
     let rest : List CenQueued := []
     let x := s.slice n
     let a := entAddr q.set q.way
     s.awake n ∧ x.jobs = [] ∧ x.jobq = q :: rest ∧ q.kind = .line ∧ x.slcp = false ∧ x.lsh = [] ∧ x.stuck = [] ∧ x.repair = [] ∧ x.bgFree
       = true ∧ (x.readC a).1 = .clean ∧ eForm (x.readD a) = false) ∧
    (let j : CenJob := { slot := 7, cjob := 77, kind := .line, set := 1, way := 15, line := 0x40, step := 2 }
     let s : State := tOne.updSlice 0 fun x => { x with jobs := [j] }
     let n : Fin 66 := 0
     let ji : Fin 8 := 7
     let x := s.slice n
     s.awake n ∧ x.jobs = [j] ∧ j.slot = ji.val ∧ j.step = 2 ∧ j.kind = .line ∧ x.cenReady s.sh j = true) ∧
    (let c : CenAgent := { agent := 511 }
     let j : CenJob := { slot := 7, cjob := 77, kind := .line, set := 1, way := 15, line := 0x40, step := 4, agents := [c] }
     let s : State := tOne.updSlice 0 fun x => { x with jobs := [j] }
     let n : Fin 66 := 0
     let m : Msg := { cls := 2, cmd := 3, src := 511, dst := 512, txid := 327, pack := 0, line := 0x40, f := 0, units := [BitVec.ofNat 128 (77 + 2 ^ 32)] }
     let pkt : Pkt := tPkt m
     let x := s.slice n
     s.awake n ∧ s.intact n pkt m ∧ m.cls = 2 ∧ m.cmd = 3 ∧ x.jobs = [j] ∧ j.slot < 8 ∧ j.step = 4 ∧ j.kind = .line ∧ j.agents = [c] ∧
       c.agent = m.src.toNat ∧ c.rseqs = [] ∧ j.recs = [] ∧ x.rcl = [] ∧ x.stuck = [] ∧ x.repair = [] ∧ x.bgFree = true ∧ m.txid.toNat = 320
       + j.slot ∧ m.units = [BitVec.ofNat 128 (j.cjob.toNat + 2 ^ 32)]) := by
  dsimp only [State.awake, State.intact, State.single]; repeat (any_goals refine And.intro ?_ ?_)
  all_goals decide +kernel

/-- States and operands that meet the premises of `agent_barriers`. -/
theorem witness_agent_barriers :
    (let s : State := tOne
     let n : Fin 66 := 0
     let m : Msg := { cls := 0, cmd := 14, src := 511, dst := 512, txid := 5, pack := 0, line := 0, f := 0xF4, units := [] }
     let pkt : Pkt := tPkt m
     let a : Fin 512 := 511
     let x := s.slice n
     let p := s.sh.port a
     let q := p.packNo
     s.frozen = false ∧ x.up = true ∧ s.intact n pkt m ∧ m.cls = 0 ∧ m.cmd = 14 ∧ m.src.toNat = a.val ∧ s.sh.stop = false ∧ x.dead = false
       ∧ x.retrying s.sh = false ∧ s.sh.gated q = false ∧ x.logical = p.group ∧ m.f.toNat % 4 = 0 ∧ x.bar = []) ∧
    (let s : State := tOne.updSh fun g => g.updPort 511 fun p => { p with cfg := p.cfg ||| put 3 8 }
     let n : Fin 66 := 0
     let m : Msg := { cls := 0, cmd := 14, src := 511, dst := 512, txid := 5, pack := 0, line := 0, f := 0xF4, units := [] }
     let pkt : Pkt := tPkt m
     let a : Fin 512 := 511
     let x := s.slice n
     let p := s.sh.port a
     let q := p.packNo
     s.frozen = false ∧ x.up = true ∧ s.intact n pkt m ∧ m.cls = 0 ∧ m.cmd = 14 ∧ m.src.toNat = a.val ∧ s.sh.stop = false ∧ x.dead = false
       ∧ x.retrying s.sh = false ∧ s.sh.gated q = false ∧ x.logical ≠ p.group) ∧
    (let b : BarArr := { port := 511, txid := 9, scope := 0, mem := false, gen := 3, at_ := 5, due := 1000000000 }
     let s : State := tOne.updSlice 0 fun x => { x with bar := [b] }
     let n : Fin 66 := 0
     let a : Fin 512 := 511
     let x := s.slice n
     let p := s.sh.port a
     s.awake n ∧ x.bar = [b] ∧ b.scope = 0 ∧ b.port = a.val ∧ b.stage = 0 ∧ p.absent = false ∧ s.anyReplay = false ∧ b.mem = false ∧ b.due
       ≤ s.sh.now) ∧
    (let b : BarArr := { port := 511, txid := 9, scope := 0, gen := 3, at_ := 5, due := 1000000000, mem := true }
     let s : State := tOne.updSlice 0 fun x => { x with bar := [b] }
     let n : Fin 66 := 0
     let a : Fin 512 := 511
     let x := s.slice n
     let p := s.sh.port a
     s.awake n ∧ x.bar = [b] ∧ b.scope = 0 ∧ b.port = a.val ∧ b.stage = 0 ∧ p.absent = false ∧ s.anyReplay = false ∧ b.mem = true) ∧
    (let b : BarArr := { port := 511, txid := 9, scope := 0, mem := false, gen := 3, at_ := 5, due := 1000000001 }
     let s : State := tOne.updSlice 0 fun x => { x with bar := [b] }
     let n : Fin 66 := 0
     let a : Fin 512 := 511
     let x := s.slice n
     let p := s.sh.port a
     s.awake n ∧ x.bar = [b] ∧ b.scope = 0 ∧ b.port = a.val ∧ b.stage = 0 ∧ p.absent = false ∧ s.sh.now < b.due) := by
  dsimp only [State.awake, State.intact, State.single]; repeat (any_goals refine And.intro ?_ ?_)
  all_goals decide +kernel

/-- States and operands that meet the premises of `slice_link_messages`. -/
theorem witness_slice_link_messages :
    (let n : Fin 66 := 0
     let p : Fin 16 := 0
     let src : Nat := 0
     let grp : Nat := 0
     let arr : Nat := 5
     let gen : BitVec 4 := 3
     let mem : Bool := true
     let s : State := { tOne with link := [.barReport n src p grp gen mem arr] }
     let rest : List Link := []
     let x := s.slice n
     s.awake n ∧ s.link = .barReport n src p grp gen mem arr :: rest ∧ x.coord = []) ∧
    (let n : Fin 66 := 0
     let p : Fin 16 := 0
     let src : Nat := 0
     let arr : Nat := 5
     let key : Nat := 100
     let s : State := { tOne with link := [.barFirst n src p arr key] }
     let rest : List Link := []
     let x := s.slice n
     s.awake n ∧ s.link = .barFirst n src p arr key :: rest ∧ x.coord = []) ∧
    (let n : Fin 66 := 0
     let p : Fin 16 := 0
     let scope : Nat := 0
     let gen : BitVec 4 := 3
     let mem : Bool := true
     let b : BarArr := { port := 511, txid := 9, scope := 2, mem := false, gen := 3, at_ := 5, due := 1000000000 }
     let s : State := ({ tOne with link := [.barRelease n p] }.updSlice 0 fun x => { x with bar := [b] })
     let rest : List Link := []
     let x := s.slice n
     let here := b.scope = 2 ∧ (s.sh.port b.port).packNo = p.val ∧ x.bar = [b] ∧ b.port < 512 ∧ (s.sh.port b.port).absent = false
     s.awake n ∧ s.link = .barRelease n p :: rest ∧ here) ∧
    (let n : Fin 66 := 0
     let p : Fin 16 := 0
     let scope : Nat := 0
     let gen : BitVec 4 := 3
     let mem : Bool := true
     let b : BarArr := { port := 511, txid := 9, scope := 2, mem := false, gen := 3, at_ := 5, due := 1000000000, stage := 1 }
     let s : State := ({ tOne with link := [.barMismatch n p] }.updSlice 0 fun x => { x with bar := [b] })
     let rest : List Link := []
     let x := s.slice n
     let here := b.scope = 2 ∧ (s.sh.port b.port).packNo = p.val ∧ x.bar = [b] ∧ b.port < 512 ∧ (s.sh.port b.port).absent = false
     s.awake n ∧ s.link = .barMismatch n p :: rest ∧ here ∧ b.stage = 1) ∧
    (let n : Fin 66 := 0
     let p : Fin 16 := 0
     let scope : Nat := 0
     let gen : BitVec 4 := 3
     let mem : Bool := true
     let b : BarArr := { port := 511, txid := 9, scope := 2, mem := false, gen := 3, at_ := 5, due := 1000000000 }
     let s : State := ({ tOne with link := [.barTimeout n p] }.updSlice 0 fun x => { x with bar := [b] })
     let rest : List Link := []
     let x := s.slice n
     let here := b.scope = 2 ∧ (s.sh.port b.port).packNo = p.val ∧ x.bar = [b] ∧ b.port < 512 ∧ (s.sh.port b.port).absent = false
     s.awake n ∧ s.link = .barTimeout n p :: rest ∧ here) ∧
    (let n : Fin 66 := 0
     let p : Fin 16 := 0
     let src : Nat := 0
     let arr : Nat := 5
     let missing : Nat := 2
     let k : Coord := { pack := 0, timedOut := true, groups := [] }
     let s : State := (({ tOne with link := [.barReply n src p arr missing] }.updSlice 0 fun x => { x with coord := [k] })).updSh fun g =>
       { g with ports := (Vector.replicate 512 ({} : Port)).set 0 (tPort 1) }
     let rest : List Link := []
     let x := s.slice n
     s.awake n ∧ s.link = .barReply n src p arr missing :: rest ∧ x.coord = [k] ∧ k.pack = p.val ∧ k.timedOut = true ∧ k.replies = [] ∧ (∀
       g ∈ s.sh.agentGroups p, s.sh.phys g = src) ∧ s.ctl.on = true) ∧
    (let n : Fin 66 := 0
     let c : Fin 66 := 65
     let scope : Nat := 0
     let key : Nat := 511
     let s : State := { tOne with link := [.memSync n c scope key] }
     let rest : List Link := []
     let x := s.slice n
     s.awake n ∧ s.link = .memSync n c scope key :: rest ∧ x.far = [] ∧ x.trk = [] ∧ x.rcl = []) ∧
    (let scope : Nat := 0
     let gen : BitVec 4 := 3
     let mem : Bool := true
     let b : BarArr := { port := 511, txid := 9, scope := 0, mem := false, gen := 3, at_ := 5, due := 1000000000, stage := 2 }
     let key : Nat := 511
     let y : MSync := { coord := 65, scope := 0, key := 511, noted := [] }
     let z : LocalSync := { scope := 0, key := 511, syncs := [0] }
     let s : State := (tOne.updSlice 0 fun x => { x with msync := [y] }).updSlice 65 fun x =>
       { x with pwr := .on, active := true, logical := 63, lsync := [z], bar := [b] }
     let n : Fin 66 := 0
     let c : Fin 66 := 65
     let x := s.slice n
     s.awake n ∧ s.awake c ∧ c ≠ n ∧ x.msync = [y] ∧ y.noted = [] ∧ y.coord = c.val ∧ y.scope = 0 ∧ (s.slice c).lsync = [z] ∧ z.scope = 0
       ∧ z.key = y.key ∧ z.syncs = [n.val] ∧ (s.slice c).bar = [b] ∧ b.scope = 0 ∧ b.port = y.key ∧ b.stage = 2 ∧ b.port < 512 ∧ (s.sh.port
       b.port).absent = false) := by
  dsimp only [State.awake, State.single]; repeat (any_goals refine And.intro ?_ ?_)
  all_goals decide +kernel

/-- States and operands that meet the premises of `mode_commands`. -/
theorem witness_mode_commands :
    (let s : State := tOne
     let conf : BitVec 8 := 1
     let m := s.sh.mode
     s.portFree ∧ s.changing = false ∧ (∀ q, q < 66 → (s.slice q).bar = [] ∧ (s.slice q).coord = []) ∧ (∀ l ∈ s.link, ∀ p, p < 16 →
       l.tells p = false) ∧ m = .run ∧ conf ≠ 0 ∧ m ≠ .drain ∧ m ≠ .dormant ∧ (m = .run ∨ m = .drain) ∧ s.dormantRefused = false ∧ s.drained
       = false) ∧
    (let s : State := (tMode .drain)
     let conf : BitVec 8 := 255
     let m := s.sh.mode
     s.portFree ∧ s.changing = false ∧ (∀ q, q < 66 → (s.slice q).bar = [] ∧ (s.slice q).coord = []) ∧ (∀ l ∈ s.link, ∀ p, p < 16 →
       l.tells p = false) ∧ m ≠ .run ∧ m = .drain ∧ conf ≠ 0 ∧ s.drained = true ∧ s.warmFit.warmRoom = true) ∧
    (let s : State := tMode .recover
     let m := s.sh.mode
     s.portFree ∧ s.changing = false ∧ (∀ q, q < 66 → (s.slice q).bar = [] ∧ (s.slice q).coord = []) ∧ (∀ l ∈ s.link, ∀ p, p < 16 →
       l.tells p = false) ∧ (s.dormantRefused = true ∨ (m ≠ .run ∧ m ≠ .drain))) ∧
    (let s : State := (tMode .drain).updLdg fun l =>
       { l with ctl := 1, open_ := [1, 2, 3, 4, 5], tail := List.replicate 4 { bseq := 0, words := [] }, head := List.replicate 16 { bseq := 0, words := [] } }
     s.portFree ∧ s.changing = false ∧ (∀ q, q < 66 → (s.slice q).bar = [] ∧ (s.slice q).coord = []) ∧ (∀ l ∈ s.link, ∀ p, p < 16 →
       l.tells p = false) ∧ s.drained = true ∧ s.warmFit.warmRoom = false) ∧
    (let s : State := (tMode .drain)
     let conf : BitVec 8 := 0xA4
     s.portFree ∧ s.changing = false ∧ (∀ q, q < 66 → (s.slice q).bar = [] ∧ (s.slice q).coord = []) ∧ (∀ l ∈ s.link, ∀ p, p < 16 →
       l.tells p = false) ∧ s.drained = true ∧ conf ≠ 0xA5) := by
  dsimp only [State.portFree, State.awake, State.single]; repeat (any_goals refine And.intro ?_ ?_)
  all_goals decide +kernel

/-- States and operands that meet the premises of `dormant_entry`. -/
theorem witness_dormant_entry :
    (let s : State := ((tMode .dormant).updMs fun m => { m with chg := true, from_ := .drain, stepAt := 999998000, step := 1 })
     let ms := s.ctl.ms
     let at_ := fun (k : Nat) => s.frozen = false ∧ s.sh.mode = .dormant ∧ ms.chg = true ∧ ms.step = k
     at_ 1 ∧ s.allIdle = true ∧ (∀ q ∈ s.liveSlices, (s.slice q).lsh = []) ∧ s.portFree ∧ at_ ms.step ∧ ms.step ≤ 3) ∧
    (let s : State := ((tMode .dormant).updMs fun m => { m with chg := true, from_ := .drain, stepAt := 999998000, step := 1 }).updSlice 0 fun x =>
       { x with trk := [{ no := 239, seq := 0, req := { kind := .rdOnce, port := 511, txid := 5, pack := 0, line := 0x40, f := 0, be := 0, data := [] } }] }
     let ms := s.ctl.ms
     let at_ := fun (k : Nat) => s.frozen = false ∧ s.sh.mode = .dormant ∧ ms.chg = true ∧ ms.step = k
     at_ 1 ∧ s.allIdle = false) ∧
    (let s : State := ((tMode .dormant).updMs fun m => { m with chg := true, from_ := .drain, stepAt := 999998000, step := 2 })
     let ms := s.ctl.ms
     let at_ := fun (k : Nat) => s.frozen = false ∧ s.sh.mode = .dormant ∧ ms.chg = true ∧ ms.step = k
     at_ 2 ∧ (∀ q ∈ s.liveSlices, (s.slice q).far = [] ∧ (s.slice q).loose = [] ∧ (s.slice q).rcl = [] ∧ (s.slice q).owed = [])) ∧
    (let s : State := ((tMode .dormant).updMs fun m => { m with chg := true, from_ := .drain, stepAt := 999998000, step := 2 }).updSlice 0 fun x =>
       { x with far := [{ no := 7, line := 0x40, valid := true, idle := 0x100 }] }
     let n : Fin 66 := 0
     let ms := s.ctl.ms
     let at_ := fun (k : Nat) => s.frozen = false ∧ s.sh.mode = .dormant ∧ ms.chg = true ∧ ms.step = k
     let x := s.slice n
     at_ 2 ∧ x.active = true ∧ x.pwr = .on ∧ x.far ≠ []) ∧
    (let s : State := ((tMode .dormant).updMs fun m => { m with chg := true, from_ := .drain, stepAt := 999998000, step := 3 })
     let ms := s.ctl.ms
     let at_ := fun (k : Nat) => s.frozen = false ∧ s.sh.mode = .dormant ∧ ms.chg = true ∧ ms.step = k
     at_ 3) ∧
    (let s : State := ((tMode .dormant).updMs fun m => { m with chg := true, from_ := .drain, stepAt := 999998000, step := 4 })
     let ms := s.ctl.ms
     let at_ := fun (k : Nat) => s.frozen = false ∧ s.sh.mode = .dormant ∧ ms.chg = true ∧ ms.step = k
     at_ 4 ∧ ms.stepAt + 2000 ≤ s.sh.now ∧ (∀ q ∈ s.liveSlices, (s.slice q).quiet = true) ∧ s.ctl.ldg.still = true ∧ s.portFree ∧ at_
       ms.step ∧ 4 ≤ ms.step ∧ ms.step ≠ 6) ∧
    (let s : State := ((tMode .dormant).updMs fun m => { m with chg := true, from_ := .drain, stepAt := 999998001, step := 4 })
     let ms := s.ctl.ms
     let at_ := fun (k : Nat) => s.frozen = false ∧ s.sh.mode = .dormant ∧ ms.chg = true ∧ ms.step = k
     at_ 4 ∧ (s.sh.now < ms.stepAt + 2000 ∨ s.ctl.ldg.still = false)) ∧
    (let s : State := ((tMode .dormant).updMs fun m => { m with chg := true, from_ := .drain, stepAt := 999998000, step := 4 }).updSlice 0 fun x =>
       { x with ent := [{ port := 511, req := { kind := .rdShared, port := 511, txid := 5, pack := 0, line := 0x40, f := 0, be := 0, data := [] }, complete := true }] }
     let n : Fin 66 := 0
     let ms := s.ctl.ms
     let at_ := fun (k : Nat) => s.frozen = false ∧ s.sh.mode = .dormant ∧ ms.chg = true ∧ ms.step = k
     let x := s.slice n
     at_ 4 ∧ x.active = true ∧ x.pwr = .on ∧ x.quiet = false) ∧
    (let s : State := tOne.updSlice 65 fun x => { x with pwr := .settling, egrant := 500 }
     let n : Fin 66 := 65
     let ms := s.ctl.ms
     let x := s.slice n
     let quiet := s.nothingHeld ∧ s.ctl.rcv.step = 0 ∧ ms.wakeWanted = false ∧ s.frozen = false
     quiet ∧ x.pwr = .settling) ∧
    (let s : State := ((tMode .dormant).updMs fun m => { m with chg := true, from_ := .drain, stepAt := 999998000, step := 5 }).updSlice 0 fun x =>
       { x with pwr := .toRet }
     let n : Fin 66 := 0
     let ms := s.ctl.ms
     let at_ := fun (k : Nat) => s.frozen = false ∧ s.sh.mode = .dormant ∧ ms.chg = true ∧ ms.step = k
     let x := s.slice n
     let quiet := s.nothingHeld ∧ s.ctl.rcv.step = 0 ∧ ms.wakeWanted = false ∧ s.frozen = false
     quiet ∧ x.pwr = .toRet ∧ at_ 5 ∧ (∀ q ∈ s.actives, q ≠ n.val → (s.slice q).pwr = .retained ∨ (s.slice q).pwr = .off)) ∧
    (let s : State := ((tMode .dormant).updMs fun m => { m with chg := true, from_ := .drain, stepAt := 999998000, step := 5 }).updSlice 0 fun x =>
       { x with pwr := .toOff }
     let n : Fin 66 := 0
     let ms := s.ctl.ms
     let x := s.slice n
     let quiet := s.nothingHeld ∧ s.ctl.rcv.step = 0 ∧ ms.wakeWanted = false ∧ s.frozen = false
     quiet ∧ x.pwr = .toOff) ∧
    (let s : State := tOne.updSlice 65 fun x => { x with pwr := .fromRet, egrant := 500 }
     let n : Fin 66 := 65
     let ms := s.ctl.ms
     let x := s.slice n
     let quiet := s.nothingHeld ∧ s.ctl.rcv.step = 0 ∧ ms.wakeWanted = false ∧ s.frozen = false
     quiet ∧ x.pwr = .fromRet) ∧
    (let s : State := ((tMode .dormant).updMs fun m => { m with chg := true, from_ := .drain, stepAt := 999998000, step := 6 })
     let ms := s.ctl.ms
     let at_ := fun (k : Nat) => s.frozen = false ∧ s.sh.mode = .dormant ∧ ms.chg = true ∧ ms.step = k
     s.portFree ∧ at_ 6) := by
  dsimp only [State.portFree, State.nothingHeld, State.awake, State.single]; repeat (any_goals refine And.intro ?_ ?_)
  all_goals decide +kernel

/-- States and operands that meet the premises of `wake_from_dormant`. -/
theorem witness_wake_from_dormant :
    (let s : State := ((tMode .dormant).updMs fun m => { m with stepAt := 999800000 })
     let n : Fin 66 := 0
     let ms := s.ctl.ms
     let x := s.slice n
     s.portFree ∧ s.sh.mode = .dormant ∧ ms.chg = false ∧ s.reloading = false ∧ s.frozen = false ∧ s.nothingHeld ∧ x.pwr ≠ .filling ∧
       x.filling = false ∧ s.ctl.on = true) ∧
    (let s : State := ((tMode .dormant).updMs fun m => { m with chg := true, step := 6, stepAt := 999970000, rails := [1, 2, 3] }).updSlice 63 fun x =>
       { x with active := true }
     let k : Fin 4 := 3
     let ms := s.ctl.ms
     let waking := s.frozen = false ∧ s.sh.mode = .dormant ∧ ms.step = 6
     waking ∧ ms.stepAt + 10000 * k.val ≤ s.sh.now ∧ ms.rails.length = k.val) ∧
    (let s : State := ((tMode .dormant).updMs fun m => { m with chg := true, step := 6, stepAt := 999970001, rails := [1, 2, 3] })
     let k : Fin 4 := 3
     let ms := s.ctl.ms
     let waking := s.frozen = false ∧ s.sh.mode = .dormant ∧ ms.step = 6
     waking ∧ s.sh.now < ms.stepAt + 10000 * k.val) ∧
    (let s : State := tOne.updSlice 0 fun x => { x with pwr := .filling, egrant := 0x1FFFFFF }
     let n : Fin 66 := 0
     let x := s.slice n
     s.frozen = false ∧ s.nothingHeld ∧ s.ctl.rcv.step = 0 ∧ s.sh.mode ≠ .engrave ∧ (x.pwr = .filling ∨ x.filling = true)) ∧
    (let s : State := (((tMode .dormant).updMs fun m => { m with chg := true, step := 6, stepAt := 999800000 })).updPins fun p =>
       { p with dormant := true }
     let ms := s.ctl.ms
     let waking := s.frozen = false ∧ s.sh.mode = .dormant ∧ ms.step = 6
     waking ∧ s.nothingHeld ∧ s.ctl.on = true ∧ s.ctl.lnk = true ∧ s.kn.trk = [] ∧ ms.failAfter = [] ∧ (∀ q ∈ s.actives, (s.slice q).pwr =
       .on ∧ (s.slice q).filling = false)) ∧
    (let s : State := ((tMode .dormant).updMs fun m => { m with chg := true, step := 6, stepAt := 999800000 }).updSlice 0 fun x =>
       { x with pwr := .fromRet }
     let n : Fin 66 := 0
     let ms := s.ctl.ms
     let x := s.slice n
     let waking := s.frozen = false ∧ s.sh.mode = .dormant ∧ ms.step = 6
     waking ∧ s.nothingHeld ∧ x.active = true ∧ (x.pwr ≠ .on ∨ x.filling = true) ∧ n.val ∉ ms.failAfter ∧ x.pwr = .fromRet ∧ ms.stepAt +
       200000 ≤ s.sh.now) ∧
    (let s : State := ((tMode .dormant).updMs fun m => { m with chg := true, step := 6, stepAt := 999800001 }).updSlice 0 fun x =>
       { x with pwr := .fromRet }
     let n : Fin 66 := 0
     let ms := s.ctl.ms
     let x := s.slice n
     let waking := s.frozen = false ∧ s.sh.mode = .dormant ∧ ms.step = 6
     waking ∧ x.pwr = .fromRet ∧ s.sh.now < ms.stepAt + 200000) ∧
    (let k : Fin 4 := 3
     let s : State := (tOne.updKn fun k => { k with rateAt := 999900000, rate := [(0, 3)] }).updPins fun p => { p with dormant := true }
     s.frozen = false ∧ s.pins.dormant = true) := by
  dsimp only [State.portFree, State.nothingHeld, State.awake, State.single]; repeat (any_goals refine And.intro ?_ ?_)
  all_goals decide +kernel

/-- States and operands that meet the premises of `resets`. -/
theorem witness_resets :
    (let s : State := State.reset
     s.pins.pwrgood = false ∧ s.pins.aonRst = false ∧ s.pins.coldRst = false ∧ s.kn.on = false) ∧
    (let s : State := (State.reset).updPins fun p => { p with aonRst := true }
     s.pins.pwrgood = false ∧ s.pins.aonRst = true) ∧
    (let s : State := tOne
     s.pins.pwrgood = true ∧ s.pins.aonRst = false ∧ s.pins.coldRst = false ∧ s.kn.on = true ∧ s.ctl.rp.held = [] ∧ s.frozen = false ∧
       s.sh.now < s.kn.rst.recAt + 60000000000) ∧
    (let s : State := (tOne).updPins fun p => { p with aonRst := true }
     s.pins.aonRst = true ∧ s.pins.pwrgood = true) ∧
    (let s : State := (tOne).updPins fun p => { p with coldRst := true }
     s.pins.coldRst = true ∧ s.kn.on = true ∧ s.kn.booted = true) ∧
    (let s : State := (((tOne).updPins fun p => { p with coldRst := true }).updKn fun k => { k with booted := false }).updSh fun g =>
       { g with mode := .engrave }
     s.pins.coldRst = true ∧ s.kn.on = true ∧ s.kn.booted = false ∧ s.sh.mode = .engrave ∧ s.kn.fuseFault = false ∧ s.kn.fuseBad = false) ∧
    (let s : State := ((tOne.updSh fun g => { g with now := 60000000000 }).updPins fun p => { p with coldRst := true })
     s.frozen = false ∧ s.pins.coldRst = true ∧ s.kn.on = true ∧ s.kn.rst.recAt + 60000000000 ≤ s.sh.now) := by
  dsimp only [State.awake, State.single]; repeat (any_goals refine And.intro ?_ ?_)
  all_goals decide +kernel

/-- States and operands that meet the premises of `start_up`. -/
theorem witness_start_up :
    (let s : State := ((tMode .engrave).updMs fun m => { m with chg := true, waves := 0, step := 1 })
     let ms := s.ctl.ms
     let at_ := fun (i : Nat) => s.frozen = false ∧ s.kn.on = true ∧ s.sh.mode = .engrave ∧ ms.step = i
     at_ 1) ∧
    (let s : State := ((tMode .engrave).updMs fun m => { m with chg := true, waves := 0, step := 2 })
     let ms := s.ctl.ms
     let at_ := fun (i : Nat) => s.frozen = false ∧ s.kn.on = true ∧ s.sh.mode = .engrave ∧ ms.step = i
     at_ 2 ∧ s.kn.fuseFault = false ∧ s.kn.fuseBad = false) ∧
    (let k : Fin 4 := 3
     let s : State := (((tMode .engrave).updKn fun k => { k with fuse := [(0, ⟨0, 3⟩), (4096, ⟨0, 3⟩)] }).updMs fun m =>
       { m with chg := true, waves := 0, step := 2 })
     let ms := s.ctl.ms
     let at_ := fun (i : Nat) => s.frozen = false ∧ s.kn.on = true ∧ s.sh.mode = .engrave ∧ ms.step = i
     at_ 2 ∧ s.kn.fuseFault = false ∧ s.kn.fuseBad = true) ∧
    (let k : Fin 4 := 3
     let s : State := (((tMode .engrave).updKn fun k => { k with store := [(calBase, ⟨0, 3⟩), (calBase + 4096, ⟨0, 3⟩)] }).updMs fun m =>
       { m with chg := true, waves := 0, step := 3 })
     let ms := s.ctl.ms
     let at_ := fun (i : Nat) => s.frozen = false ∧ s.kn.on = true ∧ s.sh.mode = .engrave ∧ ms.step = i
     at_ 3 ∧ s.kn.calCur = none ∧ s.kn.evq = []) ∧
    (let s : State := (((tMode .engrave).updSlice 63 fun x => { x with active := true }).updMs fun m =>
       { m with chg := true, waves := 0, step := 5, rails := [1, 2, 3] })
     let k : Fin 4 := 3
     let ms := s.ctl.ms
     let at_ := fun (i : Nat) => s.frozen = false ∧ s.kn.on = true ∧ s.sh.mode = .engrave ∧ ms.step = i
     at_ 5 ∧ ms.warm = false ∧ ms.rails.length = k.val) ∧
    (let s : State := ((tMode .engrave).updMs fun m => { m with chg := true, waves := 0, step := 7 })
     let ms := s.ctl.ms
     let at_ := fun (i : Nat) => s.frozen = false ∧ s.kn.on = true ∧ s.sh.mode = .engrave ∧ ms.step = i
     at_ 7) ∧
    (let s : State := ((tMode .engrave).updMs fun m => { m with chg := true, waves := 0, step := 9 })
     let ms := s.ctl.ms
     let at_ := fun (i : Nat) => s.frozen = false ∧ s.kn.on = true ∧ s.sh.mode = .engrave ∧ ms.step = i
     at_ 9 ∧ ms.waves = 0 ∧ ms.failAfter = [] ∧ s.nothingHeld) ∧
    (let s : State := (((tMode .engrave).updMs fun m => { m with chg := true, waves := 0, step := 4 })).updCtl fun c => { c with on := false }
     s.frozen = false ∧ s.islandWanted = true ∧ s.kn.evq = [] ∧ s.nothingHeld ∧ s.ctl.frz.cond = false) := by
  dsimp only [State.nothingHeld, State.awake, State.single]; repeat (any_goals refine And.intro ?_ ?_)
  all_goals decide +kernel

/-- States and operands that meet the premises of `sensors`. -/
theorem witness_sensors :
    (let s : State := tOne
     let i : Fin 24 := 23
     let raw : BitVec 16 := 2400
     let isl : Fin 68 := 67
     let mhz : BitVec 12 := 499
     let run := s.frozen = false ∧ s.kn.on = true
     let t : BitVec 16 := match s.kn.cal.sens[i.val]? with | some c => Config.thermalCorrect i raw c | none => raw
     run ∧ -640 ≤ t.toInt ∧ t.toInt ≤ 2400 ∧ s.frozen = false ∧ 66 ≤ isl.val ∧ (isl.val = 66 → s.ctl.lnk = true) ∧ mhz.toNat < 500 ∧
       s.ctl.on = true) ∧
    (let s : State := tOne
     let i : Fin 24 := 23
     let raw : BitVec 16 := 2401
     let n : Fin 66 := 65
     let isl : Fin 68 := 67
     let mhz : BitVec 12 := 800
     let run := s.frozen = false ∧ s.kn.on = true
     let t : BitVec 16 := match s.kn.cal.sens[i.val]? with | some c => Config.thermalCorrect i raw c | none => raw
     run ∧ (t.toInt < -640 ∨ 2400 < t.toInt) ∧ s.frozen = false ∧ (800 ≤ mhz.toNat ∨ (isl.val = n.val ∧ (s.slice n).pwr ≠ .on ∧ (s.slice
       n).pwr ≠ .filling))) ∧
    (let x : Regul := { cfg := 0x10080, poll := none, last := 999000000 }
     let k : Nat := 0
     let s : State := tOne.updKn fun k => { k with regs := k.regs.set 3 x }
     let r : Fin 4 := 3
     let run := s.frozen = false ∧ s.kn.on = true
     let due := fun (y : Regul) => y.cfg.getLsbD 7 = true ∧ y.last + 1000000 * (y.cfg.toNat / 2 ^ 16 % 2 ^ 8) ≤ s.sh.now
     run ∧ s.kn.regs[r.val]? = some x ∧ due x ∧ (∀ y ∈ s.kn.regs, y.poll = none) ∧ (∀ q < r.val, ∀ y ∈ s.kn.regs[q]?, ¬due y)) ∧
    (let x : Regul := { cfg := 0x10080, poll := some (2, true), last := 999000000 }
     let k : Nat := 0
     let s : State := tOne.updKn fun k => { k with regs := k.regs.set 3 x }
     let r : Fin 4 := 3
     let run := s.frozen = false ∧ s.kn.on = true
     let due := fun (y : Regul) => y.cfg.getLsbD 7 = true ∧ y.last + 1000000 * (y.cfg.toNat / 2 ^ 16 % 2 ^ 8) ≤ s.sh.now
     run ∧ s.kn.regs[r.val]? = some x ∧ (¬due x ∨ (∃ y ∈ s.kn.regs, y.poll ≠ none) ∨ (∃ q < r.val, ∃ y ∈ s.kn.regs[q]?, due y))) ∧
    (let x : Regul := { cfg := 0x11780, poll := some (0, true), last := 999000000 }
     let k : Nat := 0
     let s : State := tOne.updKn fun k => { k with regs := k.regs.set 3 x }
     let w : BitVec 16 := 768
     let r : Fin 4 := 3
     let bad : Bool := true
     let run := s.frozen = false ∧ s.kn.on = true
     let e := (bits x.cfg 12 8).toInt
     run ∧ s.kn.regs[r.val]? = some x ∧ x.poll = some (0, bad) ∧ e ≤ 0 ∧ (w.toNat * 1000) % 2 ^ (-e).toNat = 0 ∧ 300 * 2 ^ (-e).toNat ≤
       w.toNat * 1000 ∧ w.toNat * 1000 ≤ 1500 * 2 ^ (-e).toNat) ∧
    (let x : Regul := { cfg := 0x10080, poll := some (1, false), last := 999000000 }
     let k : Nat := 1
     let s : State := tOne.updKn fun k => { k with regs := k.regs.set 3 x }
     let r : Fin 4 := 3
     let bad : Bool := false
     let run := s.frozen = false ∧ s.kn.on = true
     run ∧ s.kn.regs[r.val]? = some x ∧ x.poll = some (k, bad) ∧ k < 2) ∧
    (let x : Regul := { cfg := 0x10080, poll := some (2, false), last := 999000000 }
     let k : Nat := 0
     let s : State := tOne.updKn fun k => { k with regs := k.regs.set 3 x }
     let r : Fin 4 := 3
     let bad : Bool := false
     let run := s.frozen = false ∧ s.kn.on = true
     run ∧ s.kn.regs[r.val]? = some x ∧ x.poll = some (2, bad) ∧ s.kn.evq = []) ∧
    (let x : Regul := { cfg := 0x10080, poll := none, last := 999000000 }
     let s : State := tOne.updSlice 65 fun x => { x with pwr := .on }
     let n : Fin 66 := 65
     let mhz : BitVec 12 := 799
     s.frozen = false ∧ (s.slice n).pwr = .on ∨ (s.slice n).pwr = .filling ∧ mhz.toNat < 800 ∧ s.ctl.on = true) := by
  dsimp only [State.awake, State.single]; repeat (any_goals refine And.intro ?_ ?_)
  all_goals decide +kernel

/-- States and operands that meet the premises of `store_work`. -/
theorem witness_store_work :
    (let p : PWord := { idx := 0x10001, data := 5, why := .plate }
     let s : State := tOne.updKn fun k => { k with prog := [p] }
     let prg := s.kn.on = true ∧ (s.frozen = false ∨ (s.ctl.frz.st = .stopping ∧ s.ctl.frz.word = true))
     let k := s.kn
     prg ∧ k.prog = [p] ∧ p.why = .plate ∧ k.dead = [] ∧ p.tries = 0) ∧
    (let b : Bool := true
     let p : PWord := { idx := 0x10001, data := 5, why := .slotRec b }
     let s : State := tOne.updKn fun k => { k with prog := [p] }
     let prg := s.kn.on = true ∧ (s.frozen = false ∨ (s.ctl.frz.st = .stopping ∧ s.ctl.frz.word = true))
     let k := s.kn
     prg ∧ k.prog = [p] ∧ p.why = .slotRec b ∧ k.plate.run = none ∧ k.dead = []) ∧
    (let f : BitVec 32 := 7
     let p : PWord := { idx := 0x10001, data := 5, why := .floorRec f }
     let s : State := tOne.updKn fun k => { k with prog := [p] }
     let prg := s.kn.on = true ∧ (s.frozen = false ∨ (s.ctl.frz.st = .stopping ∧ s.ctl.frz.word = true))
     let k := s.kn
     prg ∧ k.prog = [p] ∧ p.why = .floorRec f ∧ k.dead = []) ∧
    (let p : PWord := { idx := 0x10001, data := 5, why := .plate, tries := 1 }
     let s : State := tOne.updKn fun k => { k with prog := [p] }
     let prg := s.kn.on = true ∧ (s.frozen = false ∨ (s.ctl.frz.st = .stopping ∧ s.ctl.frz.word = true))
     let k := s.kn
     prg ∧ k.prog = [p] ∧ p.tries = 1 ∧ k.dead = [] ∧ k.remap = []) ∧
    (let s : State := tOne
     let run := s.frozen = false ∧ s.kn.on = true
     let prg := s.kn.on = true ∧ (s.frozen = false ∨ (s.ctl.frz.st = .stopping ∧ s.ctl.frz.word = true))
     let k := s.kn
     prg ∧ k.prog = [] ∧ s.frozen = false ∧ (s.ctl.ms.waves < 8 ∨ k.cal.due = []) ∧ run ∧ s.sh.now < k.storeScrubAt + 86400000000000 ∧
       s.sh.now < k.scrubAt + 1000000000 * (s.sh.scrub.toNat % 2 ^ 17)) ∧
    (let f : BitVec 32 := 7
     let s : State := ((tOne).updFrz fun f => { f with st := .stopping })
     s.frozen = true ∧ (s.ctl.frz.st ≠ .stopping ∨ s.ctl.frz.word = false)) ∧
    (let s : State := tOne.updKn fun k => { k with cal := { k.cal with due := [1, 2, 3, 4] } }
     let run := s.frozen = false ∧ s.kn.on = true
     let k := s.kn
     run ∧ s.ctl.ms.waves = 8 ∧ k.cal.due ≠ [] ∧ k.prog = []) ∧
    (let s : State := tOne.updSh fun g => { g with now := 3600000000000 }
     let run := s.frozen = false ∧ s.kn.on = true
     let k := s.kn
     run ∧ k.lifeAt + 3600000000000 ≤ s.sh.now ∧ s.sh.now < k.storeScrubAt + 86400000000000 ∧ k.scrubAt + 1000000000 * (s.sh.scrub.toNat %
       2 ^ 17) ≤ s.sh.now) ∧
    (let s : State := tOne.updSh fun g => { g with now := 3599999999999 }
     let k := s.kn
     s.frozen = false ∧ s.sh.now < k.lifeAt + 3600000000000) := by
  dsimp only [State.awake, State.single]; repeat (any_goals refine And.intro ?_ ?_)
  all_goals decide +kernel

/-- States and operands that meet the premises of `dormant_service`. -/
theorem witness_dormant_service :
    (let s : State := tOne
     let m : Msg := { cls := 0, cmd := 15, src := 511, dst := 1008, txid := 5, pack := 0, line := 0x40, f := 0, units := [] }
     let pkt : Pkt := tPkt m
     let r : Req := { kind := .cancel, port := 511, txid := 5, pack := 0, line := 0x40, f := 0, be := 0, data := [] }
     let run := s.frozen = false ∧ s.kn.on = true ∧ s.passes .kennel pkt m ∧ r.port < 512 ∧ (s.sh.port r.port).absent = false
     let request := run ∧ m.cls = 0 ∧ reqOf m = some r ∧ r.kind ≠ .barrier
     request ∧ r.kind = .cancel) ∧
    (let s : State := tOne.updSh fun g => { g with stop := true }
     let m : Msg := { cls := 0, cmd := 1, src := 511, dst := 1008, txid := 5, pack := 0, line := 0x40, f := 0, units := [] }
     let pkt : Pkt := tPkt m
     let r : Req := { kind := .rdShared, port := 511, txid := 5, pack := 0, line := 0x40, f := 0, be := 0, data := [] }
     let run := s.frozen = false ∧ s.kn.on = true ∧ s.passes .kennel pkt m ∧ r.port < 512 ∧ (s.sh.port r.port).absent = false
     let request := run ∧ m.cls = 0 ∧ reqOf m = some r ∧ r.kind ≠ .barrier
     request ∧ r.kind ≠ .cancel ∧ s.sh.stop = true) ∧
    (let s : State := tOne
     let m : Msg := { cls := 0, cmd := 1, src := 511, dst := 1008, txid := 5, pack := 0, line := 0x40, f := 0, units := [] }
     let pkt : Pkt := tPkt m
     let r : Req := { kind := .rdShared, port := 511, txid := 5, pack := 0, line := 0x40, f := 0, be := 0, data := [] }
     let run := s.frozen = false ∧ s.kn.on = true ∧ s.passes .kennel pkt m ∧ r.port < 512 ∧ (s.sh.port r.port).absent = false
     let request := run ∧ m.cls = 0 ∧ reqOf m = some r ∧ r.kind ≠ .barrier
     request ∧ r.kind ≠ .cancel ∧ s.sh.stop = false ∧ s.pins.dormant = false) ∧
    (let s : State := tOne.updPins fun p => { p with dormant := true }
     let m : Msg := { cls := 0, cmd := 1, src := 511, dst := 1008, txid := 5, pack := 0, line := 0x40, f := 0, units := [] }
     let pkt : Pkt := tPkt m
     let r : Req := { kind := .rdShared, port := 511, txid := 5, pack := 0, line := 0x40, f := 0, be := 0, data := [] }
     let run := s.frozen = false ∧ s.kn.on = true ∧ s.passes .kennel pkt m ∧ r.port < 512 ∧ (s.sh.port r.port).absent = false
     let request := run ∧ m.cls = 0 ∧ reqOf m = some r ∧ r.kind ≠ .barrier
     let checked := request ∧ s.sh.stop = false ∧ s.pins.dormant = true ∧ s.sh.knlCheck r = .pass ∧ r.kind ≠ .cancel
     checked ∧ (r.kind = .rdShared ∨ r.kind = .rdUnique ∨ r.kind = .upgrade ∨ r.kind = .wrBack ∨ s.sh.isScratch r.line = true) ∧
       s.kn.sheep.runState ≠ 2) ∧
    (let s : State := tOne.updPins fun p => { p with dormant := true }
     let m : Msg := { cls := 0, cmd := 2, src := 511, dst := 1008, txid := 5, pack := 0, line := 0x40, f := 0, units := [] }
     let pkt : Pkt := tPkt m
     let r : Req := { kind := .rdUnique, port := 511, txid := 5, pack := 0, line := 0x40, f := 0, be := 0, data := [] }
     let run := s.frozen = false ∧ s.kn.on = true ∧ s.passes .kennel pkt m ∧ r.port < 512 ∧ (s.sh.port r.port).absent = false
     let request := run ∧ m.cls = 0 ∧ reqOf m = some r ∧ r.kind ≠ .barrier
     let checked := request ∧ s.sh.stop = false ∧ s.pins.dormant = true ∧ s.sh.knlCheck r = .pass ∧ r.kind ≠ .cancel
     checked ∧ (r.kind = .rdShared ∨ r.kind = .rdUnique ∨ r.kind = .upgrade ∨ r.kind = .wrBack ∨ s.sh.isScratch r.line = true) ∧
       s.kn.sheep.runState ≠ 2) ∧
    (let s : State := (tOne.updPins fun p => { p with dormant := true }).updSh (fun g => { g with mode := .dormant }) |>.updSheep fun h =>
       { h with runState := 2 }
     let m : Msg := { cls := 0, cmd := 1, src := 511, dst := 1008, txid := 5, pack := 0, line := 0x40, f := 0, units := [] }
     let pkt : Pkt := tPkt m
     let r : Req := { kind := .rdShared, port := 511, txid := 5, pack := 0, line := 0x40, f := 0, be := 0, data := [] }
     let run := s.frozen = false ∧ s.kn.on = true ∧ s.passes .kennel pkt m ∧ r.port < 512 ∧ (s.sh.port r.port).absent = false
     let request := run ∧ m.cls = 0 ∧ reqOf m = some r ∧ r.kind ≠ .barrier
     let checked := request ∧ s.sh.stop = false ∧ s.pins.dormant = true ∧ s.sh.knlCheck r = .pass ∧ r.kind ≠ .cancel
     checked ∧ r.kind = .rdShared ∧ s.kn.sheep.runState = 2 ∧ s.kn.sheep.halted = false ∧ s.sh.mode = .dormant ∧ s.ctl.ms.chg = false) ∧
    (let s : State := tOne.updPins fun p => { p with dormant := true }
     let m : Msg := { cls := 0, cmd := 3, src := 5, dst := 1008, txid := 5, pack := 0, line := 0x40, f := 0, units := [] }
     let pkt : Pkt := tPkt m
     let r : Req := { kind := .rdOnce, port := 5, txid := 5, pack := 0, line := 0x40, f := 0, be := 0, data := [] }
     let tgt : Nat := 0
     let home := lpSlice (s.sh.lp r.line)
     let run := s.frozen = false ∧ s.kn.on = true ∧ s.passes .kennel pkt m ∧ r.port < 512 ∧ (s.sh.port r.port).absent = false
     let request := run ∧ m.cls = 0 ∧ reqOf m = some r ∧ r.kind ≠ .barrier
     let checked := request ∧ s.sh.stop = false ∧ s.pins.dormant = true ∧ s.sh.knlCheck r = .pass ∧ r.kind ≠ .cancel
     checked ∧ r.kind = .rdOnce ∧ (s.sh.port r.port).kind = 3 ∧ s.sh.isScratch r.line = false ∧ s.kn.scentOf r.line = 0 ∧ tget 0 s.kn.rate
       home + 1 ≤ s.kn.dsrv.toNat / 2 ^ 32 % 2 ^ 16 ∧ s.sh.target r.line = some tgt ∧ s.kn.trk = [] ∧ s.kn.plate.run = none ∧ (512 ≤ memNode
       tgt ∧ memNode tgt < 1024)) ∧
    (let r : Req := { kind := .rdOnce, port := 5, txid := 5, pack := 0, line := 0x40, f := 0, be := 0, data := [] }
     let j : KTrk := { no := 63, seq := 0, req := r, msg := { cls := 0, cmd := 16, src := 1008, dst := 640, txid := 63, pack := 0, line := 0x40, f := 0, units := [] }, sent := true, at_ := 5 }
     let s : State := (tOne.updPins fun p => { p with dormant := true }).updKn fun k => { k with trk := [j] }
     let m : Msg := { cls := 2, cmd := 9, src := 640, dst := 1008, txid := 63, pack := 0, line := 0x40, f := 0, units := [] }
     let pkt : Pkt := tPkt m
     let run := s.frozen = false ∧ s.kn.on = true ∧ s.passes .kennel pkt m ∧ r.port < 512 ∧ (s.sh.port r.port).absent = false
     run ∧ m.cls = 2 ∧ m.cmd = 9 ∧ s.kn.trk = [j] ∧ j.sent = true ∧ j.no = m.txid.toNat ∧ j.msg.dst = m.src ∧ j.req = r ∧ s.sh.stop =
       false ∧ m.f.getLsbD 17 = false ∧ s.kn.plate.run = none) := by
  dsimp only [State.awake, State.passes, State.single]; repeat (any_goals refine And.intro ?_ ?_)
  all_goals decide +kernel

/-- States and operands that meet the premises of `plate_commands`. -/
theorem witness_plate_commands :
    (let s : State := tOne.updPlate fun p => { p with run := some ({ op := 3, slot := true }) }
     let pl := s.kn.plate
     s.portFree ∧ (s.sh.mode = .run ∨ s.sh.mode = .drain ∨ s.sh.mode = .dormant) ∧ pl.busy = true) ∧
    (let s : State := tOne.updPlate fun p => { p with run := some ({ op := 2, slot := true }) }
     let pl := s.kn.plate
     s.portFree ∧ (s.sh.mode = .run ∨ s.sh.mode = .drain ∨ s.sh.mode = .dormant) ∧ pl.busy = true) ∧
    (let s : State := tOne.updPlate fun p => { p with run := some ({ op := 1, slot := true }) }
     let pl := s.kn.plate
     s.portFree ∧ (s.sh.mode = .run ∨ s.sh.mode = .drain ∨ s.sh.mode = .dormant) ∧ pl.busy = true) ∧
    (let s : State := tOne
     let conf : BitVec 8 := 0x5B
     let pl := s.kn.plate
     s.portFree ∧ (s.sh.mode = .run ∨ s.sh.mode = .drain ∨ s.sh.mode = .dormant) ∧ pl.busy = false ∧ conf ≠ 0x5A ∧ s.drained = false) ∧
    (let route : Word := 0x8000000000000FFF
     let s : State := tOne.updPlate fun p => { p with addr := 0x1F0123456789C0 ||| 0, route := 0x8000000000000FFF }
     let tgt : Nat := 31
     let pl := s.kn.plate
     s.portFree ∧ (s.sh.mode = .run ∨ s.sh.mode = .drain ∨ s.sh.mode = .dormant) ∧ pl.run = none ∧ s.plateTarget 0 = some (tgt, route) ∧
       s.kn.trk = []) ∧
    (let s : State := (tMode .drain)
     let conf : BitVec 8 := 0x5A
     let pl := s.kn.plate
     let free := s.drained = true ∧ s.ctl.ms.chg = false ∧ s.ctl.brn.busy = false ∧ ∀ p : Fin 16, (s.sh.pack p).fenceBusy = false
     s.portFree ∧ (s.sh.mode = .run ∨ s.sh.mode = .drain ∨ s.sh.mode = .dormant) ∧ pl.busy = false ∧ free ∧ conf ≠ 0) ∧
    (let s : State := tOne
     let conf : BitVec 8 := 1
     let pl := s.kn.plate
     s.portFree ∧ (s.sh.mode = .run ∨ s.sh.mode = .drain ∨ s.sh.mode = .dormant) ∧ pl.busy = false ∧ conf ≠ 0) := by
  dsimp only [State.portFree, State.awake, State.single]; repeat (any_goals refine And.intro ?_ ?_)
  all_goals decide +kernel

/-- States and operands that meet the premises of `plate_lines`. -/
theorem witness_plate_lines :
    (let f : Fetch := { line := 1, txid := 63, at_ := 999000000 }
     let o : PlateOp := { op := 1, slot := true, lenw := some 16, next := 2, out := [f] }
     let s : State := tOne.updPlate fun p => { p with run := some o, inf := true }
     let m : Msg := { cls := 3, cmd := 2, src := 640, dst := 1008, txid := 63, pack := 0, line := 0x40, f := 0, units := [1, 2, 3, 4] }
     let pkt : Pkt := tPkt m
     let got := s.passes .kennel pkt m ∧ f.txid = m.txid.toNat
     s.frozen = false ∧ s.kn.on = true ∧ s.kn.plate.run = some o ∧ o.op = 1 ∧ o.out = [f] ∧ s.kn.trk = [] ∧ got ∧ m.cls = 3 ∧ m.cmd = 2 ∧
       f.data = none ∧ f.rsp = false) ∧
    (let us : List Unit128 := [1, 2, 3, 4]
     let f : Fetch := { line := 1, txid := 63, at_ := 999000000, data := some us }
     let o : PlateOp := { op := 1, slot := true, lenw := some 16, next := 2, out := [f] }
     let s : State := tOne.updPlate fun p => { p with run := some o, inf := true }
     let m : Msg := { cls := 2, cmd := 9, src := 640, dst := 1008, txid := 63, pack := 0, line := 0x40, f := 0, units := [] }
     let pkt : Pkt := tPkt m
     let n : Nat := 16
     let tgt : Nat := 0
     let route : Word := 0
     let k : BitVec 6 := 63
     let got := s.passes .kennel pkt m ∧ f.txid = m.txid.toNat
     let rsp := got ∧ m.cls = 2 ∧ m.cmd = 9 ∧ f.data = some us ∧ f.rsp = false
     let clean := f.poison = false ∧ m.f.getLsbD 17 = false
     s.frozen = false ∧ s.kn.on = true ∧ s.kn.plate.run = some o ∧ o.op = 1 ∧ o.out = [f] ∧ s.kn.trk = [] ∧ rsp ∧ clean ∧ f.line ≠ 0 ∧
       o.lenw = some n ∧ o.lines ≤ o.next ∧ f.txid = k.toNat ∧ f.at_ + 1000000 ≤ s.sh.now ∧ f.poison = false ∧ f.tries = 0 ∧ s.plateTarget
       f.line = some (tgt, route)) ∧
    (let us : List Unit128 := [1, 2, 3, 4]
     let f : Fetch := { line := 1, txid := 63, at_ := 999000000, data := some us, poison := true }
     let o : PlateOp := { op := 1, slot := true, lenw := some 16, next := 2, out := [f] }
     let s : State := tOne.updPlate fun p => { p with run := some o, inf := true }
     let m : Msg := { cls := 2, cmd := 9, src := 640, dst := 1008, txid := 63, pack := 0, line := 0x40, f := 0, units := [] }
     let pkt : Pkt := tPkt m
     let got := s.passes .kennel pkt m ∧ f.txid = m.txid.toNat
     let rsp := got ∧ m.cls = 2 ∧ m.cmd = 9 ∧ f.data = some us ∧ f.rsp = false
     s.frozen = false ∧ s.kn.on = true ∧ s.kn.plate.run = some o ∧ o.op = 1 ∧ o.out = [f] ∧ s.kn.trk = [] ∧ rsp ∧ (f.poison = true ∨
       m.f.getLsbD 17 = true)) ∧
    (let us : List Unit128 := [1, 2, 3, 4]
     let f : Fetch := { line := 0, txid := 63, at_ := 999000000, data := some us }
     let o : PlateOp := { op := 1, slot := true, lenw := some 16, next := 2, out := [f] }
     let s : State := tOne.updPlate fun p => { p with run := some o, inf := true }
     let m : Msg := { cls := 2, cmd := 9, src := 640, dst := 1008, txid := 63, pack := 0, line := 0x40, f := 0, units := [] }
     let pkt : Pkt := tPkt m
     let got := s.passes .kennel pkt m ∧ f.txid = m.txid.toNat
     let rsp := got ∧ m.cls = 2 ∧ m.cmd = 9 ∧ f.data = some us ∧ f.rsp = false
     let clean := f.poison = false ∧ m.f.getLsbD 17 = false
     s.frozen = false ∧ s.kn.on = true ∧ s.kn.plate.run = some o ∧ o.op = 1 ∧ o.out = [f] ∧ s.kn.trk = [] ∧ rsp ∧ clean ∧ f.line = 0 ∧
       (fld ((wordsOfUnits us).getD 2 0) 51 32 < 64 ∨ 262144 < fld ((wordsOfUnits us).getD 2 0) 51 32)) ∧
    (let us : List Unit128 := [1, 2, 3, 4]
     let f : Fetch := { line := 1, txid := 63, at_ := 999000000, poison := true, data := some us }
     let o : PlateOp := { op := 1, slot := true, lenw := some 16, next := 2, out := [f] }
     let s : State := tOne.updPlate fun p => { p with run := some o, inf := true }
     let k : BitVec 6 := 63
     s.frozen = false ∧ s.kn.on = true ∧ s.kn.plate.run = some o ∧ o.op = 1 ∧ o.out = [f] ∧ s.kn.trk = [] ∧ f.txid = k.toNat ∧ f.at_ +
       1000000 ≤ s.sh.now ∧ f.poison = true) ∧
    (let f : Fetch := { line := 1, txid := 63, at_ := 999000000, tries := 1 }
     let o : PlateOp := { op := 1, slot := true, lenw := some 16, next := 2, out := [f] }
     let s : State := tOne.updPlate fun p => { p with run := some o, inf := true }
     let k : BitVec 6 := 63
     s.frozen = false ∧ s.kn.on = true ∧ s.kn.plate.run = some o ∧ o.op = 1 ∧ o.out = [f] ∧ s.kn.trk = [] ∧ f.txid = k.toNat ∧ f.at_ +
       1000000 ≤ s.sh.now ∧ f.poison = false ∧ f.tries = 1) ∧
    (let f : Fetch := { line := 1, txid := 63, at_ := 999000001 }
     let o : PlateOp := { op := 1, slot := true, lenw := some 16, next := 2, out := [f] }
     let s : State := tOne.updPlate fun p => { p with run := some o, inf := true }
     s.frozen = false ∧ s.kn.on = true ∧ s.kn.plate.run = some o ∧ o.op = 1 ∧ o.out = [f] ∧ s.kn.trk = [] ∧ s.sh.now < f.at_ + 1000000) := by
  dsimp only [State.awake, State.passes, State.single]; repeat (any_goals refine And.intro ?_ ?_)
  all_goals decide +kernel

/-- States and operands that meet the premises of `plate_results`. -/
theorem witness_plate_results :
    (let s : State := (((tMode .engrave).updMs fun m => { m with chg := true, waves := 0, step := 4, phase := 3 })).updCtl fun c => { c with on := false }
     let verify := s.sh.mode = .engrave ∧ s.ctl.ms.step = 4
     s.frozen = false ∧ s.kn.on = true ∧ verify ∧ s.ctl.on = false) ∧
    (let s : State := ((tMode .engrave).updMs fun m => { m with chg := true, waves := 0, step := 4, phase := 3 })
     let pl := s.kn.plate
     let verify := s.sh.mode = .engrave ∧ s.ctl.ms.step = 4
     s.frozen = false ∧ s.kn.on = true ∧ verify ∧ s.ctl.on = true ∧ pl.first = none) ∧
    (let p : PWord := { idx := 0x10001, data := 5, why := .plate }
     let e : Nat × Nat × Nat := (3, 4, 5)
     let s : State := (((tMode .engrave).updMs fun m => { m with chg := true, waves := 0, step := 4, phase := 3 })).updPlate fun p =>
       { p with first := some e }
     let pl := s.kn.plate
     let verify := s.sh.mode = .engrave ∧ s.ctl.ms.step = 4
     s.frozen = false ∧ s.kn.on = true ∧ verify ∧ s.ctl.on = true ∧ pl.first = some e) ∧
    (let o : PlateOp := { op := 1, slot := true, lenw := some 16, next := 2 }
     let p : PWord := { idx := 0x10001, data := 5, why := .plate }
     let s : State := tOne.updPlate fun p => { p with run := some (o) }
     let pl := s.kn.plate
     s.frozen = false ∧ s.kn.on = true ∧ pl.run = some o ∧ o.op = 1 ∧ o.lenw ≠ none ∧ o.lines ≤ o.next ∧ o.out = [] ∧ (∀ q ∈ s.kn.prog,
       q.why.ofPlate = false) ∧ s.kn.evq = [] ∧ s.ctl.ms.failAfter = []) ∧
    (let o : PlateOp := { op := 1, slot := true }
     let b : Bool := true
     let p : PWord := { idx := 0x10001, data := 5, why := .slotRec b }
     let s : State := (tOne.updPlate fun p => { p with run := some (o) }).updKn fun k => { k with prog := [p] }
     let pl := s.kn.plate
     s.frozen = false ∧ s.kn.on = true ∧ pl.run = some o ∧ o.op = 1 ∧ s.kn.prog = [p] ∧ p.why = .slotRec b ∧ s.kn.dead = [] ∧ s.noPlate =
       false ∧ s.kn.evq = [] ∧ s.ctl.ms.failAfter = []) ∧
    (let o : PlateOp := { op := 1, slot := true, lenw := some 17, next := 2 }
     let p : PWord := { idx := 0x10001, data := 5, why := .plate }
     let s : State := tOne.updPlate fun p => { p with run := some (o) }
     let pl := s.kn.plate
     s.frozen = false ∧ s.kn.on = true ∧ pl.run = some o ∧ o.op = 1 ∧ o.next < o.lines) ∧
    (let o : PlateOp := { op := 1, slot := true, lenw := some 16, next := 2 }
     let p : PWord := { idx := 0x10001, data := 5, why := .plate }
     let s : State := (tOne.updPlate fun p => { p with run := some (o) }).updKn fun k => { k with prog := [p] }
     let pl := s.kn.plate
     s.frozen = false ∧ s.kn.on = true ∧ pl.run = some o ∧ o.op = 1 ∧ (∃ q ∈ s.kn.prog, q.why.ofPlate = true)) ∧
    (let o : PlateOp := { op := 2, slot := true }
     let p : PWord := { idx := 0x10001, data := 5, why := .plate }
     let s : State := tOne.updPlate fun p => { p with run := some (o) }
     let pl := s.kn.plate
     s.frozen = false ∧ s.kn.on = true ∧ pl.run = some o ∧ o.op = 2) ∧
    (let o : PlateOp := { op := 3, slot := true }
     let p : PWord := { idx := 0x10001, data := 5, why := .plate }
     let s : State := tOne.updPlate fun p => { p with run := some (o) }
     let pl := s.kn.plate
     s.frozen = false ∧ s.kn.on = true ∧ pl.run = some o ∧ o.op = 3) := by
  dsimp only [State.awake, State.single]; repeat (any_goals refine And.intro ?_ ?_)
  all_goals decide +kernel

/-- States and operands that meet the premises of `substitution`. -/
theorem witness_substitution :
    (let s : State := ((((tMode .recover).updRcv fun r => { r with step := 2, lslice := 0, newp := 65, oldp := 0 }).updSlice 65 fun x =>
       { x with logical := 0, pwr := .settling }).updSlice 0 fun x => { x with sink := true, failed := true })
     let rc := s.ctl.rcv
     let at_ := fun (k : Nat) => s.frozen = false ∧ s.sh.mode = .recover ∧ rc.step.toNat = k ∧ s.spare < 66 ∧ s.failedOne < 66 ∧ s.spare ≠
       s.failedOne ∧ s.nothingHeld
     at_ 2) ∧
    (let s : State := ((((tMode .recover).updRcv fun r => { r with step := 3, lslice := 0, newp := 65, oldp := 0 }).updSlice 65 fun x =>
       { x with logical := 0, pwr := .settling }).updSlice 0 fun x => { x with sink := true, failed := true })
     let rc := s.ctl.rcv
     let at_ := fun (k : Nat) => s.frozen = false ∧ s.sh.mode = .recover ∧ rc.step.toNat = k ∧ s.spare < 66 ∧ s.failedOne < 66 ∧ s.spare ≠
       s.failedOne ∧ s.nothingHeld
     at_ 3 ∧ s.kn.evq = []) ∧
    (let s : State := ((((tMode .recover).updRcv fun r => { r with step := 4, lslice := 0, newp := 65, oldp := 0 }).updSlice 65 fun x =>
       { x with logical := 0, pwr := .settling }).updSlice 0 fun x => { x with sink := true, failed := true })
     let rc := s.ctl.rcv
     let at_ := fun (k : Nat) => s.frozen = false ∧ s.sh.mode = .recover ∧ rc.step.toNat = k ∧ s.spare < 66 ∧ s.failedOne < 66 ∧ s.spare ≠
       s.failedOne ∧ s.nothingHeld
     at_ 4) ∧
    (let s : State := (((((tMode .recover).updRcv fun r => { r with step := 5, lslice := 0, newp := 65, oldp := 0 }).updSlice 65 fun x =>
       { x with logical := 0, pwr := .settling }).updSlice 0 fun x => { x with sink := true, failed := true }).updSlice 65 fun x =>
       { x with active := true, replay := true, pwr := .on, sliceCensusAfter := true })
     let rc := s.ctl.rcv
     let at_ := fun (k : Nat) => s.frozen = false ∧ s.sh.mode = .recover ∧ rc.step.toNat = k ∧ s.spare < 66 ∧ s.failedOne < 66 ∧ s.spare ≠
       s.failedOne ∧ s.nothingHeld
     at_ 5 ∧ s.sh.stop = false) ∧
    (let s : State := (((((tMode .recover).updRcv fun r => { r with step := 5, lslice := 0, newp := 65, oldp := 0 }).updSlice 65 fun x =>
       { x with logical := 0, pwr := .settling }).updSlice 0 fun x => { x with sink := true, failed := true }).updSlice 65 fun x =>
       { x with active := true, replay := true, pwr := .on })
     let rc := s.ctl.rcv
     let at_ := fun (k : Nat) => s.frozen = false ∧ s.sh.mode = .recover ∧ rc.step.toNat = k ∧ s.spare < 66 ∧ s.failedOne < 66 ∧ s.spare ≠
       s.failedOne ∧ s.nothingHeld
     at_ 5 ∧ s.sh.stop = false ∧ (let y := s.slice s.spare; y.replay = true ∧ y.heldRx = [] ∧ y.unsent = [] ∧ y.slcp = false ∧ y.trk = []
       ∧ y.ent = [] ∧ y.agedq = [] ∧ y.lsh = [])) ∧
    (let s : State := (((((tMode .recover).updRcv fun r => { r with step := 6, lslice := 0, newp := 65, oldp := 0 }).updSlice 65 fun x =>
       { x with logical := 0, pwr := .settling }).updSlice 0 fun x => { x with sink := true, failed := true }).updSlice 65 fun x =>
       { x with active := true, pwr := .on })
     let rc := s.ctl.rcv
     let at_ := fun (k : Nat) => s.frozen = false ∧ s.sh.mode = .recover ∧ rc.step.toNat = k ∧ s.spare < 66 ∧ s.failedOne < 66 ∧ s.spare ≠
       s.failedOne ∧ s.nothingHeld
     at_ 6 ∧ (s.slice s.spare).slcp = false ∧ s.ctl.ms.failAfter = []) ∧
    (let s : State := (((((tMode .recover).updRcv fun r => { r with step := 6, lslice := 0, newp := 65, oldp := 0 }).updSlice 65 fun x =>
       { x with logical := 0, pwr := .settling }).updSlice 0 fun x => { x with sink := true, failed := true }).updSlice 65 fun x =>
       { x with active := true, pwr := .on, slcp := true })
     let rc := s.ctl.rcv
     let at_ := fun (k : Nat) => s.frozen = false ∧ s.sh.mode = .recover ∧ rc.step.toNat = k ∧ s.spare < 66 ∧ s.failedOne < 66 ∧ s.spare ≠
       s.failedOne ∧ s.nothingHeld
     at_ 6 ∧ (s.slice s.spare).slcp = true) ∧
    (let s : State := tOne
     let n : Fin 66 := 0
     let sp : Nat := 1
     let rest : List Nat := (s.spares.drop 1)
     let rc := s.ctl.rcv
     let x := s.slice n
     let fails := s.frozen = false ∧ x.pwr = .on ∧ x.failed = false ∧ x.active = true ∧ s.ctl.ms.chg = false ∧ rc.step = 0 ∧
       s.kn.plate.run = none ∧ s.sh.mode ≠ .dormant ∧ s.nothingHeld
     fails ∧ s.spares = sp :: rest) ∧
    (let s : State := (tOne.updKn fun k => { k with fuse := [] })
     let n : Fin 66 := 0
     let rc := s.ctl.rcv
     let x := s.slice n
     let fails := s.frozen = false ∧ x.pwr = .on ∧ x.failed = false ∧ x.active = true ∧ s.ctl.ms.chg = false ∧ rc.step = 0 ∧
       s.kn.plate.run = none ∧ s.sh.mode ≠ .dormant ∧ s.nothingHeld
     fails ∧ s.spares = [] ∧ x.trk = [] ∧ s.kn.evq = []) ∧
    (let s : State := tOne
     let n : Fin 66 := 65
     let x := s.slice n
     s.frozen = false ∧ x.pwr ≠ .on) ∧
    (let s : State := tOne.updSlice 0 fun x => { x with pwr := .retained }
     let n : Fin 66 := 0
     let x := s.slice n
     s.frozen = false ∧ x.pwr ≠ .on) := by
  dsimp only [State.nothingHeld, State.awake, State.single]; repeat (any_goals refine And.intro ?_ ?_)
  all_goals decide +kernel

/-- States and operands that meet the premises of `agents_leave`. -/
theorem witness_agents_leave :
    (let s : State := (tOne.updSh fun g => { g with walk := some 511 }).updSh fun g => g.updPort 511 fun p => { p with life := 1, bar := 1 }
     let a : Fin 512 := 511
     let p := s.sh.port a
     let walked := s.frozen = false ∧ s.sh.stop = false ∧ s.sh.walk = some a.val
     walked ∧ s.anyReplay = false ∧ p.barAt ≠ some s.sh.now ∧ s.ctl.rcv.step ≠ 4 ∧ (∀ q ∈ s.liveSlices, ((s.slice q).deadLines s.sh a).1 =
       0 ∧ (s.slice q).heldLines s.sh = [] ∧ (s.slice q).trk = [] ∧ (s.slice q).rcl = [] ∧ (s.slice q).collapses = [] ∧ (s.slice q).jobs =
       []) ∧ s.ctl.deadq = []) ∧
    (let s : State := ((tOne.updSlice 0 fun x =>
       { x with mem := Memory.write [] (entAddr 1 15) (encode72 (({ st := .x, owner := 511 } : EntNew).inlineWord 0) (entAddr 1 15)) }).updSh
       fun g => { g with walk := some 511 }).updSh fun g => g.updPort 511 fun p => { p with life := 1, bar := 1 }
     let a : Fin 512 := 511
     let lines : Nat := 1
     let walked := s.frozen = false ∧ s.sh.stop = false ∧ s.sh.walk = some a.val
     walked ∧ s.anyReplay = false ∧ lines = (s.liveSlices.map fun q => ((s.slice q).deadLines s.sh a).1).sum ∧ 0 < lines) ∧
    (let s : State := tOne
     let a : Fin 512 := 510
     let p := s.sh.port a
     let port := s.portFree ∧ s.sh.mode ≠ .engrave
     s.frozen = false ∧ (s.sh.walk = none ∨ s.anyReplay = true) ∧ port ∧ (p.absent = true ∨ a.val ∈ s.ctl.retiring)) ∧
    (let s : State := tOne
     let a : Fin 512 := 511
     let v : Word := 0
     let p := s.sh.port a
     let port := s.portFree ∧ s.sh.mode ≠ .engrave
     port ∧ p.absent = false ∧ a.val ∉ s.ctl.retiring ∧ v.toNat % 256 ≠ 1 ∧ s.frozen = false) ∧
    (let s : State := tOne
     let a : Fin 512 := 511
     let v : Word := 0xFFFFFFFFFFFFFF01
     let p := s.sh.port a
     let port := s.portFree ∧ s.sh.mode ≠ .engrave
     port ∧ p.absent = false ∧ a.val ∉ s.ctl.retiring ∧ v.toNat % 256 = 1) ∧
    (let s : State := tOne.updCtl fun c => { c with retiring := [511] }
     let a : Fin 512 := 511
     let p := s.sh.port a
     s.frozen = false ∧ a.val ∈ s.ctl.retiring ∧ s.ctl.rcv.step = 0 ∧ p.barAt ≠ some s.sh.now ∧ (∀ q ∈ s.actives, (s.slice q).dead = true
       ∨ ((s.slice q).pwr = .on ∧ (s.slice q).walkOver (.retire a) = true ∧ (s.slice q).awaits a = false))) ∧
    (let s : State := (tOne.updSlice 0 fun x => { x with walks := [{ why := .retire 511, next := 32767 }] }).updCtl fun c => { c with retiring := [511] }
     let a : Fin 512 := 511
     let n : Fin 66 := 0
     s.frozen = false ∧ (s.slice n).active = true ∧ (s.slice n).dead = false ∧ (s.slice n).pwr ≠ .on ∨ (s.slice n).walkOver (.retire a) =
       false ∨ (s.slice n).awaits a = true) := by
  dsimp only [State.portFree, State.awake, State.single, State.awaits]; repeat (any_goals refine And.intro ?_ ?_)
  all_goals decide +kernel

/-- States and operands that meet the premises of `pack_fences_and_resets`. -/
theorem witness_pack_fences_and_resets :
    (let s : State := ((tOne).updSh fun g => g.updPack 15 fun k => { k with fenceBusy := true })
     let p : Fin 16 := 15
     let pk := s.sh.pack p
     let port := s.portFree ∧ s.sh.mode ≠ .engrave
     port ∧ pk.fenceBusy = true) ∧
    (let s : State := tOne
     let p : Fin 16 := 15
     let v : Word := 0x100
     let pk := s.sh.pack p
     let port := s.portFree ∧ s.sh.mode ≠ .engrave
     let m : BitVec 8 := v.setWidth 8
     port ∧ pk.fenceBusy = false ∧ pk.resetBusy = false ∧ m = 0 ∧ s.frozen = false ∧ s.walkDone (.fence p) = false ∧ s.walkDone (.preset
       p) = false) ∧
    (let s : State := tOne
     let p : Fin 16 := 15
     let v : Word := 0xFF
     let pk := s.sh.pack p
     let port := s.portFree ∧ s.sh.mode ≠ .engrave
     let m : BitVec 8 := v.setWidth 8
     port ∧ pk.fenceBusy = false ∧ pk.resetBusy = false ∧ m ≠ 0) ∧
    (let s : State := ((((tOne).updSh fun g => g.updPack 15 fun k => { k with fenceBusy := true, fenceMask := 3 })).updBrn fun b =>
       { b with run := some (.fence 15), iNext := 512 })
     let p : Fin 16 := 15
     let pk := s.sh.pack p
     s.frozen = false ∧ pk.fenceBusy = true ∧ s.walkDone (.fence p) = true ∧ s.kn.evq = []) ∧
    (let s : State := tOne
     let p : Fin 16 := 15
     let v : Word := 1
     let port := s.portFree ∧ s.sh.mode ≠ .engrave
     let mode := s.sh.mode = .run ∨ s.sh.mode = .drain
     let idle := ∀ q : Fin 16, (s.sh.pack q).resetBusy = false
     port ∧ mode ∧ idle ∧ v.toNat % 256 = 1 ∧ s.anyReplay = false ∧ (∀ q, q < 66 → (s.slice q).bar = [] ∧ (s.slice q).coord = []) ∧ (∀ l ∈
       s.link, l.tells p = false) ∧ (∀ i : Fin 16, (s.ctl.brn.job i).live = false) ∧ s.ctl.brn.queue = []) ∧
    (let s : State := tOne
     let v : Word := 0
     let port := s.portFree ∧ s.sh.mode ≠ .engrave
     let mode := s.sh.mode = .run ∨ s.sh.mode = .drain
     let idle := ∀ q : Fin 16, (s.sh.pack q).resetBusy = false
     port ∧ mode ∧ idle ∧ v.toNat % 256 ≠ 1) ∧
    (let s : State := tMode .recover
     let p : Fin 16 := 15
     let pk := s.sh.pack p
     let port := s.portFree ∧ s.sh.mode ≠ .engrave
     let mode := s.sh.mode = .run ∨ s.sh.mode = .drain
     port ∧ (¬mode ∨ pk.resetBusy = true)) ∧
    (let s : State := ((tOne).updSh fun g => g.updPack 15 fun k => { k with resetBusy := true, resetStep := 1, gate := 1 })
     let p : Fin 16 := 15
     let pk := s.sh.pack p
     s.frozen = false ∧ pk.resetBusy = true ∧ pk.resetStep = 1 ∧ s.packIdle p = true ∧ s.sh.stop = false ∧ s.anyReplay = false ∧ (∀ j ∈
       s.ctl.brn.jobs, j.live = false) ∧ s.ctl.brn.run = none ∧ s.ctl.brn.paused = none ∧ .fence p.val ∉ s.ctl.brn.queue ∧ (∀ q, q < 66 →
       (s.slice q).lsh = [] ∧ (s.slice q).wat = [])) ∧
    (let s : State := tOne.updSlice 0 fun x =>
       { x with trk := [{ no := 239, seq := 0, req := { kind := .rdOnce, port := 511, txid := 5, pack := 0, line := 0x40, f := 0, be := 0, data := [] } }] }
     let p : Fin 16 := 0
     s.frozen = false ∧ (s.packIdle p = false ∨ s.sh.stop = true ∨ s.anyReplay = true)) ∧
    (let s : State := ((((tOne).updSh fun g => g.updPack 15 fun k =>
       { k with resetBusy := true, resetStep := 4, fenceBusy := true, gate := 1, deny := [1,2,3,4,5], shape := 0x80000FFF00000001 })).updBrn
       fun b => { b with run := some (.preset 15), iNext := 512 })
     let p : Fin 16 := 15
     let pk := s.sh.pack p
     s.frozen = false ∧ pk.resetBusy = true ∧ pk.resetStep = 4 ∧ s.walkDone (.preset p) = true ∧ s.kn.evq = [] ∧ (∀ q ∈ s.liveSlices,
       (s.slice q).lsh = [])) := by
  dsimp only [State.portFree, State.awake, State.single]; repeat (any_goals refine And.intro ?_ ?_)
  all_goals decide +kernel

/-- States and operands that meet the premises of `burin_commands`. -/
theorem witness_burin_commands :
    (let s : State := ((tOne).updBrn fun b => { b with jobs := b.jobs.set 15 ({ d0 := 0x1, d1 := 0, d2 := 0 }) })
     let i : Fin 16 := 15
     let b := s.ctl.brn
     let j := b.job i
     let op := j.d0.toNat % 16
     let ready := (s.sh.mode = .run ∨ s.sh.mode = .drain ∨ s.sh.mode = .recover) ∧ s.sh.stop = false ∧ j.live = false
     let legal := 1 ≤ op ∧ op ≤ 3 ∧ j.d0.toNat / 2 ^ 20 = 0 ∧ j.d0.toNat / 2 ^ 16 % 16 ≤ 12 ∧ j.d0.toNat / 2 ^ 12 % 16 = 0 ∧ j.d0.toNat /
       2 ^ 5 % 8 = 0 ∧ j.d1.toNat / 2 ^ 48 = 0 ∧ j.d2.toNat / 2 ^ 48 = 0 ∧ j.d1.toNat % 2 ^ 12 = 0 ∧ j.d2.toNat % 2 ^ 12 = 0 ∧ j.d1.toNat ≤
       j.d2.toNat
     s.portFree ∧ ready ∧ legal ∧ s.kn.evq = [] ∧ s.sh.mode ≠ .engrave ∧ j.live = false) ∧
    (let s : State := ((tOne).updBrn fun b => { b with jobs := b.jobs.set 15 ({ d0 := 0x1, d1 := 0, d2 := 0, status := 1 }) })
     let i : Fin 16 := 15
     let b := s.ctl.brn
     let j := b.job i
     let ready := (s.sh.mode = .run ∨ s.sh.mode = .drain ∨ s.sh.mode = .recover) ∧ s.sh.stop = false ∧ j.live = false
     s.portFree ∧ ¬ready) ∧
    (let s : State := tMode .dormant
     let i : Fin 16 := 15
     let b := s.ctl.brn
     let j := b.job i
     let ready := (s.sh.mode = .run ∨ s.sh.mode = .drain ∨ s.sh.mode = .recover) ∧ s.sh.stop = false ∧ j.live = false
     s.portFree ∧ ¬ready) ∧
    (let s : State := tOne
     let i : Fin 16 := 15
     let b := s.ctl.brn
     let j := b.job i
     let op := j.d0.toNat % 16
     let ready := (s.sh.mode = .run ∨ s.sh.mode = .drain ∨ s.sh.mode = .recover) ∧ s.sh.stop = false ∧ j.live = false
     s.portFree ∧ ready ∧ (op = 0 ∨ 5 < op ∨ j.d0.toNat / 2 ^ 20 ≠ 0 ∨ 12 < j.d0.toNat / 2 ^ 16 % 16)) ∧
    (let s : State := ((tOne).updBrn fun b => { b with jobs := b.jobs.set 15 ({ d0 := 0x1, d1 := 0, d2 := 0, status := 1 }), queue := [.slot 15] })
     let i : Fin 16 := 15
     let b := s.ctl.brn
     let j := b.job i
     s.portFree ∧ s.sh.mode ≠ .engrave ∧ j.status = 1 ∧ s.kn.evq = []) ∧
    (let s : State := ((tOne).updBrn fun b => { b with jobs := b.jobs.set 15 ({ d0 := 0x1, d1 := 0, d2 := 0, status := 2, out := [3] }) })
     let i : Fin 16 := 15
     let b := s.ctl.brn
     let j := b.job i
     s.portFree ∧ s.sh.mode ≠ .engrave ∧ j.status = 2 ∧ j.out ≠ []) := by
  dsimp only [State.portFree, State.awake, State.single]; repeat (any_goals refine And.intro ?_ ?_)
  all_goals decide +kernel

/-- States and operands that meet the premises of `burin_work`. -/
theorem witness_burin_work :
    (let s : State := ((tOne).updBrn fun b =>
       { b with jobs := b.jobs.set 15 ({ d0 := 0x1, d1 := 0, d2 := 0, status := 1, job := [0x1, 0, 0x3000] }), queue := [.slot 15] })
     let i : Fin 16 := 15
     let rest : List BJob := []
     let b := s.ctl.brn
     let j := b.job i
     let noPreset := fun (l : List BJob) => l.all (fun x => match x with | .preset _ => false | _ => true) = true
     s.frozen = false ∧ s.ctl.on = true ∧ s.sh.stop = false ∧ b.queue = .slot i.val :: rest ∧ noPreset rest ∧ b.run = none ∧ b.paused =
       none ∧ j.status = 1 ∧ j.walk = false) ∧
    (let s : State := ((tOne.updSlice 65 fun x => { x with active := true, pwr := .off }).updBrn fun b =>
       { b with jobs := b.jobs.set 15 ({ d0 := 0x1, d1 := 0, d2 := 0, status := 1, job := [0x1, 0, 0xFFFFFFFFF000], walk := true }), queue := [.slot 15] })
     let i : Fin 16 := 15
     let rest : List BJob := []
     let b := s.ctl.brn
     let j := b.job i
     let noPreset := fun (l : List BJob) => l.all (fun x => match x with | .preset _ => false | _ => true) = true
     s.frozen = false ∧ s.ctl.on = true ∧ s.sh.stop = false ∧ b.queue = .slot i.val :: rest ∧ noPreset rest ∧ b.run = none ∧ b.paused =
       none ∧ j.status = 1 ∧ j.walk = true) ∧
    (let s : State := ((tOne).updBrn fun b =>
       { b with jobs := b.jobs.set 15 ({ d0 := 0x1, d1 := 0, d2 := 0, status := 2, job := [0x1, 0, 0x3000] }), run := some (.slot 15), queue := [.slot 3, .fence 2] })
     let i : Fin 16 := 15
     let b := s.ctl.brn
     let mine := b.run = some (.slot i.val)
     let noPreset := fun (l : List BJob) => l.all (fun x => match x with | .preset _ => false | _ => true) = true
     s.frozen = false ∧ s.ctl.on = true ∧ s.sh.stop = false ∧ mine ∧ noPreset b.queue) ∧
    (let s : State := ((tOne.updSlice 0 fun x => { x with walks := [{ why := .job 15, stop := 0, op := 1 }] }).updBrn fun b =>
       { b with jobs := b.jobs.set 15 ({ d0 := 0x1, d1 := 0, d2 := 0, status := 2, job := [0x1, 0, 0xFFFFFFFFF000], walk := true }), run := some (.slot 15) })
     let i : Fin 16 := 15
     let k : Nat := 0
     let b := s.ctl.brn
     let j := b.job i
     let mine := b.run = some (.slot i.val)
     let noPreset := fun (l : List BJob) => l.all (fun x => match x with | .preset _ => false | _ => true) = true
     s.frozen = false ∧ s.ctl.on = true ∧ s.sh.stop = false ∧ mine ∧ j.walk = true ∧ j.op ≠ 4 ∧ j.out = [] ∧ j.next = k ∧ k < 512 ∧
       j.cancel = false ∧ noPreset b.queue ∧ s.sliceLost = false) ∧
    (let s : State := ((tOne).updBrn fun b =>
       { b with jobs := b.jobs.set 15 ({ d0 := 0x1, d1 := 0, d2 := 0, status := 2, job := [0x1, 0, 0x3000] }), run := some (.slot 15) })
     let i : Fin 16 := 15
     let k : Nat := 0
     let b := s.ctl.brn
     let j := b.job i
     let mine := b.run = some (.slot i.val)
     let noPreset := fun (l : List BJob) => l.all (fun x => match x with | .preset _ => false | _ => true) = true
     s.frozen = false ∧ s.ctl.on = true ∧ s.sh.stop = false ∧ mine ∧ j.walk = false ∧ j.op < 4 ∧ j.out = [] ∧ j.next = k ∧ k <
       j.chunkCount ∧ j.cancel = false ∧ noPreset b.queue ∧ s.sliceLost = false ∧ (∀ q ∈ s.sh.lsmap, q < 66)) ∧
    (let s : State := tOne
     let b := s.ctl.brn
     s.frozen = false ∧ s.ctl.on = true ∧ s.sh.stop = false ∧ b.run = none) ∧
    (let s : State := ((tOne).updBrn fun b =>
       { b with jobs := b.jobs.set 15 ({ d0 := 0x1, d1 := 0, d2 := 0, status := 2, next := 4, out := [3], startAt := 5, job := [0x1, 0, 0x3000] }), run := some (.slot 15) })
     let i : Fin 16 := 15
     let k : Nat := 3
     let b := s.ctl.brn
     let j := b.job i
     let mine := b.run = some (.slot i.val)
     s.frozen = false ∧ s.ctl.on = true ∧ s.sh.stop = false ∧ mine ∧ j.status = 2 ∧ j.out = [k] ∧ (∀ q ∈ s.burinSlices, (s.slice
       q).jobChunkOver j (544 + i.val) k = true) ∧ s.sliceLost = false ∧ j.chunkCount ≤ j.next ∧ j.op ≠ 4 ∧ s.kn.evq = []) ∧
    (let s : State := ((tOne.updSlice 0 fun x => { x with bq := [{ tag := 559, op := 1, work := .line 0xC0 }] }).updBrn fun b =>
       { b with jobs := b.jobs.set 15 ({ d0 := 0x1, d1 := 0, d2 := 0, status := 2, next := 4, out := [3], job := [0x1, 0, 0x3000] }), run := some (.slot 15) })
     let i : Fin 16 := 15
     let k : Nat := 3
     let b := s.ctl.brn
     let j := b.job i
     let mine := b.run = some (.slot i.val)
     s.frozen = false ∧ s.ctl.on = true ∧ s.sh.stop = false ∧ mine ∧ j.out = [k] ∧ (∃ q ∈ s.burinSlices, (s.slice q).jobChunkOver j (544 +
       i.val) k = false)) := by
  dsimp only [State.awake, State.single]; repeat (any_goals refine And.intro ?_ ?_)
  all_goals decide +kernel

/-- States and operands that meet the premises of `ledger_blocks`. -/
theorem witness_ledger_blocks :
    (let r : LRec := { typ := 3, sub := 2, data := [1, 2, 3] }
     let e : LEvt := { at_ := 5, recs := [r] }
     let s : State := ((tOne).updLdg fun l => { l with ctl := 1, queues := [(0, [e])], unitLost := [(0, 3)] })
     let u : Nat := 0
     let l := s.ctl.ldg
     let on := s.frozen = false ∧ s.ctl.on = true ∧ s.ctl.ms.step ≠ 20
     let still := l.tail = [] ∧ l.rblk = [] ∧ l.pendRing = none
     on ∧ still ∧ l.ctl.getLsbD 0 = true ∧ s.ldgNext = some u ∧ u ≠ 68 ∧ l.queue u = [e] ∧ e.recs = [r] ∧ r.data.length ≤ 3 ∧ l.series =
       [] ∧ l.open_ = []) ∧
    (let r : LRec := { typ := 3, sub := 2, data := [1, 2, 3] }
     let ws : List Word := recWords 3 7 r true 0
     let s : State := ((tOne).updLdg fun l => { l with series := [ws] })
     let l := s.ctl.ldg
     let on := s.frozen = false ∧ s.ctl.on = true ∧ s.ctl.ms.step ≠ 20
     let still := l.tail = [] ∧ l.rblk = [] ∧ l.pendRing = none
     on ∧ still ∧ l.series = [ws] ∧ ws.length ≤ 5 ∧ l.paceOk s.sh.now (recUnit ws) = true ∧ l.open_ = []) ∧
    (let s : State := tOne
     let v : Word := 0xFFFFFFFFFFFFFFFF
     let l := s.ctl.ldg
     let on := s.frozen = false ∧ s.ctl.on = true ∧ s.ctl.ms.step ≠ 20
     let still := l.tail = [] ∧ l.rblk = [] ∧ l.pendRing = none
     let port := s.portFree ∧ s.sh.mode ≠ .engrave ∧ s.reloading = false ∧ s.ctl.ms.step ≠ 20
     on ∧ (l.full = true ∨ (l.series = [] ∧ (l.ctl.getLsbD 0 = false ∨ s.ldgNext = none))) ∧ port ∧ still ∧ l.open_ = [] ∧ v.getLsbD 0 =
       true) ∧
    (let s : State := ((tOne).updLdg fun l => { l with open_ := [1, 2], openAt := 999990000, flush := 100, thr := 1 })
     let l := s.ctl.ldg
     let on := s.frozen = false ∧ s.ctl.on = true ∧ s.ctl.ms.step ≠ 20
     let still := l.tail = [] ∧ l.rblk = [] ∧ l.pendRing = none
     let age := l.openAt + 100 * (l.flush.toNat % 2 ^ 16)
     on ∧ still ∧ l.ren = false ∧ l.head = [] ∧ l.open_ ≠ [] ∧ age ≤ s.sh.now) ∧
    (let s : State := ((tOne).updLdg fun l => { l with open_ := [1, 2], openAt := 999990001, flush := 100 })
     let l := s.ctl.ldg
     let on := s.frozen = false ∧ s.ctl.on = true ∧ s.ctl.ms.step ≠ 20
     let age := l.openAt + 100 * (l.flush.toNat % 2 ^ 16)
     on ∧ s.sh.now < age) ∧
    (let s : State := ((tOne).updLdg fun l => { l with open_ := [1, 2] })
     let l := s.ctl.ldg
     let still := l.tail = [] ∧ l.rblk = [] ∧ l.pendRing = none
     let port := s.portFree ∧ s.sh.mode ≠ .engrave ∧ s.reloading = false ∧ s.ctl.ms.step ≠ 20
     port ∧ still ∧ l.ren = false ∧ l.head = [] ∧ l.open_ ≠ []) ∧
    (let blk : Blk := { bseq := 8, words := [1, 2, 3, 4, 5, 6, 7] }
     let s : State := ((tOne).updLdg fun l => { l with head := [blk] })
     let rest : List Blk := []
     let l := s.ctl.ldg
     let still := l.tail = [] ∧ l.rblk = [] ∧ l.pendRing = none
     let port := s.portFree ∧ s.sh.mode ≠ .engrave ∧ s.reloading = false ∧ s.ctl.ms.step ≠ 20
     port ∧ still ∧ l.head = blk :: rest) ∧
    (let s : State := ((tOne).updLdg fun l => { l with bseq := 9 })
     let l := s.ctl.ldg
     let still := l.tail = [] ∧ l.rblk = [] ∧ l.pendRing = none
     let port := s.portFree ∧ s.sh.mode ≠ .engrave ∧ s.reloading = false ∧ s.ctl.ms.step ≠ 20
     port ∧ still ∧ l.head = []) ∧
    (let s : State := tOne
     let v : Word := 0xFFFFFFFFFFFFFFFE
     let l := s.ctl.ldg
     let still := l.tail = [] ∧ l.rblk = [] ∧ l.pendRing = none
     let port := s.portFree ∧ s.sh.mode ≠ .engrave ∧ s.reloading = false ∧ s.ctl.ms.step ≠ 20
     port ∧ still ∧ v.getLsbD 0 = false) ∧
    (let s : State := tOne
     let v : Word := 0x7FFFFFFFFFFFFFFF
     let l := s.ctl.ldg
     let still := l.tail = [] ∧ l.rblk = [] ∧ l.pendRing = none
     let port := s.portFree ∧ s.sh.mode ≠ .engrave ∧ s.reloading = false ∧ s.ctl.ms.step ≠ 20
     port ∧ still ∧ v.getLsbD 63 = false) ∧
    (let rb : RBlk := { bseq := 8, idx := 0, lap := true, txid := 31 }
     let s : State := ((tOne).updLdg fun l => { l with rblk := [rb] })
     let v : Word := 0x7FFFFFFFFFFFFFFF
     let l := s.ctl.ldg
     let port := s.portFree ∧ s.sh.mode ≠ .engrave ∧ s.reloading = false ∧ s.ctl.ms.step ≠ 20
     port ∧ l.rblk = [rb] ∧ rb.done = false ∧ l.tail = [] ∧ v.getLsbD 63 = false ∧ v &&& 0x0000FFFFFFFFF00F ≠ l.ring) ∧
    (let s : State := tOne
     let v : Word := 0xFFFFFFFFFFFFFFF5
     let port := s.portFree ∧ s.sh.mode ≠ .engrave ∧ s.reloading = false ∧ s.ctl.ms.step ≠ 20
     port ∧ v.getLsbD 63 = true ∧ v.toNat % 16 < 6) := by
  dsimp only [State.portFree, State.awake, State.single]; repeat (any_goals refine And.intro ?_ ?_)
  all_goals decide +kernel

/-- States and operands that meet the premises of `ledger_ring`. -/
theorem witness_ledger_ring :
    (let b : RBlk := { bseq := 8, idx := 5, lap := true, txid := 31 }
     let s : State := ((tOne).updLdg fun l => { l with ctl := 1, ring := 0x8000000012345007, rblk := [b] })
     let m : Msg := { cls := 2, cmd := 9, src := 640, dst := 1009, txid := 31, pack := 0, line := 0x40, f := 0, units := [] }
     let pkt : Pkt := tPkt m
     let tgt : Nat := 0
     let l := s.ctl.ldg
     let on := s.frozen = false ∧ s.ctl.on = true ∧ s.ctl.ms.step ≠ 20 ∧ l.rblk = [b] ∧ l.tail = [] ∧ l.pendRing = none ∧ l.head = []
     let got := on ∧ s.passes .ctl pkt m
     let written := got ∧ m.cls = 2 ∧ m.cmd = 9 ∧ b.done = false ∧ b.txid = m.txid.toNat ∧ b.rd = none
     written ∧ s.sh.target (ringLine l b.idx) = some tgt ∧ 512 ≤ memNode tgt ∧ memNode tgt < 1024 ∧ 1 ≤ l.cut) ∧
    (let b : RBlk := { bseq := 8, idx := 5, lap := true, txid := 31, done := true, rd := some 31 }
     let s : State := ((tOne).updLdg fun l => { l with ctl := 1, ring := 0x8000000012345007, rblk := [b] })
     let m : Msg := { cls := 3, cmd := 2, src := 640, dst := 1009, txid := 31, pack := 0, line := 0x40, f := 0, units := [1, 2, 3, 4] }
     let pkt : Pkt := tPkt m
     let l := s.ctl.ldg
     let on := s.frozen = false ∧ s.ctl.on = true ∧ s.ctl.ms.step ≠ 20 ∧ l.rblk = [b] ∧ l.tail = [] ∧ l.pendRing = none ∧ l.head = []
     let got := on ∧ s.passes .ctl pkt m
     got ∧ m.cls = 3 ∧ m.cmd = 2 ∧ b.rd = some m.txid.toNat ∧ b.data = none ∧ b.rsp = false) ∧
    (let us : List Unit128 := (let ws := ringWords 5 true [11, 22]; [0, 2, 4, 6].map fun i => (ws.getD (i + 1) 0 ++ ws.getD i 0 : Unit128))
     let b : RBlk := { bseq := 8, idx := 5, lap := true, txid := 31, done := true, rd := some 31, data := some us }
     let s : State := ((tOne).updLdg fun l => { l with ctl := 1, ring := 0x8000000012345007, rblk := [b] })
     let m : Msg := { cls := 2, cmd := 9, src := 640, dst := 1009, txid := 31, pack := 0, line := 0x40, f := 0, units := [] }
     let pkt : Pkt := tPkt m
     let len : Nat := 2
     let l := s.ctl.ldg
     let ws := wordsOfUnits us
     let w7 := ws.getD 7 0
     let on := s.frozen = false ∧ s.ctl.on = true ∧ s.ctl.ms.step ≠ 20 ∧ l.rblk = [b] ∧ l.tail = [] ∧ l.pendRing = none ∧ l.head = []
     let got := on ∧ s.passes .ctl pkt m
     let back := got ∧ m.cls = 2 ∧ m.cmd = 9 ∧ b.done = true ∧ b.rd = some m.txid.toNat ∧ b.rsp = false ∧ b.data = some us
     back ∧ b.poison = false ∧ m.f.getLsbD 17 = false ∧ 2 ≤ len ∧ len ≤ 7 ∧ w7.toNat % 2 ^ 8 = 8 * len ∧ (∀ i, i < 7 → (classify ⟨ws.getD
       i 0, (w7 >>> (8 * i + 8)).setWidth 8⟩ (ringWaddr b.idx i b.lap)) = (.clean, ws.getD i 0))) ∧
    (let us : List Unit128 := [1, 2, 3, 4]
     let b : RBlk := { bseq := 8, idx := 5, lap := true, txid := 31, done := true, rd := some 31, data := some us }
     let s : State := ((tOne).updLdg fun l => { l with ctl := 1, ring := 0x8000000012345007, rblk := [b] })
     let m : Msg := { cls := 2, cmd := 9, src := 640, dst := 1009, txid := 31, pack := 0, line := 0x40, f := 0x20000, units := [] }
     let pkt : Pkt := tPkt m
     let l := s.ctl.ldg
     let on := s.frozen = false ∧ s.ctl.on = true ∧ s.ctl.ms.step ≠ 20 ∧ l.rblk = [b] ∧ l.tail = [] ∧ l.pendRing = none ∧ l.head = []
     let got := on ∧ s.passes .ctl pkt m
     let back := got ∧ m.cls = 2 ∧ m.cmd = 9 ∧ b.done = true ∧ b.rd = some m.txid.toNat ∧ b.rsp = false ∧ b.data = some us
     back ∧ (b.poison = true ∨ m.f.getLsbD 17 = true) ∧ s.kn.evq = []) ∧
    (let b : RBlk := { bseq := 8, idx := 5, lap := true, txid := 31, done := true, rd := some 31, rdAt := 999000000 }
     let s : State := ((tOne).updLdg fun l => { l with ctl := 1, ring := 0x8000000012345007, rblk := [b] })
     let k : BitVec 5 := 31
     let l := s.ctl.ldg
     let on := s.frozen = false ∧ s.ctl.on = true ∧ s.ctl.ms.step ≠ 20 ∧ l.rblk = [b] ∧ l.tail = [] ∧ l.pendRing = none ∧ l.head = []
     on ∧ b.rd = some k.toNat ∧ b.rdAt + 1000000 ≤ s.sh.now ∧ (b.rsp = false ∨ b.data = none) ∧ s.kn.evq = []) ∧
    (let b : RBlk := { bseq := 8, idx := 5, lap := true, txid := 31, done := true, rd := some 31, rdAt := 999000001 }
     let s : State := ((tOne).updLdg fun l => { l with ctl := 1, ring := 0x8000000012345007, rblk := [b] })
     let k : BitVec 5 := 31
     let l := s.ctl.ldg
     let on := s.frozen = false ∧ s.ctl.on = true ∧ s.ctl.ms.step ≠ 20 ∧ l.rblk = [b] ∧ l.tail = [] ∧ l.pendRing = none ∧ l.head = []
     on ∧ b.rd = some k.toNat ∧ s.sh.now < b.rdAt + 1000000) := by
  dsimp only [State.awake, State.passes, State.single]; repeat (any_goals refine And.intro ?_ ?_)
  all_goals decide +kernel

/-- States and operands that meet the premises of `bark_and_interrupts`. -/
theorem witness_bark_and_interrupts :
    (let s : State := ((tOne).updBrk fun b =>
       { b with ctl := 1, en := List.replicate 16 0xFFFFFFFFFFFFFFFF, tgt := List.replicate 8 (0x20000000001000 ||| 0x80000000000000), pend := [878] })
     let x : Nat := 878
     let b := s.ctl.brk
     let on := s.frozen = false ∧ s.ctl.on = true
     let due := b.ctl.getLsbD 0 = true ∧ b.mq = [] ∧ b.enabled x = true ∧ b.tgtOn (b.target x) = true ∧ b.interval (b.target x) = 0
     on ∧ due ∧ b.pend = [x]) ∧
    (let s : State := ((tOne).updBrk fun b =>
       { b with ctl := 1, en := List.replicate 16 0xFFFFFFFFFFFFFFFF, tgt := List.replicate 8 (0x20000000001000 ||| 0x80000000000000), pend := [0, 878] })
     let x : Nat := 878
     let y : Nat := 0
     let b := s.ctl.brk
     let on := s.frozen = false ∧ s.ctl.on = true
     let due := b.ctl.getLsbD 0 = true ∧ b.mq = [] ∧ b.enabled x = true ∧ b.tgtOn (b.target x) = true ∧ b.interval (b.target x) = 0
     on ∧ due ∧ b.pend = [y, x] ∧ y < x ∧ isFatal x = true ∧ isFatal y = false) ∧
    (let s : State := ((tOne).updBrk fun b =>
       { b with ctl := 1, en := List.replicate 16 0xFFFFFFFFFFFFFFFF, tgt := List.replicate 8 (0x20000000001000 ||| 0x80000000000000), pri := [put 255 0, 0, 0, put 254 56], pend := [0, 1022] })
     let x : Nat := 1022
     let y : Nat := 0
     let b := s.ctl.brk
     let on := s.frozen = false ∧ s.ctl.on = true
     let due := b.ctl.getLsbD 0 = true ∧ b.mq = [] ∧ b.enabled x = true ∧ b.tgtOn (b.target x) = true ∧ b.interval (b.target x) = 0
     on ∧ due ∧ b.pend = [y, x] ∧ y < x ∧ isFatal x = false ∧ isFatal y = false ∧ b.prio (x / 32) < b.prio (y / 32)) ∧
    (let s : State := tOne
     let src : BitVec 10 := 1022
     let b := s.ctl.brk
     let on := s.frozen = false ∧ s.ctl.on = true
     let port := s.portFree ∧ s.sh.mode ≠ .engrave
     on ∧ (b.ctl.getLsbD 0 = false ∨ 16 ≤ b.mq.length ∨ b.pend = []) ∧ port ∧ isSource src.toNat = true ∧ isFatal src.toNat = false ∧
       b.pend = [] ∧ (b.mq = [] ∨ s.sh.now < b.mqAt + 1000000) ∧ s.frozen = false ∧ (b.mq = [] ∨ s.ctl.on = false)) ∧
    (let s : State := ((tOne).updBrk fun b =>
       { b with mod := put 1 60, last := [(7, 999999900)], en := List.replicate 16 0xFFFFFFFFFFFFFFFF, route := [0, put 7 60], pend := [1022, 3] })
     let t : Fin 8 := 7
     let w : Nat := 999999900
     let b := s.ctl.brk
     let on := s.frozen = false ∧ s.ctl.on = true
     on ∧ b.interval t ≠ 0 ∧ b.last = [(t.val, w)]) ∧
    (let s : State := ((tOne).updBrk fun b => { b with pend := [3, 1022], burst := [1022] })
     let src : BitVec 10 := 1022
     let b := s.ctl.brk
     let port := s.portFree ∧ s.sh.mode ≠ .engrave
     port ∧ isSource src.toNat = true ∧ isFatal src.toNat = false ∧ b.raisedBy s.sh.now false src.toNat = false ∧ b.commit = none) ∧
    (let src : BitVec 10 := 1022
     let m : IMsg := { addr := 5, val := 0xFFC00005, src := 1022 }
     let s : State := ((tOne).updBrk fun b => { b with commit := some (1022, 1000000000), mq := [m] })
     let ms : List IMsg := []
     let b := s.ctl.brk
     let port := s.portFree ∧ s.sh.mode ≠ .engrave
     port ∧ isSource src.toNat = true ∧ isFatal src.toNat = false ∧ b.raisedBy s.sh.now false src.toNat = false ∧ b.commit = some
       (src.toNat, s.sh.now) ∧ b.mq = ms ++ [m] ∧ m.src = src.toNat) ∧
    (let s : State := ((tOne).updBrk fun b => { b with pend := [1022], raised := [(1022, false)], raisedAt := 1000000000 })
     let src : BitVec 10 := 1022
     let b := s.ctl.brk
     let port := s.portFree ∧ s.sh.mode ≠ .engrave
     port ∧ isSource src.toNat = true ∧ isFatal src.toNat = false ∧ b.raisedBy s.sh.now false src.toNat = true ∧ b.commit = none) ∧
    (let src : BitVec 10 := 5
     let m : IMsg := { addr := 5, val := 0xFFC00005, src := 5 }
     let s : State := ((tOne).updBrk fun b =>
       { b with pend := [5, 6], mq := [m], commit := some (5, 1000000000), raised := [(5, false)], raisedAt := 1000000000 })
     let ms : List IMsg := []
     let b := s.ctl.brk
     let port := s.portFree ∧ s.sh.mode ≠ .engrave
     port ∧ isSource src.toNat = true ∧ isFatal src.toNat = false ∧ b.raisedBy s.sh.now false src.toNat = true ∧ b.commit = some
       (src.toNat, s.sh.now) ∧ b.mq = ms ++ [m] ∧ m.src = src.toNat) ∧
    (let s : State := tOne
     let src : BitVec 10 := 1023
     let port := s.portFree ∧ s.sh.mode ≠ .engrave
     port ∧ (isSource src.toNat = false ∨ isFatal src.toNat = true)) ∧
    (let s : State := ((tOne).updBrk fun b => { b with pend := [3, 960, 1022] })
     let b := s.ctl.brk
     let port := s.portFree ∧ s.sh.mode ≠ .engrave
     port ∧ b.commit = none) ∧
    (let s : State := ((tOne).updBrk fun b =>
       { b with ctl := 1, en := List.replicate 16 0xFFFFFFFFFFFFFFFF, tgt := List.replicate 8 (0x20000000001000 ||| 0x80000000000000), route := [0, put 7 60], pend := [1022] })
     let x : Nat := 1022
     let t : Fin 8 := 7
     let b := s.ctl.brk
     let port := s.portFree ∧ s.sh.mode ≠ .engrave
     port ∧ b.pend = [x] ∧ x < 1023 ∧ b.enabled x = true ∧ b.target x = t.val) ∧
    (let src : BitVec 10 := 1022
     let m : IMsg := { addr := 5, val := 0xFFC00005, src := 1022 }
     let s : State := ((tOne).updBrk fun b => { b with mq := [m] })
     let ms : List IMsg := []
     let b := s.ctl.brk
     let on := s.frozen = false ∧ s.ctl.on = true
     on ∧ b.mq = m :: ms) ∧
    (let src : BitVec 10 := 1022
     let m : IMsg := { addr := 5, val := 0xFFC00005, src := 1022 }
     let s : State := ((tOne).updBrk fun b => { b with mq := [m], mqAt := 999000000 })
     let ms : List IMsg := []
     let b := s.ctl.brk
     let on := s.frozen = false ∧ s.ctl.on = true
     on ∧ b.mq = m :: ms ∧ b.mqAt + 1000000 ≤ s.sh.now ∧ s.kn.evq = []) := by
  dsimp only [State.portFree, State.awake, State.single]; repeat (any_goals refine And.intro ?_ ?_)
  all_goals decide +kernel

/-- States and operands that meet the premises of `freeze_and_thaw`. -/
theorem witness_freeze_and_thaw :
    (let s : State := tOne
     let f := s.ctl.frz
     let still := fun (x : Slice) => x.pwr = .on ∨ x.pwr = .off ∨ x.pwr = .retained ∨ x.pwr = .filling
     s.portFree ∧ s.sh.mode ≠ .engrave ∧ f.st = .running ∧ s.pins.coldRst = false ∧ s.kn.on = true ∧ s.nothingHeld ∧ (f.st ≠ .stopping ∨
       f.word = true ∨ (∃ n, n < 66 ∧ ¬still (s.slice n))) ∧ f.st ≠ .reading) ∧
    (let s : State := ((tMode .freeze).updFrz fun f => { f with st := .thawing })
     let f := s.ctl.frz
     (f.st ≠ .running ∨ s.kn.on = false ∨ s.pins.coldRst = true)) ∧
    (let s : State := ((tMode .freeze).updFrz fun f => { f with st := .reading, pin := true })
     let f := s.ctl.frz
     f.st ≠ .running ∧ (f.hold = true ∨ f.st = .reading ∨ f.st = .thawing)) ∧
    (let s : State := ((tMode .freeze).updFrz fun f => { f with st := .frozen, pin := true })
     let f := s.ctl.frz
     f.hold = false ∧ f.st = .frozen) ∧
    (let s : State := ((tOne).updFrz fun f => { f with st := .stopping, pin := true })
     let f := s.ctl.frz
     let still := fun (x : Slice) => x.pwr = .on ∨ x.pwr = .off ∨ x.pwr = .retained ∨ x.pwr = .filling
     f.hold = false ∧ f.st = .stopping ∧ s.nothingHeld ∧ (f.hold = true ∨ f.pin = true) ∧ f.pcfg.getLsbD 8 = false ∧ f.word = false ∧ (∀
       n, n < 66 → still (s.slice n)) ∧ (∀ r ∈ s.kn.regs, r.poll = none)) ∧
    (let s : State := ((tOne).updFrz fun f => { f with st := .stopping, pin := true, pcfg := 0x101 })
     let f := s.ctl.frz
     let still := fun (x : Slice) => x.pwr = .on ∨ x.pwr = .off ∨ x.pwr = .retained ∨ x.pwr = .filling
     f.st = .stopping ∧ (f.hold = true ∨ f.pin = true) ∧ f.pcfg.getLsbD 8 = true ∧ f.word = false ∧ (∀ n, n < 66 → still (s.slice n)) ∧ (∀
       r ∈ s.kn.regs, r.poll = none)) ∧
    (let s : State := ((tMode .freeze).updFrz fun f => { f with st := .thawing, left := .run })
     let f := s.ctl.frz
     f.st = .thawing ∧ f.cond = false ∧ s.nothingHeld) ∧
    (let s : State := ((tMode .freeze).updFrz fun f => { f with st := .reading, hold := true })
     let f := s.ctl.frz
     f.st = .reading ∧ f.cond = true) ∧
    (let s : State := ((tMode .freeze).updFrz fun f => { f with st := .reading })
     let f := s.ctl.frz
     f.st = .reading ∧ f.cond = false) := by
  dsimp only [State.portFree, State.nothingHeld, State.awake, State.single]; repeat (any_goals refine And.intro ?_ ?_)
  all_goals decide +kernel

/-- States and operands that meet the premises of `tap_and_debug`. -/
theorem witness_tap_and_debug :
    (let s : State := tOne
     let off : BitVec 20 := 0x00220
     let r : Reg := .esafe
     let v : Word := put 66 56
     let f := s.ctl.frz
     let sl := v.toNat / 2 ^ 56 % 2 ^ 7
     let bk := v.toNat / 2 ^ 48 % 2 ^ 5
     let mode := s.sh.mode = .run ∨ s.sh.mode = .drain ∨ s.sh.mode = .recover
     s.kn.on = true ∧ f.st = .running ∧ s.pins.coldRst = false ∧ s.nothingHeld ∧ f.st ≠ .frozen ∧ (f.st ≠ .running ∨ s.nothingHeld) ∧
       (f.st ≠ .reading ∨ (f.rdAuto = true ∧ f.rdArr = true)) ∧ s.portFree ∧ s.kn.sheep.regWait = none ∧ off.toNat % 8 = 0 ∧ off.toNat <
       0x80000 ∧ regAt off.toNat = some r ∧ s.sh.mode ≠ .engrave ∧ (match r with | .slc _ _ => false | _ => true) = true ∧ mode ∧ f.aslot =
       none ∧ (66 ≤ sl ∨ ((s.slice sl).pwr = .on ∧ (30 ≤ bk ∨ 8 * bankRows bk ≤ v.toNat % 2 ^ 15))) ∧ s.frozen = false ∧ f.st ≠ .reading) ∧
    (let s : State := ((tMode .freeze).updFrz fun f => { f with st := .frozen, pin := true, hold := true })
     let f := s.ctl.frz
     s.kn.on = true ∧ f.st ≠ .running ∧ (f.pin = true ∨ f.st = .reading ∨ f.st = .thawing)) ∧
    (let s : State := ((tMode .freeze).updFrz fun f => { f with st := .frozen, hold := true })
     let f := s.ctl.frz
     s.kn.on = true ∧ f.pin = false ∧ f.st = .frozen ∧ f.st ≠ .running ∧ f.st ≠ .stopping) ∧
    (let s : State := ((tMode .freeze).updFrz fun f => { f with st := .reading, hold := true })
     let f := s.ctl.frz
     s.kn.on = true ∧ f.st = .reading ∧ f.rdAuto = false ∧ f.cond = true ∧ f.rdPort = false) ∧
    (let s : State := tOne.updKn fun k => { k with on := false }
     s.kn.on = false) ∧
    (let s : State := State.reset
     s.kn.on = false) ∧
    (let s : State := ((tOne).updFrz fun f => { f with st := .stopping, hold := true })
     let f := s.ctl.frz
     s.kn.on = true ∧ f.st = .stopping) ∧
    (let s : State := tOne.updSlice 65 fun x => { x with pwr := .on, mem := Memory.write [] (bankAddr 5 3) ⟨5, 6⟩ }
     let aa : BitVec 63 := ((put 65 56 ||| put 5 48 ||| 3 : Word).setWidth 63)
     let n : Fin 66 := 65
     let b : Fin 30 := 5
     let w : Nat := 3
     let v : Word := put 65 56 ||| put 5 48 ||| 3
     let f := s.ctl.frz
     let named := fun (x : Word) => x.toNat / 2 ^ 56 % 2 ^ 7 = n.val ∧ x.toNat / 2 ^ 48 % 2 ^ 5 = b.val ∧ x.toNat % 2 ^ 15 = w
     let mode := s.sh.mode = .run ∨ s.sh.mode = .drain ∨ s.sh.mode = .recover
     let legal := mode ∧ (s.slice n).pwr = .on ∧ w < 8 * bankRows b ∧ f.aslot = none
     s.portFree ∧ s.kn.sheep.regWait = none ∧ legal ∧ named (aa.setWidth 64) ∧ named v) ∧
    (let s : State := tMode .dormant
     let v : Word := 0x4105000000000003
     let n : Fin 66 := 65
     let b : Fin 30 := 5
     let w : Nat := 3
     let f := s.ctl.frz
     let named := fun (x : Word) => x.toNat / 2 ^ 56 % 2 ^ 7 = n.val ∧ x.toNat / 2 ^ 48 % 2 ^ 5 = b.val ∧ x.toNat % 2 ^ 15 = w
     let mode := s.sh.mode = .run ∨ s.sh.mode = .drain ∨ s.sh.mode = .recover
     s.portFree ∧ (¬mode ∨ f.aslot ≠ none ∨ (named v ∧ (s.slice n).pwr ≠ .on))) ∧
    (let s : State := ((tOne.updSlice 65 fun x => { x with pwr := .on, mem := Memory.write [] (bankAddr 5 3) ⟨5, 6⟩ }).updFrz fun f =>
       { f with aslot := some (65, 5, 3) })
     let n : Fin 66 := 65
     let b : Fin 30 := 5
     let w : Nat := 3
     let f := s.ctl.frz
     s.frozen = false ∧ f.aslot = some (n.val, b.val, w) ∧ (s.slice n).pwr = .on ∧ (s.slice n).claimed s.sh = false ∧ (s.slice n).claim =
       0) ∧
    (let s : State := (((tOne.updSlice 65 fun x => { x with pwr := .on, mem := Memory.write [] (bankAddr 5 3) ⟨5, 6⟩ }).updSlice 65 fun x =>
       { x with emergency := true }).updFrz fun f => { f with aslot := some (65, 5, 3) })
     let n : Fin 66 := 65
     let b : Fin 30 := 5
     let w : Nat := 3
     let f := s.ctl.frz
     s.frozen = false ∧ f.aslot = some (n.val, b.val, w) ∧ (s.slice n).claimed s.sh = true ∨ 0 < (s.slice n).claim) ∧
    (let s : State := ((tMode .freeze).updFrz fun f => { f with st := .reading, hold := true, rdPort := true })
     let f := s.ctl.frz
     f.st = .reading ∧ f.rdPort = true) ∧
    (let ir : BitVec 8 := 0x23
     ir ≠ 0x01 ∧ ir ≠ 0x20 ∧ ir ≠ 0x21 ∧ ir ≠ 0x22) := by
  dsimp only [State.portFree, State.nothingHeld, State.awake, State.single]; repeat (any_goals refine And.intro ?_ ?_)
  all_goals decide +kernel

/-- Table 17-7: the lengths of a proof image with 64 slices on, without and with the arrays. -/
theorem test_proof_lengths :
    let st : List ProofSect := (List.range 64 ++ [66, 67, 68]).map (fun i => ⟨1, i, stateLen i, []⟩) ++ [⟨2, 0, 804, []⟩, ⟨3, 68, 10496, []⟩]
    proofLen st = 1606839 ∧ proofLen (st ++ (List.range 64).map fun i => ⟨4, i, 702936, []⟩) = 46594871 := by decide +kernel

/-- Table 17-8, step 8: SREQ 1, SACK 0, RREQ 0, RACK 0 is LAUNCHED. -/
theorem test_channel_launched : ChanLevels.state ⟨true, false, false, false⟩ = 1 := by decide

end Sys2Proof.Tests
end

section
/-! LOCK IS STICKY. GLB_LOCK is written in two places only: by the register decoder, which can set it (`keeps_regPut`), and by a reset.
The laws of `Keeps` and `PKeeps` say so of every operation; here they are read off for every command (R7, R558). -/

namespace Sys2Proof.Machine

/-- The next state that a command answers keeps what `PKeeps` says. -/
def Res.Kept (s : State) : Res → Prop
  | .next t => PKeeps s t
  | .fault _ => True
  | .refused _ => True

/-! ### One rule per shape of a command -/

theorem Res.kept_of_deep {s t : State} (h : t.deep = s.deep) : Res.Kept s (.next t) := PKeeps.ofDeep h
theorem Res.kept_of_keeps {s t : State} (h : Keeps s t) : Res.Kept s (.next t) := h.port
/-- An event that a freeze stops. -/
theorem Res.kept_unlessFrozen {s : State} {f : State → State} (h : PKeeps s (f s)) : Res.Kept s (.next (s.unlessFrozen f)) :=
  PKeeps.unlessFrozen h
theorem Res.kept_unlessFrozen_of_deep {s : State} {f : State → State} (h : (f s).deep = s.deep) :
    Res.Kept s (.next (s.unlessFrozen f)) := PKeeps.unlessFrozen (PKeeps.ofDeep h)
/-- An event that a freeze stops and after which what waited goes on. -/
theorem Res.kept_unlessFrozen_release {s : State} {f : State → State} (h : (f s).deep = s.deep) :
    Res.Kept s (.next (s.unlessFrozen fun s => (f s).release)) := PKeeps.unlessFrozen (pkeeps_thenRelease h)
/-- An event of a unit that may not be running. -/
theorem Res.kept_unlessFrozen_ite {s : State} {c : State → Prop} [∀ s, Decidable (c s)] {f : State → State} (h : PKeeps s (f s)) :
    Res.Kept s (.next (s.unlessFrozen fun s => if c s then f s else s)) := PKeeps.unlessFrozen (PKeeps.ite h (PKeeps.refl s))
theorem Res.kept_onIsland {s : State} {f : State → State} (h : (f s).deep = s.deep) : Res.Kept s (.next (s.onIsland f)) :=
  pkeeps_onIsland s f (PKeeps.ofDeep h)
theorem Res.kept_inSlice {s : State} {n : Nat} {f : Shared → Work → Work} : Res.Kept s (.next (s.inSlice n f)) :=
  Res.kept_of_deep (State.deep_inSlice s n f)
theorem Res.kept_arrives {s : State} {n : Nat} {f : Shared → Work → Work} : Res.Kept s (.next (s.arrives n f)) :=
  Res.kept_of_deep (State.deep_arrives s n f)
theorem Res.kept_deliver {α : Type} {s : State} {n : Nat} {f : Link → Option α} {act : Shared → α → Work → Work} :
    Res.Kept s (.next (s.deliver n f act)) := Res.kept_of_deep (State.deep_deliver s n f act)
/-- An access of the register port. -/
theorem Res.kept_portAccess {s : State} {a : RegAcc} : Res.Kept s (.next (s.portAccess a)) := pkeeps_portAccess s a
/-- An instruction of the Sheepdog that only computes a register. -/
theorem Res.kept_instrReg {s : State} {enc : BitVec 36} {bad : Option SFault} {d : GReg} {v : Sheep → W32} :
    Res.Kept s (.next (s.instrReg enc bad d v)) := Res.kept_of_deep (State.deep_instrReg s enc bad d v)
theorem Res.kept_instr {s : State} {enc : BitVec 36} {bad : Option SFault} {f : State → State} (h : (f s).deep = s.deep) :
    Res.Kept s (.next (s.instr enc bad f)) := Res.kept_of_deep (State.deep_instr s enc bad f h)
/-- An update of a data register of the TAP. -/
theorem Res.kept_tapUpdate {s : State} {v : Word} : Res.Kept s (.next (s.tapUpdate v)) := pkeeps_tapUpdate s v
theorem Res.kept_tapDebug {s : State} {v : Word} : Res.Kept s (.next (s.tapDebug v)) := Res.kept_of_keeps (keeps_tapDebug s v)

/-! ### Operations that commands alone call -/

@[simp] theorem State.deep_takeLate (s : State) (n : Nat) : (s.takeLate n).deep = s.deep := by
  unfold State.takeLate
  split
  · rfl
  · dsimp only
    rw [State.deep_foldl, State.deep_updSlice]
    intro s o
    split
    · exact State.deep_onSlice _ _ _
    · exact State.deep_drainAt _ _ _
    · exact State.deep_updSlice _ _ _
@[simp] theorem State.deep_bootRest (s : State) : s.bootRest.deep = s.deep := by
  unfold State.bootRest
  exact State.deep_ite rfl (by simp)

/-! ### Commands of several parts -/

theorem kept_execMemAnswerLate (i : Fin 67) (htx : BitVec 12) (s : State) : Res.Kept s (execMemAnswerLate i htx s) :=
  Res.kept_of_deep (State.deep_ite (State.deep_inSlice _ _ _)
    (State.deep_unlessFrozen _ _ (State.deep_ite (State.deep_knlMemLate _ _) rfl)))
theorem kept_execResend (i : Fin 68) (pkt : Pkt) (s : State) : Res.Kept s (execResend i pkt s) :=
  Res.kept_of_deep (State.deep_ite (State.deep_arrives _ _ _)
    (State.deep_unlessFrozen _ _ (State.deep_ite (State.deep_knlPkt _ _) (State.deep_ctlPkt _ _))))
theorem kept_execResendTimeout (i : Fin 68) (k : BitVec 12) (s : State) : Res.Kept s (execResendTimeout i k s) :=
  Res.kept_of_deep (State.deep_ite (State.deep_unlessFrozen _ _ (State.deep_ite (State.deep_onSlice _ _ _) rfl))
    (State.deep_unlessFrozen _ _ (State.deep_ite (State.deep_netGiveUp _ _ _) rfl)))
theorem kept_execMemsyncDone (n : Fin 66) (s : State) : Res.Kept s (execMemsyncDone n s) := by
  refine Res.kept_unlessFrozen_of_deep (State.deep_ite rfl ?_)
  split
  · exact State.deep_ite (State.deep_syncReport _ _ _) rfl
  · rfl
theorem kept_execControlLogicFault (n : Fin 66) (cause : BitVec 8) (l : List (BitVec 12)) (s : State) :
    Res.Kept s (execControlLogicFault n cause l s) :=
  Res.kept_unlessFrozen (PKeeps.ite (PKeeps.refl s) (pkeeps_thenRelease (State.deep_onSlice _ _ _)))
theorem kept_execReplayDone (n : Fin 66) (s : State) : Res.Kept s (execReplayDone n s) :=
  Res.kept_unlessFrozen (PKeeps.ite (PKeeps.refl s) (pkeeps_thenRelease (by rw [State.deep_takeLate, State.deep_onSlice])))
theorem kept_execSlicePowerChangeDone (n : Fin 66) (s : State) : Res.Kept s (execSlicePowerChangeDone n s) :=
  PKeeps.ite (PKeeps.ofDeep (State.deep_powerDone s n)) (PKeeps.unlessFrozen (pkeeps_thenRelease (State.deep_powerDone s n)))
theorem kept_execControlIslandReady (s : State) : Res.Kept s (execControlIslandReady s) :=
  Res.kept_unlessFrozen ((pkeeps_islandReady s).trans (PKeeps.ofDeep (State.deep_frzBegin _ _)))
/-- The rise of XJ_PWRGOOD may start the Kennel. -/
theorem kept_execXjPwrgoodRise (s : State) : Res.Kept s (execXjPwrgoodRise s) := by
  have h := State.deep_updPins s (fun p => { p with pwrgood := true }) rfl
  exact Res.kept_of_deep (State.deep_ite rfl (State.deep_ite h ((State.deep_kennelStart _ _).trans h)))
theorem kept_execXjAonRstRelease (s : State) : Res.Kept s (execXjAonRstRelease s) := by
  have h := State.deep_updPins s (fun p => { p with aonRst := false }) rfl
  exact Res.kept_of_deep (State.deep_ite (State.deep_ite ((State.deep_kennelStart _ _).trans h) h) rfl)
theorem kept_execXjColdRstRelease (s : State) : Res.Kept s (execXjColdRstRelease s) :=
  Res.kept_of_deep (State.deep_ite rfl (State.deep_ite (by rw [State.deep_bootRest, State.deep_coldRelease])
    (State.deep_updPins s _ rfl)))
theorem kept_execStoreWordProgrammed (ok : Bool) (s : State) : Res.Kept s (execStoreWordProgrammed ok s) :=
  Res.kept_of_keeps (Keeps.ite (Keeps.refl s) ((keeps_wordProgrammed s ok).thenDeep (State.deep_updFrz _ _)))
theorem kept_execFrozen (s : State) : Res.Kept s (execFrozen s) :=
  Res.kept_of_deep (State.deep_ite (by rw [State.deep_frzFrozen, State.deep_pmbusCut]) rfl)
theorem kept_execXjFreezeAssert (s : State) : Res.Kept s (execXjFreezeAssert s) :=
  Res.kept_of_deep (by rw [State.deep_frzBegin, State.deep_updFrz])
theorem kept_execXjFreezeDeassert (s : State) : Res.Kept s (execXjFreezeDeassert s) :=
  pkeeps_thenRelease (by rw [State.deep_frzEnd, State.deep_updFrz])
theorem kept_execPlateLineFetched (l : List Pkt) (s : State) : Res.Kept s (execPlateLineFetched l s) :=
  Res.kept_unlessFrozen_of_deep (State.deep_foldl _ State.deep_knlPkt l s)
theorem kept_execLedgerRefill (l : List Pkt) (s : State) : Res.Kept s (execLedgerRefill l s) :=
  Res.kept_onIsland (by rw [State.deep_warmPoll, State.deep_foldl _ State.deep_ctlPkt])
theorem kept_execLog (d a : GReg) (imm : BitVec 19) (s : State) : Res.Kept s (execLog d a imm s) :=
  Res.kept_instr (by rw [State.deep_nextPc, State.deep_ledgerEv])
theorem kept_execMode (d a : GReg) (imm : BitVec 19) (s : State) : Res.Kept s (execMode d a imm s) :=
  Res.kept_instr (by rw [State.deep_withStatus, State.deep_sheepMode])
theorem kept_execJal (d a : GReg) (imm : BitVec 19) (s : State) : Res.Kept s (execJal d a imm s) :=
  Res.kept_instr (by rw [State.deep_nextAt, State.deep_updSheep _ _ (Sheep.put_zero _ _ _)])
/-- REG may access any register. -/
theorem Res.kept_instr_regOp {s : State} {enc : BitVec 36} {bad : Option SFault} {d a b : GReg} {wr : Bool} :
    Res.Kept s (.next (s.instr enc bad fun s => s.regOp d a b wr)) :=
  Res.kept_of_keeps (keeps_instr s enc bad _ (keeps_regOp s d a b wr))

/-! ### Every command -/

/-- Every command but a crossing of the trip temperature and the three reset events keeps the queue, the thermal-trip pin, LOCK once set,
g[0] zero and the bound of the register port. -/
theorem kept_exec (c : Instr) (s : State) (trip : ∀ up, c ≠ .thermTripCrossing up) (cold : c ≠ .xjColdRstAssert)
    (aon : c ≠ .xjAonRstAssert) (fall : c ≠ .xjPwrgoodFall) : Res.Kept s (exec c s) := by
  cases c with
  -- excepted
  | thermTripCrossing up => exact absurd rfl (trip up)
  | xjColdRstAssert => exact absurd rfl cold
  | xjAonRstAssert => exact absurd rfl aon
  | xjPwrgoodFall => exact absurd rfl fall
  -- a slice's arrivals, its own events, and messages of the slice link
  | requestArrival | cancel | ackInval | ackFwd | wrData | memRsp | dataFromMem | censusReport | barrier => exact Res.kept_arrives
  | dataIncomplete | admissionPhase | contestExpiry | backgroundFloorDue | scrubStepDue | quotaWindowStart | rdShared | rdUnique | rdOnce
  | upgrade | wrBack | evictClean | wrFull | wrPartial | stash | atomic | farAtomicExecute | leashTake | leashFree | resvWatch
  | watchAgeReached | memoryRequestRelease | waitingRequestDecide | wayOrRecallFree | stencilOpComplete | farRegisterIdle | leashExpiry
  | responseTimeout | censusJobStart | censusSnoopStart | barrierTimeout => exact Res.kept_inSlice
  | watchInstalled | barrierRelease => exact Res.kept_of_deep (State.deep_ite rfl (State.deep_inSlice _ _ _))
  | slBarrierReport | slBarrierRelease | slGenMismatch | slTimeoutNotice | slTimeoutReply | slMemsyncRequest => exact Res.kept_deliver
  | memsyncDone => exact kept_execMemsyncDone _ _
  | memAnswerLate => exact kept_execMemAnswerLate _ _ _
  | resend => exact kept_execResend _ _ _
  | resendTimeout => exact kept_execResendTimeout _ _ _
  -- recovery
  | controlLogicFault => exact kept_execControlLogicFault _ _ _ _
  | replayDone => exact kept_execReplayDone _ _
  | replayOverrun => exact Res.kept_unlessFrozen_release (State.deep_onSlice _ _ _)
  | sliceLinkChannelTimeout | networkInterfaceFault =>
    exact Res.kept_unlessFrozen_ite (pkeeps_thenRelease (State.deep_failSlice _ _))
  | spareReady => exact Res.kept_unlessFrozen_release (State.deep_spareReady s)
  | substitutionCopyDone => exact Res.kept_unlessFrozen_release (State.deep_copyDone s)
  | substitutionMapDone => exact Res.kept_unlessFrozen_release (State.deep_mapDone s)
  | substitutionReplayDone => exact Res.kept_unlessFrozen_release (by rw [State.deep_takeLate, State.deep_substReplayDone])
  | recoverEnd => exact Res.kept_unlessFrozen_release (State.deep_recoverEnd s)
  | deadWalkDone => exact Res.kept_unlessFrozen_of_deep (State.deep_ite rfl (State.deep_deadWalkDone s))
  | retirementDone => exact Res.kept_unlessFrozen_of_deep (State.deep_retireDone _ _)
  | packResetDrained => exact Res.kept_unlessFrozen_of_deep (State.deep_packResetDrained _ _)
  | packResetWalkDone => exact Res.kept_unlessFrozen_of_deep (State.deep_packResetWalkDone _ _)
  | fenceDone => exact Res.kept_unlessFrozen_of_deep (State.deep_fenceDone _ _)
  -- the register port
  | glbModecmdDrain | glbModecmdRun | glbModecmdDormant | glbModecmdWarm | shdCmdRestart | shdCmdSafe | shdCtlHalt | shdMboxWrite
  | knlPlcmdInstall | knlPlcmdReload | knlPlcmdCheck | glbLockWrite | prtKeyrWrite | pckWinWrite | pckFence | pckGateWrite | pckShapeWrite
  | pckResvWrite | pckOrdWrite | slcEgrantWrite | pckReset | prtRetire | slcRplCmdForce | brnCmdSubmit | brnCmdCancel | brnSubmitCancel
  | ldgCmdFlush | ldgHeadRead | ldgRingWrite | ldgCtlWrite | brkSwsetRaise | brkSwsetWdraw | brkPendClear | brkClaimRead | registerWrite
  | frzCmdFreeze | frzAaddr => exact Res.kept_portAccess
  | secondBeatTimeout => exact Res.kept_unlessFrozen (pkeeps_beatTimeout _ _)
  -- mode changes
  | dormantDrained => exact Res.kept_unlessFrozen_of_deep (State.deep_dormantDrained s)
  | dormantFlushed => exact Res.kept_unlessFrozen_of_deep (State.deep_dormantFlushed s)
  | scentBuilt => exact Res.kept_unlessFrozen_of_deep (State.deep_scentBuilt s)
  | dormantSettleExpiry => exact Res.kept_unlessFrozen_of_deep (State.deep_dormantSettled s)
  | slicePowerChangeDone => exact kept_execSlicePowerChangeDone _ _
  | wakeWaveStart => exact Res.kept_unlessFrozen_of_deep (State.deep_wakeWave _ _)
  | sliceFillDone => exact Res.kept_unlessFrozen_release (State.deep_fillDone _ _)
  | wakeComplete => exact Res.kept_unlessFrozen_release (State.deep_wakeDone s)
  | wakeSliceTimeout => exact Res.kept_unlessFrozen_of_deep (State.deep_wakeTimeout _ _)
  | controlIslandIdleOff => exact Res.kept_unlessFrozen_of_deep (State.deep_idleOff s)
  | controlIslandReady => exact kept_execControlIslandReady s
  -- start-up, and the ends of the resets
  | xjPwrgoodRise => exact kept_execXjPwrgoodRise s
  | xjAonRstRelease => exact kept_execXjAonRstRelease s
  | xjColdRstRelease => exact kept_execXjColdRstRelease s
  | coldResetHeld => exact Res.kept_unlessFrozen_of_deep (State.deep_coldHeld s)
  | bootRomDone => exact Res.kept_unlessFrozen_of_deep (State.deep_bootRomDone s)
  | fuseMapRead => exact Res.kept_unlessFrozen_of_deep (State.deep_fuseMapRead s)
  | calibrationCheck => exact Res.kept_unlessFrozen_of_deep (State.deep_calibrationCheck s)
  | plateVerifyDone => exact Res.kept_unlessFrozen (keeps_plateVerifyDone s).port
  | powerWaveStart => exact Res.kept_unlessFrozen_of_deep (State.deep_powerWave _ _)
  | selftestDone => exact Res.kept_unlessFrozen_of_deep (State.deep_selftestDone _ _)
  | creditWave => exact Res.kept_unlessFrozen ((keeps_creditWave s).port.trans (pkeeps_release _))
  -- the Kennel: its network interface, the plate, the sensors and the store
  | kennelRequest => exact Res.kept_unlessFrozen_of_deep (State.deep_knlRequest _ _)
  | kennelMemRsp => exact Res.kept_unlessFrozen_of_deep (State.deep_knlPkt _ _)
  | dormantRateWindow => exact Res.kept_unlessFrozen_of_deep (State.deep_rateWindow s)
  | epochBoundary => exact Res.kept_unlessFrozen_of_deep (State.deep_epochBoundary s)
  | plateLineFetched => exact kept_execPlateLineFetched _ _
  | plateFetchTimeout => exact Res.kept_unlessFrozen_of_deep (State.deep_ite (State.deep_plateTimeout _ _) rfl)
  | plateSlotWritten => exact Res.kept_unlessFrozen_of_deep (State.deep_ite (State.deep_plateWritten s) rfl)
  | reloadDone => exact Res.kept_unlessFrozen_ite (keeps_reloadDone s).port
  | plateCheckDone => exact Res.kept_unlessFrozen_of_deep (State.deep_ite (State.deep_checkDone s) rfl)
  | islandSlow => exact Res.kept_unlessFrozen_of_deep (State.deep_islandSlow _ _ _)
  | pmbusPoll => exact Res.kept_unlessFrozen_of_deep (State.deep_pmbusPoll _ _)
  | pmbusReadDone => exact Res.kept_unlessFrozen_of_deep (State.deep_pmbusDone _ _ _ _)
  | thermalConversion => exact Res.kept_unlessFrozen_of_deep (State.deep_thermalConversion _ _ _)
  | storeWordProgrammed => exact kept_execStoreWordProgrammed _ _
  | calibOverwrite => exact Res.kept_unlessFrozen_of_deep (State.deep_calibOverwrite s)
  | kennelScrub => exact Res.kept_unlessFrozen_of_deep (State.deep_kennelScrub s)
  | lifeRecord => exact Res.kept_unlessFrozen_of_deep (State.deep_lifeRecord s)
  -- the Sheepdog
  | addi | aluAdd | aluSub | aluAnd | aluOr | aluXor | aluShl | aluShr | aluSar | aluMul | aluMin | aluMax | aluMinu | aluMaxu | lui
  | med3 | iir | deb | rchk | tmo => exact Res.kept_instrReg
  | ld => exact Res.kept_instr (State.deep_load _ _ _)
  | st => exact Res.kept_instr (State.deep_store _ _ _)
  | stp => exact Res.kept_instr (State.deep_storeProg _ _ _ _)
  | bcc => exact Res.kept_instr (State.deep_ite (State.deep_nextAt _ _) (State.deep_nextPc _))
  | jal => exact kept_execJal _ _ _ _
  | sample => exact Res.kept_instr (State.deep_sampleOp _ _ _)
  | regRead | regWrite => exact Res.kept_instr_regOp
  | grant => exact Res.kept_instr (by rw [State.deep_withStatus, State.deep_grantTo])
  | pwr => exact Res.kept_instr (by rw [State.deep_withStatus, State.deep_power])
  | clk => exact Res.kept_instr (by rw [State.deep_withStatus, State.deep_ceiling])
  | bark => exact Res.kept_instr (by rw [State.deep_nextPc, State.deep_sheepBark])
  | log => exact kept_execLog _ _ _ _
  | kstLog | kstSlot => exact Res.kept_instr (State.deep_kstOp _ _ _ _)
  | mode => exact kept_execMode _ _ _ _
  | wait => exact Res.kept_instr (State.deep_beginWait _ _)
  | wdt => exact Res.kept_instr (State.deep_putNext _ _ rfl)
  | waitEnd => exact Res.kept_unlessFrozen_of_deep (State.deep_waitOver s)
  | watchdogExpiry => exact Res.kept_of_deep (State.deep_watchdog s)
  | sheepdogRestart => exact Res.kept_unlessFrozen_ite (keeps_sheepRestart s).port
  -- the control island's units and the interrupt output
  | burinJobStart => exact Res.kept_onIsland (State.deep_ite rfl (State.deep_burinStart s))
  | burinChunkIssue => exact Res.kept_onIsland (State.deep_ite rfl (State.deep_burinIssue s))
  | burinChunkComplete => exact Res.kept_onIsland (State.deep_burinComplete s)
  | ledgerTakeRecord => exact Res.kept_onIsland (by rw [State.deep_warmPoll, State.deep_ldgTake])
  | ledgerFlushAge => exact Res.kept_onIsland (State.deep_ite (by rw [State.deep_warmPoll, State.deep_ldgClose]) rfl)
  | ledgerSpillDone => exact Res.kept_onIsland (by rw [State.deep_warmPoll, State.deep_ctlPkt])
  | ledgerRefill => exact kept_execLedgerRefill _ _
  | ledgerRefillTimeout => exact Res.kept_onIsland (by rw [State.deep_warmPoll, State.deep_ldgTimeout])
  | barkCommit | moderationExpiry => exact Res.kept_onIsland (State.deep_updBrk _ _)
  | irqTransfer => exact Res.kept_unlessFrozen_of_deep (State.deep_irqTransfer s)
  | irqDrop => exact Res.kept_unlessFrozen_of_deep (State.deep_irqDropped s)
  -- freeze, the TAP and the debug array read
  | xjFreezeAssert => exact kept_execXjFreezeAssert s
  | xjFreezeDeassert => exact kept_execXjFreezeDeassert s
  | frozen => exact kept_execFrozen s
  | thawComplete => exact pkeeps_thenRelease (State.deep_frzThaw s)
  | readoutEnd => exact Res.kept_of_deep (State.deep_readoutEnd s)
  | tapSethold | tapClrhold | tapPrfport | tapPrftap | tapAbort => exact Res.kept_tapUpdate
  | dbgdrRead | dbgdrWriteAaddr => exact Res.kept_tapDebug
  | tapReset => exact Res.kept_of_deep (State.deep_tapIr s _)
  | debugArrayRead => exact Res.kept_unlessFrozen_of_deep (State.deep_debugRead s)

theorem pkeeps_exec {c : Instr} {s t : State} (trip : ∀ up, c ≠ .thermTripCrossing up) (cold : c ≠ .xjColdRstAssert)
    (aon : c ≠ .xjAonRstAssert) (fall : c ≠ .xjPwrgoodFall) (h : exec c s = .next t) : PKeeps s t := by
  have k := kept_exec c s trip cold aon fall
  rw [h] at k
  exact k

theorem exec_thermTripCrossing_lock {up : Bool} {s t : State} (h : exec (.thermTripCrossing up) s = .next t) : t.lock = s.lock := by
  cases h
  exact State.updPins_lock s _

/-- No command but a reset event clears LOCK. -/
theorem exec_lock {c : Instr} {s t : State} (cold : c ≠ .xjColdRstAssert) (aon : c ≠ .xjAonRstAssert) (fall : c ≠ .xjPwrgoodFall)
    (h : exec c s = .next t) (hl : s.lock.lock = true) : t.lock.lock = true := by
  by_cases trip : ∃ up, c = .thermTripCrossing up
  · obtain ⟨up, rfl⟩ := trip
    rw [exec_thermTripCrossing_lock h]
    exact hl
  · exact (pkeeps_exec (fun up e => trip ⟨up, e⟩) cold aon fall h).lock hl

/-- Settles O3: with none waiting the step is a tick, which keeps LOCK as every operation does; else it is that of the command. -/
theorem lockIsSticky : Obligations.lock_is_sticky := by
  intro s t cold aon fall hl h
  unfold step at h
  split at h
  next =>
    cases h
    exact (pkeeps_tick s).lock hl
  next c rest hp =>
    rw [hp, List.head?_cons] at cold aon fall
    exact exec_lock (s := { s with pending := rest }) (fun e => cold (congrArg some e)) (fun e => aon (congrArg some e))
      (fun e => fall (congrArg some e)) h hl

end Sys2Proof.Machine
end


section
/-! ATOMICS. What an Atomic does to a line is said in two parts: an operation of Table 7-2 gives on numbers what it gives on machine
words of the operand's width (`atomicOp_toNat`), and putting an operand into a line changes the operand's bits alone
(`getLsbD_putOperand`). -/

namespace Sys2Proof.Machine

/-! ### The operations on machine words -/

/-- The new value of an operation of Table 7-2, on words of the operand's width (R167). -/
def atomicWord {k : Nat} (op : Nat) (V A C : BitVec k) : BitVec k :=
  match op with
  | 0 => A
  | 1 => if V = C then A else V
  | 2 => V + A
  | 3 => V &&& ~~~A
  | 4 => V ||| A
  | 5 => V ^^^ A
  | 6 => if V.slt A then A else V
  | 7 => if A.slt V then A else V
  | 8 => if V.ult A then A else V
  | _ => if A.ult V then A else V

theorem signed_toNat {k : Nat} (x : BitVec k) : signed k x.toNat = x.toInt := by
  have hx := x.isLt
  rw [signed, BitVec.toInt_eq_toNat_cond]
  cases k with
  | zero => simp [show x.toNat = 0 by omega]
  | succ n =>
    have half : x.toNat < 2 ^ n ↔ 2 * x.toNat < 2 ^ (n + 1) := by omega
    simp only [Nat.add_sub_cancel, half]
    split <;> simp

/-- A choice by `p` and the opposite choice by `q` agree when one of `p` and `q` holds or the words are equal: SMAX and SMIN, which the
model decides by the one strict comparison and `atomicWord` by the other. -/
theorem toNat_ite_swap {k : Nat} {x y : BitVec k} {p q : Prop} [Decidable p] [Decidable q] (one : p ∨ q ∨ x = y) (both : ¬(p ∧ q)) :
    (if p then x.toNat else y.toNat) = (if q then y else x).toNat := by
  rcases one with hp | hq | rfl
  · rw [if_pos hp, if_neg fun hq => both ⟨hp, hq⟩]
  · rw [if_neg fun hp => both ⟨hp, hq⟩, if_pos hq]
  · simp

theorem atomicOp_toNat {k : Nat} (op : Nat) (V A C : BitVec k) :
    atomicOp op k V.toNat A.toNat C.toNat = (atomicWord op V A C).toNat := by
  unfold atomicOp
  split
  case h_1 => rfl
  case h_2 => simp only [atomicWord, BitVec.toNat_inj, apply_ite BitVec.toNat]
  case h_3 => exact (BitVec.toNat_add V A).symm
  case h_4 => simp only [atomicWord, BitVec.toNat_and, BitVec.toNat_not]
  case h_5 => exact (BitVec.toNat_or V A).symm
  case h_6 => exact (BitVec.toNat_xor V A).symm
  case h_7 | h_8 =>
    simp only [atomicWord, signed_toNat, BitVec.slt_iff_toInt_lt]
    exact toNat_ite_swap (by rw [← BitVec.toInt_inj]; omega) (by omega)
  case h_9 =>
    simp only [atomicWord, BitVec.ult_iff_toNat_lt, apply_ite BitVec.toNat]
    rw [show V.toNat.max A.toNat = max V.toNat A.toNat from rfl]
    split <;> omega
  case h_10 =>
    simp only [atomicWord, BitVec.ult_iff_toNat_lt, apply_ite BitVec.toNat]
    rw [show V.toNat.min A.toNat = min V.toNat A.toNat from rfl]
    split <;> omega

/-! ### The operand in its line -/

/-- The bits of the operand of `k` bits at bit `off` of a line. -/
def operandMask (off k : Nat) : BitVec 512 := BitVec.ofNat 512 ((2 ^ k - 1) * 2 ^ off)

/-- The line with the number `x` as its operand of `k` bits at bit `off`. -/
def putOperand (line : BitVec 512) (off k x : Nat) : BitVec 512 :=
  (line &&& ~~~(operandMask off k)) ||| (BitVec.ofNat 512 (x * 2 ^ off) &&& operandMask off k)

theorem getLsbD_operandMask (off k : Nat) {i : Nat} (hi : i < 512) :
    (operandMask off k).getLsbD i = decide (off ≤ i ∧ i < off + k) := by
  rw [operandMask, BitVec.getLsbD_ofNat, Nat.testBit_mul_two_pow, Nat.testBit_two_pow_sub_one]
  grind

theorem getLsbD_putOperand (line : BitVec 512) (off k x : Nat) {i : Nat} (hi : i < 512) :
    (putOperand line off k x).getLsbD i = if off ≤ i ∧ i < off + k then x.testBit (i - off) else line.getLsbD i := by
  simp only [putOperand, BitVec.getLsbD_or, BitVec.getLsbD_and, BitVec.getLsbD_not, getLsbD_operandMask off k hi,
    BitVec.getLsbD_ofNat, Nat.testBit_mul_two_pow]
  by_cases lo : off ≤ i <;> by_cases up : i < off + k <;> simp [hi, lo, up]

theorem operand_putOperand (line : BitVec 512) {off k : Nat} (x : BitVec k) (fits : off + k ≤ 512) :
    BitVec.ofNat k ((putOperand line off k x.toNat).toNat / 2 ^ off) = x := by
  apply BitVec.eq_of_getLsbD_eq
  intro i hi
  have inside : off ≤ off + i ∧ off + i < off + k := by omega
  rw [BitVec.getLsbD_ofNat, Nat.testBit_div_two_pow, Nat.add_comm i off, BitVec.testBit_toNat,
    getLsbD_putOperand line off k x.toNat (by omega), if_pos inside, Nat.add_sub_cancel_left]
  simp [hi, BitVec.getLsbD]

theorem getLsbD_putOperand_outside (line : BitVec 512) {off k : Nat} (x : Nat) {i : Nat} (hi : i < 512) (out : i < off ∨ off + k ≤ i) :
    (putOperand line off k x).getLsbD i = line.getLsbD i := by
  rw [getLsbD_putOperand line off k x hi, if_neg (by omega)]

/-! ### An Atomic -/

/-- An operand has the width of the operation, for CAS of 16 bytes that of a data unit (Table 7-3). -/
theorem Req.operands_lt (r : Req) : r.operands.1 < 2 ^ (8 * r.opSize) ∧ r.operands.2 < 2 ^ (8 * r.opSize) := by
  have zero : 0 < 2 ^ (8 * r.opSize) := Nat.two_pow_pos _
  have word (v : Nat) : v % 2 ^ (8 * r.opSize) < 2 ^ (8 * r.opSize) := Nat.mod_lt v zero
  unfold Req.operands
  dsimp only
  split
  · split
    next wide =>
      rw [wide]
      exact ⟨BitVec.isLt _, BitVec.isLt _⟩
    next => exact ⟨word _, word _⟩
  · exact ⟨word _, zero⟩

/-- An Atomic puts the word that Table 7-2 gives in the place of the operand at OFF and returns the old one (R167). -/
theorem Req.performAtomic_eq (r : Req) (line : BitVec 512) :
    let k := 8 * r.opSize
    let off := 8 * (r.f.toNat / 2 ^ 6 % 2 ^ 6)
    let V : BitVec k := BitVec.ofNat k (line.toNat / 2 ^ off)
    let A : BitVec k := BitVec.ofNat k r.operands.1
    let C : BitVec k := BitVec.ofNat k r.operands.2
    r.performAtomic line = (putOperand line off k (atomicWord (r.f.toNat % 16) V A C).toNat, BitVec.ofNat 128 V.toNat) := by
  intro k off V A C
  obtain ⟨ha, hc⟩ := r.operands_lt
  have eA : A.toNat = r.operands.1 := Nat.mod_eq_of_lt ha
  have eC : C.toNat = r.operands.2 := Nat.mod_eq_of_lt hc
  have eOp : r.f.toNat % 16 = fld r.f 3 0 := by simp [fld]
  have eOff : off = 8 * fld r.f 11 6 := by simp [off, fld, Nat.shiftRight_eq_div_pow]
  rw [← atomicOp_toNat, eA, eC, BitVec.toNat_ofNat, eOp, eOff]
  rfl

/-- Settles O29: the line that an Atomic leaves is the old one with the new value put in, and V has at most the 128 bits of a unit. -/
theorem atomicOperations : Obligations.atomic_operations := by
  intro r line k off V A C new _ size fits
  have wide : V.toNat < 2 ^ 128 := Nat.lt_of_lt_of_le V.isLt (Nat.pow_le_pow_right (by decide) (by omega))
  have eNew : new = atomicWord (r.f.toNat % 16) V A C := rfl
  rw [eNew, r.performAtomic_eq line]
  exact ⟨Nat.mod_eq_of_lt wide, operand_putOperand line _ fits, fun i => getLsbD_putOperand_outside line _⟩

end Sys2Proof.Machine
end
